-- ==== Sys2Proof/Word.lean ====
section
/-! DEFINITION. The word types of the module and their plainest arithmetic (files 00 and 02 of the spec). -/

namespace Sys2Proof

/-- One byte of memory (R599). -/
abbrev Byte := BitVec 8

/-- One 4 B register word (R575). -/
abbrev Word := BitVec 32

/-- One 64-bit word: the unit of parity (R500) and of the counters (R81). -/
abbrev DWord := BitVec 64

/-- Cores 0–799 (R2). -/
abbrev CoreId := Fin 800

/-- Thread slots 0–7 within a core (R2). -/
abbrev SlotId := Fin 8

/-- Streams 0–15 within a core (R2). -/
abbrev StreamId := Fin 16

/-- Partitions 0–15 (R2). -/
abbrev PartId := Fin 16

/-- Dies 0–15 (R2). -/
abbrev DieId := Fin 16

/-- Piles 0–7 (R2). -/
abbrev PileId := Fin 8

/-- Links 0–63 (R328). -/
abbrev LinkId := Fin 64

/-- Functions in the order A0–A7, B0–B7 (R419, R420). -/
abbrev FnId := Fin 16

/-- Work rings 0–7 of a function (R422). -/
abbrev RingId := Fin 8

/-- Lanes 0–31 of an engine (R327). -/
abbrev LaneId := Fin 32

/-- Power domains 0–49 (R478). -/
abbrev DomId := Fin 50

/-- Firmware processors HIF, BAL, LNK, MEM, SEC, SUP (R450). -/
abbrev ProcId := Fin 6

/-- Channel indices 0–65,535 (R348). -/
abbrev ChanIdx := Fin 65536

end Sys2Proof
end

