-- ==== Sys2Proof/Syntax.lean ====
section
/-! DEFINITION. The commands of the block: one constructor per row of spec/opcode_table.json, in the table's order.
The table gives its rows no operands and no bits; the operands here are what the rule that a row names needs from
outside (log entry 1): which core, slot, stream, partition, function, link or channel the event happens at, the bytes
that arrive from a host, a peer or the board, and the figures that no rule fixes (elapsed cycles, sensor readings). -/

namespace Sys2Proof

/-- The scratchpad ports in the order of priority of R97. -/
inductive Port where
  | arrayWrite | arrayRow | arrayShadow | latheRead | latheWrite | vecRead | vecWrite | stream
  deriving DecidableEq, Repr

/-- One access by a port: physical scratchpad offset and bytes (R95). -/
structure PortAccess where
  port : Port
  off  : Nat
  len  : Nat
  deriving DecidableEq, Repr

/-- A parity error met on a 64-bit word of the scratchpad (or, numbered from 524,288 up, of the chuck, R132): whether the
re-read fails too (R101, R102). -/
structure ParityHit where
  word   : Nat
  reread : Bool
  deriving DecidableEq, Repr

/-- What the physics of one island command brings from outside: the cycles it was held in the array, the core cycles for which its
freezes under cause stream lasted (R94), the accesses that meet in consecutive island cycles (R98), and the parity errors its reads
meet (R101). -/
structure IslandEnv where
  held   : Nat
  strm   : Nat
  meet   : List (List PortAccess)
  parity : List ParityHit
  deriving DecidableEq, Repr

/-- The bytes a tier-2 read brings (host read completion, or a peer's response), and whether the TLP is poisoned (R501). -/
structure ExtData where
  bytes    : List Byte
  poisoned : Bool
  deriving DecidableEq, Repr

/-- Where a message that an engine consumes lies: in the ring of a channel end, or arriving through the module fabric
for this partition itself (handle 0 of R371, contributions to own slices of R247). -/
inductive MsgSrc where
  | ring (idx : ChanIdx)
  | fabric (bytes : List Byte)
  deriving DecidableEq, Repr

/-- Parity errors on words that cross the fabric or a die-to-pile link (R296): how many the sender sent again, and whether a word failed that
too (R500, R511). -/
structure LinkErrors where
  resent : Nat
  dead   : Bool
  deriving DecidableEq, Repr

/-- The bytes of a write to a pile: whether a word of them is poisoned, and the parity errors on their way (R289, R296). -/
structure WriteCheck where
  poisoned : Bool
  link     : LinkErrors
  deriving DecidableEq, Repr

/-- Where a state machine of the scheduler, the admission engine or the escapement runs, and whether the state it reads there fails its
parity check (R511). -/
structure EngineAt (α : Type) where
  place : α
  bad   : Bool
  deriving DecidableEq, Repr

/-- What the progress watchdog saw: for how many core cycles the island was frozen, and for how many the awaited stream had not moved (R180). -/
structure StallSeen where
  held  : Nat
  still : Nat
  deriving DecidableEq, Repr

/-- The slots that a scrub has cleared, counted from its first, and how often an access of the island waited for it (R111). -/
structure ScrubSpan where
  slots : Nat
  waits : Nat
  deriving DecidableEq, Repr

/-- A request for an audit snapshot: by whom, and the classes whose counters' own storage fails uncorrectably as they are read (R11, R509). -/
structure SnapWrite where
  fn  : FnId
  bad : List Nat
  deriving DecidableEq, Repr

/-- Words of a 257-word segment (256 words and the row check, index 256) that fail their parity at a read, and which of
them fail the re-read too (R296); the errors on its way from the base die; and whether the pile's poison map proves uncorrectable (R511). -/
structure SegErrors where
  first  : List Nat
  reread : List Nat
  link   : LinkErrors
  map    : Bool
  deriving DecidableEq, Repr

/-- The base-die atomics of R295. -/
inductive AtomicOp where
  | satAdd | f32Max | exchange
  deriving DecidableEq, Repr

/-- The two host ports. -/
inductive HostPort where
  | portA | portB
  deriving DecidableEq, Repr

/-- The MCTP bindings of R567. -/
inductive Binding where
  | sideband | pcieA | pcieB
  deriving DecidableEq, Repr

/-- What the five steps of link training find (R329). -/
structure TrainResult where
  lanesOk  : Word
  peerWidth : Nat
  peer     : BitVec 12
  peerEng  : BitVec 4
  peerPort : BitVec 2
  rttNs    : Nat
  deriving DecidableEq, Repr

/-- What a firmware processor meets: a reason to restart (R458), or a poisoned word in a mailbox or shared table, a module error (R500, R511). -/
inductive ProcFault where
  | protection | undefinedInstruction | poisonedWord | sharedWord
  deriving DecidableEq, Repr

/-- A log entry offered to the append unit (R469). -/
structure LogReq where
  proc    : ProcId
  level   : Fin 4
  point   : BitVec 12
  part    : Option PartId
  payload : List Byte
  deriving DecidableEq, Repr

/-- The commands of the block, one per row of the table (R-number of the row in its docstring). -/
inductive Instr where
  /-- R86. -/ | nop (c : CoreId) (k : SlotId)
  /-- R88. -/ | endCmd (c : CoreId) (k : SlotId)
  /-- R90. -/ | taskEndComplete (c : CoreId) (k : SlotId)
  /-- R88. -/ | wait (c : CoreId) (k : SlotId)
  /-- R88. -/ | signalAdd (c : CoreId) (k : SlotId)
  /-- R88. -/ | signalSet (c : CoreId) (k : SlotId)
  /-- R88. -/ | fence (c : CoreId) (k : SlotId)
  /-- R86. -/ | commandBufferRefill (c : CoreId) (k : SlotId)
  /-- R66. -/ | sload (c : CoreId) (k : SlotId) (env : IslandEnv)
  /-- R65. -/ | shadowLoadComplete (c : CoreId)
  /-- R62. -/ | pass (c : CoreId) (k : SlotId) (env : IslandEnv)
  /-- R62. -/ | passComplete (c : CoreId)
  /-- R125. -/ | vop (c : CoreId) (k : SlotId) (env : IslandEnv)
  /-- R128. -/ | funcForward (c : CoreId) (k : SlotId) (env : IslandEnv)
  /-- R129. -/ | funcDerivative (c : CoreId) (k : SlotId) (env : IslandEnv)
  /-- R126. -/ | vectorCommandComplete (c : CoreId)
  /-- R134. -/ | normFwd (c : CoreId) (k : SlotId) (env : IslandEnv)
  /-- R134. -/ | rmsFwd (c : CoreId) (k : SlotId) (env : IslandEnv)
  /-- R134. -/ | normBwd (c : CoreId) (k : SlotId) (env : IslandEnv)
  /-- R134. -/ | rmsBwd (c : CoreId) (k : SlotId) (env : IslandEnv)
  /-- R134. -/ | smaxFwd (c : CoreId) (k : SlotId) (env : IslandEnv)
  /-- R134. -/ | smaxRun (c : CoreId) (k : SlotId) (env : IslandEnv)
  /-- R134. -/ | smaxBwd (c : CoreId) (k : SlotId) (env : IslandEnv)
  /-- R134. -/ | chuckLoad (c : CoreId) (k : SlotId) (env : IslandEnv)
  /-- R134. -/ | chuckStore (c : CoreId) (k : SlotId) (env : IslandEnv)
  /-- R138. -/ | latheCommandComplete (c : CoreId)
  /-- R259. -/ | update (c : CoreId) (k : SlotId) (env : IslandEnv)
  /-- R259. -/ | updateComplete (c : CoreId)
  /-- R156. -/ | sarm (c : CoreId) (k : SlotId) (parity : List ParityHit)
  /-- R169. -/ | srearm (c : CoreId) (k : SlotId)
  /-- R171. -/ | sdisarmFinish (c : CoreId) (k : SlotId)
  /-- R172. -/ | sdisarmCancel (c : CoreId) (k : SlotId)
  /-- R161. -/ | streamChunkFetch (c : CoreId) (st : StreamId)
  /-- R160. -/ | streamReadLanded (c : CoreId) (st : StreamId) (chunk read : Nat) (ext : ExtData)
  /-- R164. -/ | drainChunkWrite (c : CoreId) (st : StreamId) (parity : List ParityHit)
  /-- R164. -/ | drainWriteAccepted (c : CoreId) (st : StreamId) (chunk write : Nat)
  /-- R176. -/ | sourceTimeout (c : CoreId) (st : StreamId) (chunk read : Nat)
  /-- R180. -/ | progressWatchdogFire (c : CoreId) (frozen : StallSeen)
  /-- R91. -/ | stateImageSaved (c : CoreId) (k : SlotId) (cycles : Nat)
  /-- R355. -/ | sendBytes (c : CoreId) (k : SlotId) (parity : List ParityHit)
  /-- R355. -/ | sendContribution (c : CoreId) (k : SlotId) (parity : List ParityHit)
  /-- R356. -/ | recv (c : CoreId) (k : SlotId) (parity : List ParityHit)
  /-- R372. -/ | xdispatchDispatch (c : CoreId) (k : SlotId)
  /-- R376. -/ | xdispatchPostReceive (c : CoreId) (k : SlotId)
  /-- R381. -/ | xdispatchReturn (c : CoreId) (k : SlotId)
  /-- R380. -/ | xdispatchRestore (c : CoreId) (k : SlotId)
  /-- R383. -/ | xcombineGate (c : CoreId) (k : SlotId)
  /-- R383. -/ | xcombineUnit (c : CoreId) (k : SlotId)
  /-- R377. -/ | dispatchMessageArrival (p : PartId) (src : MsgSrc)
  /-- R382. -/ | returnMessageArrival (p : PartId) (src : MsgSrc)
  /-- R213. -/ | rerunReqArrival (p : PartId) (src : MsgSrc)
  /-- R248. -/ | contributionMessage (p : PartId) (src : MsgSrc)
  /-- R246. -/ | accumulatorZeroDone (p : PartId) (slice : Nat)
  /-- R252. -/ | updateTaskPlacement (p : PartId) (slice : Nat)
  /-- R423. -/ | workDoorbell (f : FnId) (r : RingId) (count : Word)
  /-- R423. -/ | workRingEnable (f : FnId) (r : RingId) (value : Word)
  /-- R425. -/ | workNop (f : FnId) (r : RingId) (desc : List Byte)
  /-- R424. -/ | stepBegin (f : FnId) (r : RingId) (desc : List Byte)
  /-- R425. -/ | task (f : FnId) (r : RingId) (desc : List Byte)
  /-- R425. -/ | deps (f : FnId) (r : RingId) (desc : List Byte)
  /-- R424. -/ | stepEnd (f : FnId) (r : RingId) (desc : List Byte)
  /-- R409. -/ | item (f : FnId) (r : RingId) (desc : List Byte)
  /-- R15. -/ | stepOpen (p : EngineAt PartId)
  /-- R395. -/ | taskPlacement (d : EngineAt DieId)
  /-- R210. -/ | barrelGroupPlacement (p : PartId) (group : Word)
  /-- R199. -/ | barrelApertureWrite (p : PartId) (va : Nat) (bytes : List Byte) (close : Bool)
  /-- R202. -/ | barrelApertureRead (p : PartId) (va len : Nat)
  /-- R205. -/ | spillWriteTimeout (p : PartId)
  /-- R430. -/ | completionDoorbell (f : FnId) (r : RingId) (count : Word)
  /-- R431. -/ | msixModerationTimer (f : FnId) (r : RingId)
  /-- R467. -/ | features (f : FnId)
  /-- R402. -/ | partitionCreate (f : FnId) (block : List Byte)
  /-- R578. -/ | partitionDestroy (f : FnId)
  /-- R435. -/ | bind (f : FnId)
  /-- R435. -/ | unbind (f : FnId)
  /-- R435. -/ | jobStart (f : FnId)
  /-- R435. -/ | jobEnd (f : FnId)
  /-- R311. -/ | alloc (f : FnId)
  /-- R435. -/ | free (f : FnId)
  /-- R284. -/ | invalidate (f : FnId)
  /-- R105. -/ | windowGrant (f : FnId)
  /-- R105. -/ | windowRelease (f : FnId)
  /-- R108. -/ | evict (f : FnId)
  /-- R108. -/ | evictionComplete (w : Word)
  /-- R109. -/ | restore (f : FnId)
  /-- R109. -/ | restoreComplete (w : Word)
  /-- R111. -/ | scrubComplete (c : CoreId) (first : Nat) (count : ScrubSpan)
  /-- R349. -/ | channelCreate (f : FnId)
  /-- R351. -/ | channelDestroy (f : FnId)
  /-- R405. -/ | quota (f : FnId) (block : List Byte)
  /-- R402. -/ | schedSet (f : FnId)
  /-- R399. -/ | suspend (f : FnId)
  /-- R401. -/ | resume (f : FnId)
  /-- R272. -/ | genAlign (f : FnId)
  /-- R439. -/ | orphanSet (f : FnId)
  /-- R440. -/ | reattach (f : FnId)
  /-- R465. -/ | fwLoad (f : FnId) (bundle : List Byte) (dmaError : Bool)
  /-- R444. -/ | moduleResetFull (f : FnId)
  /-- R601. -/ | moduleResetSetHotFull (f : FnId)
  /-- R433. -/ | dataWindowRead (f : FnId) (off len : Nat)
  /-- R433. -/ | dataWindowWrite (f : FnId) (off : Nat) (bytes : List Byte) (poisoned : Bool)
  /-- R438. -/ | livenessSample (f : FnId)
  /-- R439. -/ | orphanHoldExpiry (p : PartId)
  /-- R441. -/ | flr (f : FnId)
  /-- R441. -/ | functionDisable (f : FnId)
  /-- R443. -/ | pcieHotReset (port : HostPort)
  /-- R438. -/ | pcieLinkDown (port : HostPort)
  /-- R558. -/ | perstAssert (port : HostPort)
  /-- R558. -/ | perstRelease (port : HostPort)
  /-- R444. -/ | resetNoticeExpiry
  /-- R514. -/ | fullReset
  /-- R565. -/ | resetInput (lowTicks : Nat)
  /-- R513. -/ | autoResetTimer
  /-- R509. -/ | topAuditSnap (f : SnapWrite)
  /-- R81. -/ | counterLowRead (f : FnId) (off : Nat)
  /-- R118. -/ | counterClear (f : FnId) (off : Nat)
  /-- R3. -/ | registerWrite (f : FnId) (off width : Nat) (value : Word)
  /-- R147. -/ | functionTableLoad (f : FnId) (c : CoreId) (value : Word)
  /-- R131. -/ | functionTableLoadDone (c : CoreId) (slot : Fin 16)
  /-- R262. -/ | escapementReady (p : EngineAt PartId)
  /-- R263. -/ | gatherReceived (p : PartId) (src : MsgSrc)
  /-- R263. -/ | releaseReceived (p : PartId) (src : MsgSrc)
  /-- R265. -/ | abandonReceived (p : PartId) (src : MsgSrc)
  /-- R267. -/ | queryReceived (p : PartId) (src : MsgSrc)
  /-- R267. -/ | resolveReceived (p : PartId) (src : MsgSrc)
  /-- R267. -/ | answerReceived (p : PartId) (src : MsgSrc)
  /-- R266. -/ | stepTimerExpiry (p : PartId)
  /-- R266. -/ | doubtTimerExpiry (p : PartId)
  /-- R267. -/ | queryTimeout (p : PartId)
  /-- R268. -/ | resolveTimeout (p : PartId)
  /-- R329. -/ | linkTraining (l : LinkId)
  /-- R329. -/ | linkTrainingOverrun (l : LinkId)
  /-- R329. -/ | linkTrainingDone (l : LinkId) (result : TrainResult)
  /-- R329. -/ | linkTrainingRetry (l : LinkId)
  /-- R338. -/ | dataFrameReceived (l : LinkId) (words : List DWord) (bad : List Nat)
  /-- R335. -/ | linkFrameReceived (l : LinkId) (words : List DWord) (bad : List Nat)
  /-- R336. -/ | linkFrameDue (l : LinkId)
  /-- R337. -/ | replayTimer (l : LinkId)
  /-- R340. -/ | laneErrorWindow (l : LinkId) (lane : LaneId)
  /-- R340. -/ | laneSignalLoss (l : LinkId) (lane : LaneId)
  /-- R342. -/ | laneReadmitTimer (l : LinkId) (lane : LaneId)
  /-- R351. -/ | hello (handle : Word) (msg : List Byte)
  /-- R351. -/ | helloAck (handle : Word) (msg : List Byte)
  /-- R352. -/ | channelStatus (handle : Word) (msg : List Byte)
  /-- R351. -/ | bye (handle : Word) (msg : List Byte)
  /-- R351. -/ | byeAbort (handle : Word) (msg : List Byte)
  /-- R351. -/ | helloRepeatTimer (ch : ChanIdx)
  /-- R352. -/ | channelTimeout (ch : ChanIdx)
  /-- R351. -/ | closingTimeout (ch : ChanIdx)
  /-- R352. -/ | statusSendTimer (ch : ChanIdx)
  /-- R352. -/ | channelMessageArrival (handle : Word) (bytes : List Byte) (tail : Bool)
  /-- R318. -/ | rmaReadRequest (handle : Word) (msg : List Byte)
  /-- R357. -/ | rmaReadResponse (handle : Word) (msg : List Byte)
  /-- R357. -/ | rmaWrite (handle : Word) (msg : List Byte)
  /-- R318. -/ | rmaError (handle : Word) (msg : List Byte)
  /-- R296. -/ | pileRead (p : PartId) (va len : Nat) (errs : SegErrors)
  /-- R289. -/ | pileWrite (p : PartId) (va : Nat) (bytes : List Byte) (poisoned : WriteCheck)
  /-- R295. -/ | pileAtomic (p : PartId) (va : Nat) (op : AtomicOp) (operand : Word)
  /-- R299. -/ | pileTrainingDone (pl : PileId) (ok : Bool)
  /-- R300. -/ | patrolRead (pl : PileId) (errs : SegErrors)
  /-- R301. -/ | fenceScrubComplete (pl : PileId)
  /-- R492. -/ | powerApplied (straps : BitVec 4)
  /-- R477. -/ | inputSample (mv : Nat)
  /-- R477. -/ | inputRecovery
  /-- R556. -/ | vinEnBreak
  /-- R489. -/ | guardCheck (watts ca avgCa : Nat)
  /-- R490. -/ | thermalSensorSample (dies piles : List Nat)
  /-- R490. -/ | thermalLoopAdjust
  /-- R487. -/ | balEstimateUpdate (p : PartId) (watts : BitVec 16)
  /-- R488. -/ | balBudgetAdjust (ratio : BitVec 8)
  /-- R480. -/ | coreDomainSleepTimer (dom : Fin 32)
  /-- R481. -/ | domainWake (dom : DomId)
  /-- R479. -/ | domainWakeComplete (dom : DomId)
  /-- R482. -/ | pileSelfRefreshTimer (pl : PileId)
  /-- R479. -/ | coreClockGate (c : CoreId)
  /-- R483. -/ | fabricSleep
  /-- R569. -/ | pldmBudgetEffecterSet (b : Binding) (watts : Nat)
  /-- R568. -/ | pldmSensorRead (b : Binding) (id : Nat)
  /-- R567. -/ | mctpControlMessage (b : Binding) (msgType : BitVec 8) (msg : List Byte)
  /-- R525. -/ | getVersion (b : Binding)
  /-- R525. -/ | getCapabilities (b : Binding)
  /-- R525. -/ | negotiateAlgorithms (b : Binding) (sm2 sm3 : Bool)
  /-- R525. -/ | getDigests (b : Binding)
  /-- R523. -/ | getCertificate (b : Binding) (slot : Fin 8) (off len : Nat)
  /-- R525. -/ | challenge (b : Binding) (slot : Fin 8) (nonce : List Byte)
  /-- R526. -/ | getMeasurements (b : Binding) (index : Nat) (signed : Bool) (nonce : List Byte)
  /-- R525. -/ | spdmUnsupportedRequest (b : Binding) (code : BitVec 8)
  /-- R456. -/ | fwLoadGo (f : FnId) (value : Word)
  /-- R456. -/ | bundleDmaComplete (bundle : List Byte) (dmaError : Bool)
  /-- R455. -/ | bundleVerificationDone
  /-- R456. -/ | processorReady (proc : ProcId)
  /-- R453. -/ | mailboxMessage (src dst : ProcId) (msg : List Byte)
  /-- R458. -/ | processorFault (proc : ProcId) (why : ProcFault)
  /-- R458. -/ | processorWatchdogExpiry (proc : ProcId)
  /-- R458. -/ | fwProcRestart (f : FnId) (value : Word)
  /-- R459. -/ | processorRestartComplete (proc : ProcId) (second : Nat)
  /-- R466. -/ | balActivationDue
  /-- R469. -/ | logAppend (entry : LogReq)
  /-- R507. -/ | coreRetirement (c : CoreId)
  /-- R522. -/ | secSvnCommit (f : FnId) (value : Word)
  /-- R522. -/ | secKeyRevoke (f : FnId) (value : Word)
  /-- R531. -/ | secDebugChallenge (f : FnId) (value : Word)
  /-- R531. -/ | secDebugSubmit (f : FnId) (value : Word)
  /-- R532. -/ | secDebugLock (f : FnId) (value : Word)
  /-- R532. -/ | debugUnlockExpiry
  /-- R537. -/ | strikeFire (f : FnId) (value : Word)
  /-- R537. -/ | strikeInputEdge
  /-- R542. -/ | strikeThresholdSample (src : Fin 4)
  /-- R539. -/ | strikeArm (f : FnId) (value : Word)
  /-- R539. -/ | strikeRelease (f : FnId) (value : Word)
  /-- R547. -/ | dbgParGo (f : FnId) (value : Word)
  /-- R544. -/ | creditDelayExpiry (block : BitVec 12)
  /-- R338. -/ | nakRepeatTimer (l : LinkId)
  /-- R50. -/ | histogramBankRelease (p : PartId) (bank : Fin 2) (revisions : List (Fin 1024 × Word)) (bases : List (Fin 1024 × Byte))
  /-- R483. -/ | pcieLinkL1 (port : HostPort) (enter : Bool)
  /-- R567. -/ | dynamicAddressAssignment (addr : BitVec 7)
  deriving DecidableEq, Repr

end Sys2Proof
end

