-- ==== Sys2Proof/Config.lean ====
section
/-! DEFINITION. What the spec fixes by name only, per module or per part, and the free values: constants without a
body, so that nothing in Lean can evaluate them or prove a value of them (log entries 2, 3 and 4). -/

namespace Sys2Proof.Config

/-- The free values: number `n` is the value drawn when the state's counter `freeCount` reads `n`. Used for every value the
spec leaves open after an effect it states (log entry 2). -/
opaque freeValue : Nat → Nat

/-- The direction in which rsqrt and recip fall within their bound of one unit in the last place (R124), by operation and
operand bits (log entry 2). -/
opaque ulpChoice : Nat → Nat → Nat

/-- The code that recip or rsqrt of a zero gives in its lane format, by operation and operand code, and what a table gives where its
domain has an infinite end: the spec states no result there (log entry 2). -/
opaque poleValue : Nat → Nat → Nat

/-- The sum tree of the lathe (R137 says that each group of 64 is summed by one fixed tree and does not name the tree):
the order in which the elements of a group of the given length are paired, as a list of positions (log entry 5). -/
opaque latheOrder : Nat → List Nat

/-- The SM3 digest of bytes (R521: a named standard that the spec does not restate; log entry 3). -/
opaque sm3 : List Byte → List Byte

/-- Whether an SM2 signature (r then s) verifies over a digest under a public key (x then y) (R455, R531; log entry 3). -/
opaque sm2Verify : (key digest sig : List Byte) → Bool

/-- The SM2 signature that SEC makes with the identity private key over bytes (R525; log entry 3). -/
opaque sm2Sign : List Byte → List Byte

/-- Fused serial number (R521; log entry 4). -/
opaque serial : DWord

/-- Fused bundle key hashes 0–3 (R521; log entry 4). -/
opaque bundleKeyHash : Fin 4 → List Byte

/-- Fused debug key hash (R521; log entry 4). -/
opaque debugKeyHash : List Byte

/-- The certificate store of slot 0 (R523; log entry 4). -/
opaque certChain : List Byte

/-- Digest of the boot ROM, measurement block 1 (R524; log entry 4). -/
opaque romDigest : List Byte

/-- The bytes of the library function images that firmware loads into slots 0–7, where R130 gives none (it gives kinds, constants and
bounds, not the tables; log entry 6). -/
opaque libraryByte : Fin 8 → Nat → Byte

/-- The bytes of the Useus compiler's tables that firmware loads into slots 8–15 of a basic-level partition's cores at its creation, by the
number drawn at the creation (R150; log entry 118). -/
opaque compilerByte : Nat → Fin 8 → Nat → Byte

/-- The bodies of the SPDM and MCTP responses whose bytes DSP documents lay out (log entry 7). -/
opaque mctpBody : Nat → List Byte → List Byte

end Sys2Proof.Config
end

