-- ==== Sys2Proof/Machine/Bits.lean ====
section
/-! DEFINITION. The bit-field, byte-order and sign-extension helpers (R2 conventions, R599). -/

namespace Sys2Proof.Machine

/-- Bits `hi:lo` of a number (the field notation of the spec). -/
def bitsOf (w hi lo : Nat) : Nat := (w >>> lo) % 2 ^ (hi + 1 - lo)

/-- Bit `i` of a number. -/
def bitOf (w i : Nat) : Bool := (w >>> i) % 2 == 1

/-- A Bool as the number 1 or 0. -/
def b2n (b : Bool) : Nat := if b then 1 else 0

/-- The value of bytes stored little-endian (R599). -/
def leNat : List Byte → Nat
  | [] => 0
  | b :: bs => b.toNat + 256 * leNat bs

/-- `n` bytes of a number, least significant first (R599). -/
def leBytes : Nat → Nat → List Byte
  | 0, _ => []
  | n + 1, v => BitVec.ofNat 8 v :: leBytes n (v / 256)

/-- The field of `size` bytes at byte offset `off` of a structure; bytes past the end read 0. -/
def fieldAt (bs : List Byte) (off size : Nat) : Nat := leNat ((bs.drop off).take size)

/-- A number as a two's-complement integer of `w` bits. -/
def signedOf (w v : Nat) : Int :=
  let u := v % 2 ^ w
  if u < 2 ^ (w - 1) then (u : Int) else (u : Int) - (2 ^ w : Nat)

/-- Division rounding up. -/
def ceilDiv (a b : Nat) : Nat := (a + b - 1) / b

/-- The low 32 bits as a register word. -/
def toWord (n : Nat) : Word := BitVec.ofNat 32 n

/-- A 64-bit counter plus `n`, saturating (R81). -/
def satAdd64 (v : DWord) (n : Nat) : DWord :=
  BitVec.ofNat 64 (min (v.toNat + n) (2 ^ 64 - 1))

/-- Bytes as words of eight bytes; a short last word is padded with zeros. -/
def dwords : Nat → List Byte → List Nat
  | 0, _ => []
  | n + 1, bs => leNat (bs.take 8) :: dwords n (bs.drop 8)

/-- The low field of `width` bits at bit `lo` of `w` replaced by `v`. -/
def putBits (w hi lo v : Nat) : Nat :=
  w - (bitsOf w hi lo) <<< lo + (v % 2 ^ (hi + 1 - lo)) <<< lo

/-- A list padded with `d` to length `n`. -/
def padTo {α : Type} (n : Nat) (d : α) (xs : List α) : List α := xs ++ List.replicate (n - xs.length) d

/-- Bit `i` of a number set or cleared. -/
def setBit (w i : Nat) (b : Bool) : Nat := putBits w i i (b2n b)

end Sys2Proof.Machine
end

