-- ==== Sys2Proof/Machine/Flags.lean ====
section
/-! DEFINITION. The number formats, their rounding, and every arithmetic status flag (file 02, R22–R52). Values are exact
rationals; a NaN, the two infinities and the two zeros stand beside them. -/

namespace Sys2Proof.Machine

/-- The eleven formats (R22). -/
inductive Fmt where
  | f4 | f6 | f8a | f8b | f16w | f16 | f32 | i4 | i8 | i32 | x8
  deriving DecidableEq, Repr

/-- The family of a format (R22). -/
inductive FmtKind where
  | narrow | wide | int | scale
  deriving DecidableEq, Repr

/-- The layout columns of R22: kind, width in bits, exponent bits, mantissa bits, bias. -/
structure FmtRow where
  kind  : FmtKind
  width : Nat
  ebits : Nat
  mbits : Nat
  bias  : Nat
  deriving DecidableEq, Repr

/-- The table of R22. -/
def Fmt.row : Fmt → FmtRow
  | .f4   => ⟨.narrow, 4, 2, 1, 1⟩
  | .f6   => ⟨.narrow, 6, 3, 2, 3⟩
  | .f8a  => ⟨.narrow, 8, 4, 3, 7⟩
  | .f8b  => ⟨.wide, 8, 5, 2, 15⟩
  | .f16w => ⟨.wide, 16, 8, 7, 127⟩
  | .f16  => ⟨.wide, 16, 5, 10, 15⟩
  | .f32  => ⟨.wide, 32, 8, 23, 127⟩
  | .i4   => ⟨.int, 4, 0, 0, 0⟩
  | .i8   => ⟨.int, 8, 0, 0, 0⟩
  | .i32  => ⟨.int, 32, 0, 0, 0⟩
  | .x8   => ⟨.scale, 8, 8, 0, 127⟩

/-- The width of an element in bits (R22). -/
def Fmt.width (f : Fmt) : Nat := f.row.width

/-- The block-scaled formats (R28). -/
def Fmt.scaled : Fmt → Bool
  | .f4 | .f6 | .f8a | .f8b | .i4 | .i8 => true
  | _ => false

/-- The float formats. -/
def Fmt.isFloat (f : Fmt) : Bool := f.row.kind == .narrow || f.row.kind == .wide

/-- The integer formats. -/
def Fmt.isInt (f : Fmt) : Bool := f.row.kind == .int

/-- A decoded value. -/
inductive Val where
  | nan
  | inf (neg : Bool)
  | zero (neg : Bool)
  | num (q : Rat)
  deriving DecidableEq, Repr

/-- CORE_ARITH_STATUS flag bits (R52). -/
structure Flags where
  nanIn    : Bool := false
  invalid  : Bool := false
  overflow : Bool := false
  flush    : Bool := false
  intSat   : Bool := false
  x8Nan    : Bool := false
  deriving DecidableEq, Repr

/-- No flag. -/
def Flags.none : Flags := {}

/-- Flags of two events together (the flags are sticky, R52). -/
def Flags.or (a b : Flags) : Flags :=
  ⟨a.nanIn || b.nanIn, a.invalid || b.invalid, a.overflow || b.overflow, a.flush || b.flush,
   a.intSat || b.intSat, a.x8Nan || b.x8Nan⟩

/-- The flags as the bits of CORE_ARITH_STATUS (R52). -/
def Flags.bits (f : Flags) : Nat :=
  b2n f.nanIn + 2 * b2n f.invalid + 4 * b2n f.overflow + 8 * b2n f.flush + 16 * b2n f.intSat + 32 * b2n f.x8Nan

/-- 2^k for an integer k. -/
def pow2 (k : Int) : Rat := if 0 ≤ k then ((2 ^ k.toNat : Nat) : Rat) else mkRat 1 (2 ^ (-k).toNat)

/-- floor(log2 q) of a positive rational. -/
def floorLog2 (q : Rat) : Int :=
  let k : Int := (Nat.log2 q.num.natAbs : Int) - (Nat.log2 q.den : Int)
  if pow2 k ≤ q then k else k - 1

/-- ceil(log2 q) of a positive rational. -/
def ceilLog2 (q : Rat) : Int :=
  let k := floorLog2 q
  if pow2 k = q then k else k + 1

/-- |q|. -/
def ratAbs (q : Rat) : Rat := if q < 0 then -q else q

/-- A rational as a value; 0 as +0. -/
def Val.ofRat (q : Rat) : Val := if q = 0 then .zero false else .num q

/-- The finite number a value stands for; 0 for NaN and infinities. -/
def Val.rat : Val → Rat
  | .num q => q
  | _ => 0

/-- Finite and not NaN. -/
def Val.finite : Val → Bool
  | .num _ | .zero _ => true
  | _ => false

/-- Rounding modes of R33 (0b11 behaves as 0b00). The magnitude `t` is in units of the last retained bit; `r` is the 16-bit
random value of R34. -/
def roundMag (mode : Nat) (r : Nat) (t : Rat) : Nat :=
  let n := t.floor.toNat
  let frac := t - (n : Rat)
  match mode with
  | 1 => n
  | 2 => (t + mkRat (r : Int) 65536).floor.toNat
  | _ =>
    if frac < mkRat 1 2 then n
    else if mkRat 1 2 < frac then n + 1
    else if n % 2 = 0 then n else n + 1

/-- The canonical NaN code of a format (R22, R25). -/
def Fmt.nanCode (f : Fmt) : Nat :=
  let w := f.row
  match w.kind with
  | .narrow => 2 ^ (w.width - 1)
  | .wide => ((2 ^ w.ebits - 1) <<< w.mbits) + 2 ^ (w.mbits - 1)
  | _ => 0

/-- The largest finite magnitude of a float format; for an integer format the M of R30 (R22). -/
def Fmt.maxFinite (f : Fmt) : Rat :=
  let w := f.row
  match w.kind with
  | .narrow => mkRat ((2 ^ (w.mbits + 1) - 1 : Nat) : Int) (2 ^ w.mbits) * pow2 ((2 ^ w.ebits - 1 : Nat) - (w.bias : Int))
  | .wide => mkRat ((2 ^ (w.mbits + 1) - 1 : Nat) : Int) (2 ^ w.mbits) * pow2 ((2 ^ w.ebits - 2 : Nat) - (w.bias : Int))
  | .int => ((2 ^ (w.width - 1) - 1 : Nat) : Rat)
  | .scale => pow2 127

/-- The smallest non-zero magnitude (for a wide float its smallest normal, R22). -/
def Fmt.minNonzero (f : Fmt) : Rat :=
  let w := f.row
  match w.kind with
  | .narrow => mkRat ((2 ^ w.mbits + 1 : Nat) : Int) (2 ^ w.mbits) * pow2 (-(w.bias : Int))
  | .wide => pow2 (1 - (w.bias : Int))
  | .int => 1
  | .scale => pow2 (-127)

/-- The code of the largest finite magnitude (sign clear). -/
def Fmt.maxCode (f : Fmt) : Nat :=
  let w := f.row
  match w.kind with
  | .wide => ((2 ^ w.ebits - 1) <<< w.mbits) - 1
  | _ => 2 ^ (w.width - 1) - 1

/-- The code of infinity (sign clear); wide formats only. -/
def Fmt.infCode (f : Fmt) : Nat := (2 ^ f.row.ebits - 1) <<< f.row.mbits

/-- The sign bit of a float code. -/
def Fmt.signOf (f : Fmt) (neg : Bool) : Nat := if neg then 2 ^ (f.row.width - 1) else 0

/-- The value of an element code and the flags that reading it sets (R22–R26, R35, R38). -/
def decodeElem (f : Fmt) (code : Nat) : Val × Flags :=
  let w := f.row
  let neg := bitOf code (w.width - 1)
  let m := code % 2 ^ w.mbits
  let e := (code >>> w.mbits) % 2 ^ w.ebits
  let mag := mkRat ((2 ^ w.mbits + m : Nat) : Int) (2 ^ w.mbits) * pow2 ((e : Int) - (w.bias : Int))
  match w.kind with
  | .narrow =>
    if e = 0 ∧ m = 0 then (if neg then (.nan, { nanIn := true }) else (.zero false, {}))
    else (.num (if neg then -mag else mag), {})
  | .wide =>
    if e = 0 then (.zero neg, { flush := m != 0 })
    else if e = 2 ^ w.ebits - 1 then (if m = 0 then (.inf neg, {}) else (.nan, { nanIn := true }))
    else (.num (if neg then -mag else mag), {})
  | .int => (Val.ofRat (signedOf w.width code : Int), {})
  | .scale => if code % 256 = 255 then (.nan, { nanIn := true, x8Nan := true })
              else (.num (pow2 ((code % 256 : Nat) - (127 : Int))), {})

/-- The value of a block element under its X8 scale code (R27, R29). -/
def decodeScaled (f : Fmt) (code x : Nat) : Val × Flags :=
  if x % 256 = 255 then (.nan, { nanIn := true, x8Nan := true })
  else
    match decodeElem f code with
    | (.num q, fl) => (.num (q * pow2 ((x % 256 : Nat) - (127 : Int))), fl)
    | r => r

/-- The code of a finite magnitude representable in the float format. -/
def Fmt.codeOfMag (f : Fmt) (neg : Bool) (q : Rat) : Nat :=
  let w := f.row
  let e := floorLog2 q
  let m := (q * pow2 ((w.mbits : Int) - e)).floor.toNat
  f.signOf neg + (((e + (w.bias : Int)).toNat) <<< w.mbits) + (m - 2 ^ w.mbits)

/-- A value written to a format: its code and the flags the write sets (R31, R33–R40, R42). `satWide` is
CORE_ARITH_CTRL.sat_wide, `mode` a rounding mode of R33, `r` the random value of R34. -/
def encodeElem (f : Fmt) (mode : Nat) (satWide : Bool) (r : Nat) : Val → Nat × Flags
  | .nan =>
    match f.row.kind with
    | .int | .scale => (0, { invalid := true })
    | _ => (f.nanCode, {})
  | .inf neg =>
    match f.row.kind with
    | .wide => (f.signOf neg + f.infCode, {})
    | .narrow => (f.signOf neg + f.maxCode, { overflow := true })
    | _ => (if neg then 2 ^ (f.width - 1) else 2 ^ (f.width - 1) - 1, { invalid := true })
  | .zero neg =>
    match f.row.kind with
    | .wide => (f.signOf neg, {})
    | _ => (0, {})
  | .num q =>
    let neg := decide (q < 0)
    let a := ratAbs q
    match f.row.kind with
    | .int | .scale =>
      let n := roundMag mode r a
      let lim := if neg then 2 ^ (f.width - 1) else 2 ^ (f.width - 1) - 1
      if lim < n then (if neg then 2 ^ (f.width - 1) else lim, { overflow := true, intSat := true })
      else (if neg then (2 ^ f.width - n) % 2 ^ f.width else n, {})
    | k =>
      let u := pow2 (floorLog2 a - (f.row.mbits : Int))
      let v := (roundMag mode r (a / u) : Rat) * u
      if v < f.minNonzero then (if k = .wide then f.signOf neg else 0, { flush := true })
      else if f.maxFinite < v then
        (if k = .wide ∧ satWide = false ∧ mode ≠ 1 then f.signOf neg + f.infCode else f.signOf neg + f.maxCode,
          { overflow := true })
      else (f.codeOfMag neg v, {})

/-- A value narrowed into a format, nearest-even, under R35–R39 with sat_wide (R47: a load narrower than its source). -/
def narrowTo (sat : Bool) (f : Fmt) (v : Val) : Val × Flags :=
  let (c, fl) := encodeElem f 0 sat 0 v
  let (v', _) := decodeElem f c
  (v', fl)

/-- A result rounded into a lane or accumulator format, nearest-even with the flush of R36 and overflow to infinity
(R45, R47; sat_wide bears on writes and conversions, R51: log entry 105). -/
def roundTo (f : Fmt) (v : Val) : Val × Flags := narrowTo false f v

/-- The hash of R34: the 16-bit random value of a seed and an element index. -/
def stochBits (seed index : Nat) : Nat :=
  let m := 2 ^ 64
  let x := ((seed % 2 ^ 32) <<< 32) ^^^ (index % m)
  let x := ((x ^^^ (x >>> 30)) * 0xBF58476D1CE4E5B9) % m
  let x := ((x ^^^ (x >>> 27)) * 0x94D049BB133111EB) % m
  let x := x ^^^ (x >>> 31)
  (x >>> 48) % 65536

/-- A finite result that overflowed, of a sign, before R37 decides what is written (R45): a magnitude beyond every format's range
under every scale, which no other written value has. -/
def Val.beyond (neg : Bool) : Val := .num (if neg then -(pow2 512) else pow2 512)

/-- The magnitude a value brings to amax (R30, R31): none for NaN, an infinity, and a result that overflowed, whose own magnitude
is not known (log entry 101). -/
def Val.toAmax (v : Val) : Rat := if pow2 511 ≤ ratAbs v.rat then 0 else ratAbs v.rat

/-- The scale chosen for a block without a fixed scale (R30). -/
def chooseScale (f : Fmt) (vs : List Val) : Nat :=
  let amax := vs.foldl (fun a v => if a < v.toAmax then v.toAmax else a) 0
  if amax = 0 then 127
  else
    let x := ceilLog2 (amax / f.maxFinite) + 127
    if x < 0 then 0 else if 254 < x then 254 else x.toNat

/-- A value divided by an X8 scale. -/
def Val.unscale (x : Nat) : Val → Val
  | .num q => .num (q * pow2 ((127 : Int) - (x : Int)))
  | v => v

/-- How a write rounds: mode, sat_wide, seed (R33, R34, R51). -/
structure WriteMode where
  rnd     : Nat
  satWide : Bool
  seed    : Nat
  deriving DecidableEq, Repr

/-- One element written at linear index `idx` (R34). -/
def writeElem (f : Fmt) (w : WriteMode) (idx : Nat) (v : Val) : Nat × Flags :=
  encodeElem f w.rnd w.satWide (if w.rnd = 2 then stochBits w.seed idx else 0) v

/-- Element codes packed from bit 0 upward into bytes (R28). -/
def packCodes (width : Nat) (codes : List Nat) : List Byte :=
  leBytes ((width * codes.length + 7) / 8) (codes.foldr (fun c acc => c % 2 ^ width + acc <<< width) 0)

/-- `n` element codes unpacked from bytes (R28). -/
def unpackCodes (width n : Nat) (bs : List Byte) : List Nat :=
  let v := leNat bs
  (List.range n).map fun i => (v >>> (width * i)) % 2 ^ width

/-- The list cut into groups of 32 (blocks of R28); `fuel` bounds the number of groups. -/
def blocksOf {α : Type} : Nat → List α → List (List α)
  | 0, _ => []
  | fuel + 1, xs => if xs.isEmpty then [] else xs.take 32 :: blocksOf fuel (xs.drop 32)

/-- Bytes of a row of `n` elements: packed elements, then one scale per block of 32 when the format is block-scaled (R28). -/
def rowBytes (f : Fmt) (n : Nat) : Nat :=
  ceilDiv (n * f.width) 8 + (if f.scaled then n / 32 else 0)

/-- A row decoded (R28, R29): `n` values and the flags. -/
def decodeRow (f : Fmt) (n : Nat) (bs : List Byte) : List Val × Flags :=
  let ebytes := ceilDiv (n * f.width) 8
  let scales := bs.drop ebytes
  let rs := (List.range (ceilDiv n 32)).flatMap fun b =>
    let k := min 32 (n - 32 * b)
    let codes := unpackCodes f.width k ((bs.drop (4 * f.width * b)).take (ceilDiv (k * f.width) 8))
    if f.scaled then codes.map fun c => decodeScaled f c ((scales.getD b 127#8).toNat)
    else codes.map (decodeElem f)
  (rs.map (·.1), rs.foldl (fun a r => a.or r.2) {})

/-- How a value's write ended, for the histogram of R48: saturated or made infinite, flushed. -/
structure WriteFate where
  saturated : Bool
  flushed   : Bool
  deriving DecidableEq, Repr

/-- A row encoded (R28, R30, R31): bytes, flags and each element's fate. `fixed` is a fixed X8 scale. -/
def encodeRow (f : Fmt) (w : WriteMode) (idx0 : Nat) (fixed : Option Nat) (vs : List Val) :
    List Byte × Flags × List WriteFate :=
  let bl := blocksOf vs.length vs
  let scales := bl.map fun b => if f.scaled then fixed.getD (chooseScale f b) else 127
  let codes := (List.range bl.length).flatMap fun b =>
    let vals := bl.getD b []
    let x := scales.getD b 127
    (List.range vals.length).map fun i => writeElem f w (idx0 + 32 * b + i) ((vals.getD i (.zero false)).unscale x)
  let bytes := (blocksOf codes.length codes).flatMap fun g => packCodes f.width (g.map (·.1))
  (bytes ++ (if f.scaled then scales.map (BitVec.ofNat 8) else []),
   codes.foldl (fun a c => a.or c.2) {},
   codes.map fun c => ⟨c.2.overflow, c.2.flush⟩)

/-- The bin of an element's F32 value under base `b` (R48). -/
def histBin (b : Int) : Val → Nat
  | .nan | .inf _ => 31
  | .zero _ => 0
  | .num q =>
    let e := floorLog2 (ratAbs q)
    if e < b then 1 else if b + 27 < e then 30 else (e - b + 2).toNat

/-! Lane operations: exact, then rounded to the lane format (R38, R39, R47). -/

/-- The negation of a value. -/
def Val.neg : Val → Val
  | .nan => .nan
  | .inf s => .inf (!s)
  | .zero s => .zero (!s)
  | .num q => .num (-q)

/-- Whether a value is negative or has its sign set. -/
def Val.sign : Val → Bool
  | .nan => false
  | .inf s => s
  | .zero s => s
  | .num q => decide (q < 0)

/-- Exact sum before rounding; like-signed zeros keep their sign, unlike-signed give +0. -/
def Val.addExact : Val → Val → Val × Flags
  | .nan, _ => (.nan, { nanIn := true })
  | _, .nan => (.nan, { nanIn := true })
  | .inf a, .inf b => if a = b then (.inf a, {}) else (.nan, { invalid := true })
  | .inf a, _ => (.inf a, {})
  | _, .inf b => (.inf b, {})
  | .zero a, .zero b => (.zero (a && b), {})
  | .zero _, .num q => (.num q, {})
  | .num q, .zero _ => (.num q, {})
  | .num p, .num q => (Val.ofRat (p + q), {})

/-- Exact product before rounding. -/
def Val.mulExact (x y : Val) : Val × Flags :=
  let s := x.sign != y.sign
  match x, y with
  | .nan, _ => (.nan, { nanIn := true })
  | _, .nan => (.nan, { nanIn := true })
  | .inf _, .zero _ => (.nan, { invalid := true })
  | .zero _, .inf _ => (.nan, { invalid := true })
  | .inf _, _ => (.inf s, {})
  | _, .inf _ => (.inf s, {})
  | .zero _, _ => (.zero s, {})
  | _, .zero _ => (.zero s, {})
  | .num p, .num q => (Val.ofRat (p * q), {})

/-- A result of exact arithmetic rounded to the lane format. -/
def lane (f : Fmt) (r : Val × Flags) : Val × Flags :=
  let (v, fl) := roundTo f r.1
  (v, r.2.or fl)

/-- x + y in a lane format. -/
def laneAdd (f : Fmt) (x y : Val) : Val × Flags := lane f (x.addExact y)

/-- x × y in a lane format. -/
def laneMul (f : Fmt) (x y : Val) : Val × Flags := lane f (x.mulExact y)

/-- x × y + z with one rounding. -/
def laneFma (f : Fmt) (x y z : Val) : Val × Flags :=
  let (p, f1) := x.mulExact y
  let (s, f2) := p.addExact z
  lane f (s, { f1.or f2 with nanIn := f1.nanIn || z == .nan })

/-- The order of two non-NaN values: x < y. -/
def Val.lt : Val → Val → Bool
  | .nan, _ | _, .nan => false
  | .inf a, .inf b => a && !b
  | .inf a, _ => a
  | _, .inf b => !b
  | x, y => decide (x.rat < y.rat)

/-- Integer square root by Newton's iteration, `fuel` steps from above. -/
def isqrtAux : Nat → Nat → Nat → Nat
  | 0, _, x => x
  | fuel + 1, n, x =>
    let y := (x + n / x) / 2
    if x ≤ y then x else isqrtAux fuel n y

/-- floor(sqrt n). -/
def isqrt (n : Nat) : Nat := if n = 0 then 0 else isqrtAux (Nat.log2 n + 8) n (2 ^ (Nat.log2 n / 2 + 1))

/-- The square root of a positive rational scaled to 2^k units: floor(sqrt(q) × 2^k), with the inexact remainder marked
by an added half unit of 2^-1, so that one rounding to fewer bits is exact. -/
def sqrtApprox (q : Rat) : Rat :=
  let e := floorLog2 q
  let k : Int := 40 - e / 2
  let t := (q * pow2 (2 * k)).floor.toNat
  let s := isqrt t
  let exact := decide (((s * s : Nat) : Rat) = q * pow2 (2 * k))
  ((s : Rat) + (if exact then 0 else mkRat 1 2)) * pow2 (-k)

/-- sqrt rounded once (R39, R124). DESIGN CHOICE (log entry 102): of −0, which is not below zero, it is −0 with no flag. -/
def laneSqrt (f : Fmt) : Val → Val × Flags
  | .nan => (.nan, { nanIn := true })
  | .inf false => (.inf false, {})
  | .inf true => (.nan, { invalid := true })
  | .zero s => (.zero s, {})
  | .num q => if q < 0 then (.nan, { invalid := true }) else lane f (.num (sqrtApprox q), {})

/-- An accumulator of the array: its value and whether it overflowed from finite operands (R45). -/
structure Acc32 where
  val : Val
  ovf : Bool
  deriving DecidableEq, Repr

/-- The code of a value already representable in a format. -/
def codeOf (f : Fmt) (v : Val) : Nat := (encodeElem f 0 false 0 v).1

/-- The value one unit in the last place above or below an exact result, as the free choice takes it: 0 the nearest value,
1 and 2 its neighbours (R124). -/
def ulpStep (f : Fmt) (choice : Nat) (v : Val) (exact : Rat) : Val :=
  match v with
  | .num q =>
    let u := pow2 (floorLog2 (ratAbs q) - (f.row.mbits : Int))
    let cand := if choice % 3 = 1 then q + u else if choice % 3 = 2 then q - u else q
    if ratAbs (cand - exact) ≤ u ∧ f.minNonzero ≤ ratAbs cand ∧ ratAbs cand ≤ f.maxFinite then .num cand else .num q
  | w => w

end Sys2Proof.Machine
end

