-- ==== Sys2Proof/Machine/Codec.lean ====
section
/-! DEFINITION. The compression frames of the pile base dies (R286–R288, R600). -/

namespace Sys2Proof.Machine

/-- Groups of at most 64 bytes; `fuel` bounds their number (R288 step 3). -/
def groups64 : Nat → List Byte → List (List Byte)
  | 0, _ => []
  | fuel + 1, bs => if bs.isEmpty then [] else bs.take 64 :: groups64 fuel (bs.drop 64)

/-- Plane `b` of the bytes read as elements of `w` bytes (R288 step 2). -/
def planeOf (w b : Nat) (bs : List Byte) : List Byte :=
  (List.range (bs.length / w)).map fun i => bs.getD (i * w + b) 0#8

/-- Whether every byte lies within 2^k of base `b`, modulo 256. -/
def fitsBase (k b : Nat) (g : List Byte) : Bool :=
  g.all fun x => decide ((x.toNat + 256 - b) % 256 < 2 ^ k)

/-- The smallest base that fits k-bit values (R288). -/
def baseFor (k : Nat) (g : List Byte) : Option Nat := (List.range 256).find? fun b => fitsBase k b g

/-- Every code that represents a group, lowest code first, with its bytes (R288 step 4). -/
def groupCodes (g : List Byte) : List (List Byte) :=
  let zero := if g.all (· == 0#8) then [[0x00#8]] else []
  let same := match g with
    | [] => []
    | c :: _ => if g.all (· == c) then [[0x01#8, c]] else []
  let based := (List.range 7).flatMap fun i =>
    match baseFor (i + 1) g with
    | none => []
    | some b => [BitVec.ofNat 8 (0x11 + i) :: BitVec.ofNat 8 b ::
        packCodes (i + 1) (g.map fun x => (x.toNat + 256 - b) % 256)]
  zero ++ same ++ based ++ [0x20#8 :: g]

/-- The shortest code of a group; ties go to the lower code, because the codes are offered in rising order (R288). -/
def encodeGroup (g : List Byte) : List Byte :=
  match groupCodes g with
  | [] => []
  | c :: cs => cs.foldl (fun best x => if x.length < best.length then x else best) c

/-- The plane payload of raw bytes at width `w`, padded to a multiple of 8 (R288). -/
def planePayload (w : Nat) (bs : List Byte) : List Byte :=
  let p := (List.range w).flatMap fun b =>
    let pl := planeOf w b bs
    (groups64 pl.length pl).flatMap encodeGroup
  padTo (8 * ceilDiv p.length 8) 0#8 p

/-- The width code's element bytes (R282, R287): 1, 2, 4. -/
def widthBytes : Nat → Nat
  | 1 => 2
  | 2 => 4
  | _ => 1

/-- A frame's header word (R287). -/
def frameHeader (method width : Nat) (lossy : Bool) (raw pay seg : Nat) : Nat :=
  method <<< 62 + width <<< 60 + (b2n lossy) <<< 59 + (raw - 1) <<< 36 + pay <<< 24 + seg % 2 ^ 24

/-- The frame of raw bytes (R287, R288), not yet padded to sectors. -/
def encodeFrame (width : Nat) (lossy : Bool) (seg : Nat) (raw : List Byte) : List Byte :=
  if raw.all (· == 0#8) then leBytes 8 (frameHeader 1 width lossy raw.length 0 seg)
  else
    let p := planePayload (widthBytes width) raw
    if raw.length < p.length then leBytes 8 (frameHeader 0 width lossy raw.length raw.length seg) ++ raw
    else leBytes 8 (frameHeader 2 width lossy raw.length p.length seg) ++ p

/-- One group decoded: its bytes and the rest of the payload. -/
def decodeGroup (n : Nat) : List Byte → Option (List Byte × List Byte)
  | [] => none
  | c :: rest =>
    let k := c.toNat
    if k = 0 then some (List.replicate n 0#8, rest)
    else if k = 1 then
      match rest with
      | [] => none
      | x :: r => some (List.replicate n x, r)
    else if k = 0x20 then (if n ≤ rest.length then some (rest.take n, rest.drop n) else none)
    else if 0x11 ≤ k ∧ k ≤ 0x17 then
      match rest with
      | [] => none
      | b :: r =>
        let m := ceilDiv (n * (k - 0x10)) 8
        if m ≤ r.length then
          some ((unpackCodes (k - 0x10) n (r.take m)).map fun d => BitVec.ofNat 8 (b.toNat + d), r.drop m)
        else none
    else none

/-- One plane of `n` bytes decoded; `fuel` bounds the groups. -/
def decodePlane : Nat → Nat → List Byte → Option (List Byte × List Byte)
  | 0, n, bs => if n = 0 then some ([], bs) else none
  | fuel + 1, n, bs =>
    if n = 0 then some ([], bs)
    else
      match decodeGroup (min n 64) bs with
      | none => none
      | some (g, r) =>
        match decodePlane fuel (n - min n 64) r with
        | none => none
        | some (gs, r') => some (g ++ gs, r')

/-- `k` planes of `n` bytes decoded; what is left is less than 8 zero bytes of padding (R288 step 5, R600). -/
def decodePlanes : Nat → Nat → List Byte → Option (List (List Byte))
  | 0, _, bs => if bs.length < 8 ∧ bs.all (· == 0#8) then some [] else none
  | k + 1, n, bs =>
    match decodePlane (n + 1) n bs with
    | none => none
    | some (p, r) => (decodePlanes k n r).map (p :: ·)

/-- A frame decoded under the checks of R600: the raw bytes and the lossy flag, or nothing (poisoned). `room` is the
sector bytes that hold the frame, `seg` the segment's own index. -/
def decodeFrame (room seg : Nat) (bs : List Byte) : Option (List Byte × Bool) :=
  let h := leNat (bs.take 8)
  let method := bitsOf h 63 62
  let width := bitsOf h 61 60
  let lossy := bitOf h 59
  let raw := bitsOf h 47 36 + 1
  let pay := bitsOf h 35 24
  let body := (bs.drop 8).take pay
  if method = 3 ∨ width = 3 ∨ bitsOf h 58 48 ≠ 0 ∨ raw % 8 ≠ 0 ∨ pay % 8 ≠ 0 ∨ 2048 < pay ∨ 2048 < raw
      ∨ room < 8 + pay ∨ bitsOf h 23 0 ≠ seg % 2 ^ 24 ∨ body.length < pay then none
  else
    match method with
    | 0 => if pay = raw then some (body, lossy) else none
    | 1 => if pay = 0 then some (List.replicate raw 0#8, lossy) else none
    | _ =>
      let w := widthBytes width
      (decodePlanes w (raw / w) body).map fun ps =>
        ((List.range raw).map fun i => (ps.getD (i % w) []).getD (i / w) 0#8, lossy)

end Sys2Proof.Machine
end

