-- ==== Sys2Proof/Machine/Data.lean ====
section
/-! DEFINITION. The two containers of the state: tables keyed by a number or name, and byte memories in one canonical
form (addresses strictly rising, no entry equal to the 0 that an unlisted address reads as). -/

namespace Sys2Proof.Machine

/-- A table: pairs of key and value. A key that is not listed has its default. -/
abbrev Tab (κ α : Type) := List (κ × α)

/-- The value listed for a key. -/
def tabFind {κ α : Type} [DecidableEq κ] : Tab κ α → κ → Option α
  | [], _ => none
  | (k', v) :: t, k => if k' = k then some v else tabFind t k

/-- The value of a key, or the default. -/
def tabGet {κ α : Type} [DecidableEq κ] (t : Tab κ α) (k : κ) (d : α) : α := (tabFind t k).getD d

/-- The table with a key's value set. -/
def tabPut {κ α : Type} [DecidableEq κ] : Tab κ α → κ → α → Tab κ α
  | [], k, v => [(k, v)]
  | (k', v') :: t, k, v => if k' = k then (k, v) :: t else (k', v') :: tabPut t k v

/-- The table without a key. -/
def tabDel {κ α : Type} [DecidableEq κ] (t : Tab κ α) (k : κ) : Tab κ α := t.filter fun p => p.1 ≠ k

/-- A byte memory: addresses strictly rising, no byte 0 listed; an unlisted address reads 0 (R110, R111, R299, R301). -/
abbrev Mem := List Host.Cell

/-- The byte at an address. -/
def memGet : Mem → Nat → Byte
  | [], _ => 0#8
  | (a', b) :: m, a => if a' = a then b else if a < a' then 0#8 else memGet m a

/-- One byte written; writing 0 removes the entry. -/
def memPut : Mem → Nat → Byte → Mem
  | [], a, b => if b = 0#8 then [] else [(a, b)]
  | (a', b') :: m, a, b =>
    if a' < a then (a', b') :: memPut m a b
    else if a' = a then (if b = 0#8 then m else (a, b) :: m)
    else if b = 0#8 then (a', b') :: m else (a, b) :: (a', b') :: m

/-- `n` bytes from an address. -/
def memGetN (m : Mem) (a n : Nat) : List Byte := (List.range n).map fun i => memGet m (a + i)

/-- Bytes written from an address upward. -/
def memPutN : Mem → Nat → List Byte → Mem
  | m, _, [] => m
  | m, a, b :: bs => memPutN (memPut m a b) (a + 1) bs

/-- `n` bytes from an address zeroed. -/
def memZero (m : Mem) (a n : Nat) : Mem := m.filter fun c => c.1 < a || a + n ≤ c.1

/-- The canonical form: addresses rise strictly and no listed byte is 0. -/
def Memory.wf : Mem → Bool
  | [] => true
  | [(_, b)] => b != 0#8
  | (a, b) :: (a', b') :: m => b != 0#8 && decide (a < a') && Memory.wf ((a', b') :: m)

/-- A sorted set of numbers (poisoned words, poison-map bits, revoked keys …): insertion. -/
def setIns : List Nat → Nat → List Nat
  | [], a => [a]
  | x :: xs, a => if a < x then a :: x :: xs else if a = x then x :: xs else x :: setIns xs a

/-- Membership made Bool. -/
def setHas (s : List Nat) (a : Nat) : Bool := s.contains a

end Sys2Proof.Machine
end

