-- ==== Sys2Proof/Machine/RecCore.lean ====
section
/-! DEFINITION. The records of a core: thread slots (file 04), the array (file 03), the vector engine, function unit and
lathe (file 05), and the streams (file 06). -/

namespace Sys2Proof.Machine

/-- Thread slot states, in the order of their codes 0x0–0x6 (R90). -/
inductive SlotSt where
  | free | placed | ready | waiting | saving | ending | aborting
  deriving DecidableEq, Repr

/-- What a WAITING slot waits for (R94). -/
inductive WaitOn where
  | buffer
  | counter (ctr thr : Nat)
  | fence
  | recv
  deriving DecidableEq, Repr

/-- A SIGNAL issued and not yet applied: it applies once every command of the slot before it has completed (R88). -/
structure Sig where
  seq   : Nat
  ctr   : Nat
  set   : Bool
  value : Nat
  deriving DecidableEq, Repr

/-- The bank maps of the task header (R103). -/
structure BankMaps where
  array  : Nat
  vector : Nat
  lathe  : Nat
  stream : Nat
  deriving DecidableEq, Repr

/-- A command in an engine's queue: who issued it, its sequence number in the slot, its bits, and what the physics of
the island brings to it; of one that a pre-emption stopped, the steps it had done and the descriptor it had read (R139). -/
structure Queued where
  slot : SlotId
  seq  : Nat
  cmd  : Nat
  env  : IslandEnv
  row  : Nat := 0
  desc : List Byte := []
  deriving DecidableEq, Repr

/-- A thread slot (R86–R92). Positions are bytes after the task header. -/
structure Slot where
  st     : SlotSt
  epoch  : Nat
  part   : PartId
  tid    : Nat
  wait   : Option WaitOn
  base   : Nat
  size   : Nat
  list   : Nat
  bytes  : Nat
  pos    : Nat
  buf    : List Byte
  bad    : List Nat
  redo   : List Nat
  seq    : Nat
  busy   : List Nat
  sigs   : List Sig
  maps   : BankMaps
  seed   : Nat
  crit   : Bool
  resume : List Queued
  deriving DecidableEq, Repr

/-- A FREE slot (R90). -/
def Slot.empty : Slot :=
  ⟨.free, 0, 0, 0, none, 0, 0, 0, 0, 0, [], [], [], 0, [], [], ⟨0, 0, 0, 0⟩, 0, false, []⟩

/-- Why an engine stands still: the landing or drain chunk its next accesses reached (R94, R163, R164), how often that stream had moved
by then (R180), and the accesses that wait, each by port, physical scratchpad offset and bytes. -/
structure Stall where
  stream : StreamId
  chunk  : Nat
  moved  : Nat := 0
  reads  : List (Nat × Nat × Nat) := []
  writes : List (Nat × Nat × Nat) := []
  deriving DecidableEq, Repr

/-- The command an engine is running: rows (steps) done so far, and what it stands still for. -/
structure Run where
  q     : Queued
  row   : Nat
  stall : Option Stall
  deriving DecidableEq, Repr

/-- An operand held in the PEs (R57, R65, R70): owner, class, format, extents and the tile's rows as loaded. -/
structure Operand where
  slot  : SlotId
  epoch : Nat
  cls   : Nat
  fmt   : Nat
  kext  : Nat
  next  : Nat
  rows  : List (List Byte)
  load  : Nat
  deriving DecidableEq, Repr

/-- Shadow states in the order of their codes (R65, R79). -/
inductive ShadowSt where
  | empty | loading | full | draining
  deriving DecidableEq, Repr

/-- The two records the array keeps for a slot: the SLOAD that filled its current active operand, and its last (R70). -/
structure ArrRec where
  act  : Option Nat
  last : Option Nat
  deriving DecidableEq, Repr

/-- An output row in the array (R62): its number in the pass, the array cycle in which it entered, and its accumulators. It is written
256 cycles after it entered. -/
structure OutRow where
  row  : Nat
  born : Nat
  acc  : List Acc32
  deriving DecidableEq, Repr

/-- A pass with rows in the array (R62): the slot that issued it as it stood then (its window and maps hold when the slot has been saved
or freed), its command, the format and N extent of its operand, the rows fed, its destination range (R64), whether it still feeds, and
its rows not yet written. -/
structure PassRun where
  own     : Slot
  slot    : SlotId
  seq     : Nat
  cmd     : Nat
  env     : IslandEnv
  ofmt    : Nat
  next    : Nat
  rows    : Nat
  lo      : Nat
  hi      : Nat
  swap    : Bool
  feeding : Bool
  out     : List OutRow
  discard : Bool
  deriving DecidableEq, Repr

/-- What the array's next access stands still for, and the task whose access it is (R94). -/
structure ArrWait where
  part  : PartId
  tid   : Nat
  slot  : SlotId
  stall : Stall
  deriving DecidableEq, Repr

/-- The matrix array of a core (file 03): its queue, the pass that feeds, the shadow load that runs, the operands and records, the passes
with rows in the array, oldest first. `hold` marks a command held under R64, R66 or R68, `reload` that the queue's first PASS has
reloaded its tile (R70). `cyc` counts the array's cycles as rows enter, and a DRAINING shadow is EMPTY at cycle `emptyAt` (R62, R65). -/
structure Arr where
  q       : List Queued
  run     : Option Run
  load    : Option Run
  active  : Option Operand
  shadow  : Option Operand
  sh      : ShadowSt
  recs    : Tab SlotId ArrRec
  passes  : List PassRun
  hold    : Bool
  reload  : Bool
  wait    : Option ArrWait
  cyc     : Nat
  emptyAt : Nat
  deriving DecidableEq, Repr

/-- The array after reset. -/
def Arr.empty : Arr := ⟨[], none, none, none, none, .empty, [], [], false, false, none, 0, 0⟩

/-- An engine that runs one command at a time: the vector engine with the function unit (one at a time in issue order, R126),
and the lathe (R134). -/
structure Eng where
  q   : List Queued
  run : Option Run
  deriving DecidableEq, Repr

/-- An idle engine. -/
def Eng.empty : Eng := ⟨[], none⟩

/-- A function slot (R127, R130, R131): its accepted image, whether valid, the image address and partition of its last accepted
load, the load that waits or runs, and whether firmware's load of the library waits for the slot's users. The image of an invalid
slot is kept as the mark of its last load; nothing evaluates it. -/
structure FTab where
  valid   : Bool
  image   : List Byte
  src     : Option (Nat × PartId)
  loading : Option (Nat × PartId)
  lib     : Bool
  deriving DecidableEq, Repr

/-- An invalid function slot. -/
def FTab.empty : FTab := ⟨false, [], none, none, false⟩

/-- Landing and drain chunk states (R160, R164); `raised` is FAULTED with the fault already raised by an island read (R174). -/
inductive ChunkSt where
  | fetching | full | faulted | raised | released | draining
  deriving DecidableEq, Repr

/-- Bytes of a chunk that lie together in memory: `n` elements of `elt` bytes at consecutive addresses from `va`; element i stands at
chunk offset `dst + i * step`. -/
structure Span where
  va   : Nat
  elt  : Nat
  n    : Nat
  dst  : Nat
  step : Nat
  deriving DecidableEq, Repr

/-- A read or write of a chunk that has issued and not yet landed or been accepted: one request with the spans of the chunk that its unit
holds (R166). `tier` is 1 (pile), 2 (tier 2: `tgt` the function, or with a tag the channel) or 3 (barrel). -/
structure Piece where
  id    : Nat
  spans : List Span
  tier  : Nat
  tgt   : Nat
  tag   : Option Nat
  deriving DecidableEq, Repr

/-- A chunk in the ring (R160, R164): pieces outstanding, fault code and address, stale mark, watched segments, and the task
that released it (drains). -/
structure Chunk where
  j       : Nat
  st      : ChunkSt
  left    : List Piece
  code    : Nat
  addr    : Nat
  stale   : Bool
  watched : List Nat
  poison  : List Nat
  rel     : Option (PartId × Nat)
  deriving DecidableEq, Repr

/-- What a stream is doing besides fetching and draining (R169, R171, R172); the commands that wait for it, by task and sequence
number. -/
inductive StreamMode where
  | run
  | rearm (base : Nat) (ctr : Option Nat) (tid seq : Nat)
  | finish (who : Option (Nat × Nat))
  | cancel (who : List (Nat × Nat))
  deriving DecidableEq, Repr

/-- The descriptor of an armed stream (R153, R154); the ring as a physical scratchpad offset. -/
structure StreamDesc where
  base    : Nat
  run     : Nat
  n1      : Nat
  n2      : Nat
  n3      : Nat
  s1      : Int
  s2      : Int
  s3      : Int
  ring    : Nat
  csize   : Nat
  ccount  : Nat
  ctl     : Nat
  deriving DecidableEq, Repr

/-- An armed stream (R151–R173). `rel` chunks have been released, `next` is the first chunk not issued, `acc` chunks of a
drain have been accepted, `v` is the counter value noted under R162. `moved` counts landings, acceptances and releases for
the watchdog (R180). `map` is the arming task's bank map of the stream port (R104). `arena` is a run of arena slots that returns with the
stream's last read in flight (R172). -/
structure Stream where
  desc   : StreamDesc
  part   : PartId
  tid    : Nat
  slot   : SlotId
  epoch  : Nat
  ctr    : Option Nat
  v      : Nat
  rel    : Nat
  next   : Nat
  acc    : Nat
  flt    : Nat
  cursor : Nat
  relBy  : PartId × Nat
  chunks : List Chunk
  done   : Bool
  mode   : StreamMode
  paused : Bool
  moved  : Nat
  map    : Nat
  arena  : Option (CoreId × Nat × Nat)
  deriving DecidableEq, Repr

end Sys2Proof.Machine
end

