-- ==== Sys2Proof/Machine/RecLink.lean ====
section
/-! DEFINITION. The records of the optical links (file 12, R327–R347) and of the channel ends (R348–R358). -/

namespace Sys2Proof.Machine

/-- Link states in the order of their codes (R330). -/
inductive LinkSt where
  | down | training | up | narrow | failed
  deriving DecidableEq, Repr

/-- A data frame (R333, R334): class 0 is C, 1–4 are D0–D3; `bytes` are its payload words. -/
structure Frame where
  seq    : Nat
  cls    : Nat
  tail   : Bool
  dst    : Nat
  ctl    : Bool
  handle : Nat
  bytes  : List Byte
  rma    : Bool
  deriving DecidableEq, Repr

/-- Who takes turns within a class on an output link (R344): a channel end, or the transit traffic of an input link. -/
inductive Talker where
  | chan (i : ChanIdx)
  | transit (l : LinkId)
  deriving DecidableEq, Repr

/-- A participant's messages that wait on an output link, as frames not yet numbered; the head may have sent its first frames. -/
structure TxQ where
  who    : Talker
  weight : Nat
  msgs   : List (List Frame)
  begun  : Bool
  deriving DecidableEq, Repr

/-- A link (R328–R347). Per-class lists hold C, D0–D3 in that order: `q` what waits, `served` messages of the present turn,
`sent` and `freedIn` the frames sent and reported freed, `freed` those freed here. `stuck` counts replays of the oldest frame. -/
structure Link where
  st      : LinkSt
  lanes   : Nat
  peer    : Nat
  peerEng : Nat
  peerPort : Nat
  rtt     : Nat
  txMask  : Nat
  rxMask  : Nat
  seq     : Nat
  kept    : List Frame
  stuck   : Nat
  rxSeq   : Nat
  nak     : Bool
  got     : Nat
  owe     : Bool
  q       : List (List TxQ)
  served  : List Nat
  turn    : Nat
  quantum : Nat
  sent    : List Nat
  freedIn : List Nat
  freed   : List Nat
  lreq    : Option Nat
  lcnf    : Option (Nat × Nat)
  downs   : List (LaneId × Nat)
  crd     : Nat
  cls     : Nat
  deriving DecidableEq, Repr

/-- A link that has not trained. -/
def Link.empty : Link :=
  ⟨.down, 0, 0, 0, 0, 0, 0, 0, 0, [], 0, 0, false, 0, false, [[], [], [], [], []], [0, 0, 0, 0, 0], 0, 0,
    [0, 0, 0, 0, 0], [0, 0, 0, 0, 0], [0, 0, 0, 0, 0], none, none, [], 0, 0⟩

/-- The states of a channel end (R351). -/
inductive ChanSt where
  | free | listen | connecting | opened | closing | failed
  deriving DecidableEq, Repr

/-- Who owns a sending (R355, R368, R261): a task's SEND with its event counter and the place of its status word, an exchange
round, or a partition's escapement or barrel (with a key of its own). -/
inductive Owner where
  | task (c : CoreId) (p : PartId) (tid seq : Nat) (ctr : Option Nat) (status : Nat)
  | round (id : Nat)
  | engine (p : PartId) (key : Nat)
  deriving DecidableEq, Repr

/-- Where the bytes of a message come from when its turn comes (R355). -/
inductive Src where
  | bytes (bs : List Byte)
  | spad (c : CoreId) (a n : Nat)
  | va (va n : Nat)
  | contrib (c : CoreId) (va : Bool) (a n : Nat) (head : List Byte) (fmt rnd seed : Nat)
  deriving DecidableEq, Repr

/-- A message to be sent. -/
structure OutMsg where
  src  : Src
  tail : Bool
  deriving DecidableEq, Repr

/-- A sending that waits for credit: its messages in order, the bytes it has sent so far, and the bits of the SEND that made it. -/
structure SendJob where
  owner : Owner
  msgs  : List OutMsg
  begun : Bool
  bytes : Nat
  cmd   : Nat
  deriving DecidableEq, Repr

/-- A sending whose messages have all left: it is done when the peer has landed message `last` (R352). -/
structure SentJob where
  owner : Owner
  last  : Nat
  bytes : Nat
  deriving DecidableEq, Repr

/-- A RECV (R356): where it lands (a scratchpad or a virtual address), how much, and what it has taken. -/
structure RecvJob where
  c      : CoreId
  p      : PartId
  tid    : Nat
  seq    : Nat
  ctr    : Option Nat
  status : Nat
  va     : Bool
  dst    : Nat
  len    : Nat
  got    : Nat
  deriving DecidableEq, Repr

/-- What a remote write that no stream issued is for: the refresh of a slice in a step (R252), or frames that leave for the spill area at an
offset (R204). -/
inductive RmaNote where
  | refresh (step slice : Nat)
  | spill (off : Nat)
  deriving DecidableEq, Repr

/-- An outstanding remote request (R357): its tag, whether it is a write, its number among the channel's writes, and the stream
piece that it serves or what else it is for. -/
structure RmaReq where
  tag    : Nat
  write  : Bool
  num    : Nat
  stream : Option (CoreId × StreamId × Nat × Nat)
  note   : Option RmaNote
  deriving DecidableEq, Repr

/-- A channel end (R348–R352). `back` holds the messages, as frames, that have not left a link that failed and wait for those that had (R347). -/
structure Chan where
  st      : ChanSt
  part    : PartId
  gen     : Nat
  peer    : Nat
  peerH   : Nat
  kind    : Nat
  cls     : Nat
  weight  : Nat
  slotK   : Nat
  slots   : Nat
  ring    : Nat
  rma     : Bool
  tmo     : Nat
  listens : Bool
  hellos  : Nat
  sent    : Nat
  pSlots  : Nat
  pLanded : Nat
  pFreed  : Nat
  pRma    : Nat
  landed  : Nat
  freed   : Nat
  rmaDone : Nat
  said    : Nat × Nat
  changed : Bool
  byeIn   : Bool
  jobs    : List SendJob
  sents   : List SentJob
  recvs   : List RecvJob
  reqs    : List RmaReq
  rmaSent : Nat
  tagNext : Nat
  wait    : List (List Byte)
  link    : Option LinkId
  hold    : Bool
  back    : List (List Frame)
  deriving DecidableEq, Repr

end Sys2Proof.Machine
end

