-- ==== Sys2Proof/Machine/RegNames.lean ====
section
/-! DEFINITION. The names of the set-up registers and of the 64-bit counters, and the register map of file 22: for each its
block, its offset within the block, its access masks and its reset value (R580–R591 and the field tables of the chapters). -/

namespace Sys2Proof.Machine

/-- The register blocks of BAR0 (R579–R591); `die` and `core` lie in die pages, `sched`–`mmu` in partition pages. -/
inductive Blk where
  | top | pwr | sec | fw | strike | dbg | hifReset | tylMod | eng | link | pile | die | core
  | sched | orphan | barl | upd | mmu | fn
  deriving DecidableEq, Repr

/-- The set-up registers, under their names in the spec (an indexed family or a LO/HI pair of RO halves is one name). -/
inductive RegName where
  | TOP_ID | TOP_CORES | TOP_ERR_CTRL | TOP_RETIRE_CTRL | TOP_ERR_STATUS | TOP_ERR_FIRST
  | TOP_RESET_CAUSE | TOP_AUDIT_CTRL | TOP_AUDIT_STATUS | PWR_STATUS | PWR_INPUT | PWR_INPUT_W
  | PWR_BUDGET | PWR_MOD_RATIO | PWR_GUARD | PWR_THERM | PWR_SLEEP | PWR_CTRL
  | PWR_DOM_STATE | PWR_DOM_HOLD | PWR_PART_EST | PWR_DIE_STATUS | PWR_PILE_STATUS | SEC_SERIAL
  | SEC_SVN | SEC_SVN_COMMIT | SEC_KEY_CTRL | SEC_CTRL | SEC_DEBUG_CTRL | SEC_DEBUG_STATUS
  | SEC_DEBUG_LEFT | SEC_DEBUG_NONCE | SEC_DEBUG_TOKEN | FW_STATUS | FW_VERSION | FW_PROC_STATUS
  | FW_PROC_CTRL | FW_LOAD_ADDR_LO | FW_LOAD_ADDR_HI | FW_LOAD_SIZE | FW_LOAD_CTRL | FW_LOG_CTRL
  | FW_LOG_HEAD | FW_FEAT_FW | FW_TRACE_MASK | STRIKE_CTRL | STRIKE_FIRE | STRIKE_STATUS
  | STRIKE_SEQ | STRIKE_LATCH_SEQ | STRIKE_TRACE | STRIKE_SNAP_SEL | STRIKE_THR_SEL | STRIKE_THR_LO
  | STRIKE_THR_HI | DBG_SEL | DBG_CRD | DBG_LAT | DBG_PAR | DBG_STATUS
  | DBG_CTRL | HIF_RESET_CTRL | TYL_ID | TYL_ROUTE_LO | TYL_ROUTE_HI | TYL_ENG_CTRL
  | TYL_LANE_CTRL | TYL_LINK_STATUS | TYL_LINK_MASK | TYL_LINK_RTT | TYL_LINK_CLS | TYL_LINK_CRD
  | PILE_CTRL | PILE_STATUS | XCH_CTRL | XCH_STATUS | XCH_FAULT | SCHED_DIE_STATUS
  | CORE_ID | CORE_OWNER | CORE_SLOT_STATE | CORE_CNT_CTRL | CORE_ARITH_CTRL | CORE_ARITH_STATUS
  | CORE_GOV_CTRL | CORE_GOV_STEP | SPAD_WINDOW | SPAD_CTRL | ARR_CTRL | ARR_STATUS
  | ARR_FAULT | VEC_CTRL | VEC_FAULT | LATHE_CTRL | LATHE_FAULT | VEC_FTAB_STATUS
  | VEC_FTAB_SRC_LO | VEC_FTAB_SRC_HI | VEC_FTAB_LOAD | STRM_CTRL | STRM_ARMED | STRM_STALE
  | STRM_FAULT | STRM_FAULT_ADDR_LO | STRM_FAULT_ADDR_HI | UPD_FAULT | CORE_PART_SEL | SCHED_PART_CTRL
  | SCHED_STATUS | SCHED_SERVE | SCHED_SERVE_BASE | SCHED_QUOTA_SLOTS | SCHED_QUOTA_CHAN | SCHED_QUOTA_LINK
  | SCHED_QUOTA_POWER | SCHED_QUOTA_PILE | SCHED_QUOTA_PILE_USE | SCHED_QUOTA_BARL | SCHED_CORE_MASK | HIF_ORPHAN
  | BARL_CTRL | BARL_STATUS | BARL_APER_LO | BARL_APER_HI | BARL_APER_SIZE | BARL_PLAN_LO
  | BARL_PLAN_HI | BARL_PLAN_COUNT | BARL_SPILL_LO | BARL_SPILL_HI | BARL_SPILL_SIZE | BARL_SPILL_TGT
  | UPD_CTRL | ESC_CTRL | UPD_SHARD_LO | UPD_SHARD_HI | UPD_SHARD_COUNT | UPD_SLICE_LO
  | UPD_SLICE_HI | UPD_SLICE_COUNT | ESC_TABLE_LO | ESC_TABLE_HI | ESC_TABLE_COUNT | ESC_RECORD_LO
  | ESC_RECORD_HI | ESC_STATUS | ESC_GEN | ESC_STEP | UPD_GOV_LO | UPD_GOV_HI
  | UPD_HIST_LO | UPD_HIST_HI | PILE_MMU_ROOT_LO | PILE_MMU_ROOT_HI | PILE_POOL_LO | PILE_POOL_HI
  | PILE_POOL_COUNT | PILE_T2TAB_LO | PILE_T2TAB_HI | PILE_T2TAB_COUNT | PILE_T2_CTRL | PILE_WAYS
  | HIF_FN_STATUS | HIF_LIVE_CTRL | HIF_WIN_BASE_LO | HIF_WIN_BASE_HI | HIF_ADB | FW_FEAT_ACT
  | HIF_WRING_BASE_LO | HIF_WRING_BASE_HI | HIF_CRING_BASE_LO | HIF_CRING_BASE_HI | HIF_WRING_CTRL | HIF_CRING_CTRL
  | HIF_WDB | HIF_CDB
  deriving DecidableEq, Repr

/-- The 64-bit counters, under their names in the spec (R81); the audit counters of R519 stand apart, in the state's audit. -/
inductive CtrName where
  | TOP_ERR_CORRECTED | TOP_ERR_CONTAINED | PWR_ENERGY_MJ | PWR_GUARD_TICKS | PWR_THERM_TICKS | PWR_CORE_WAKES
  | SEC_SPDM_REQS | SEC_SPDM_ERRORS | SEC_DEBUG_UNLOCKS | SEC_DEBUG_REJECTS | FW_RESTART | FW_ACTIVATIONS
  | FW_LOAD_REJECTS | FW_LOG_APPENDS | STRIKE_COUNT | STRIKE_MISSED | DBG_INJ_DONE | DBG_REFUSED
  | TYL_STALE_FRAMES | TYL_NOROUTE | TYL_CHAN_FAILS | TYL_TX_FRAMES | TYL_REPLAY_FRAMES | TYL_NAK_SENT
  | TYL_LANE_DOWNS | TYL_LINK_FAILS | TYL_CRD_STALL | TYL_TRANSIT_FRAMES | PILE_RESEND | PILE_REREAD
  | PILE_RC_FIX | PILE_POISON | PILE_CACHE_HIT | PILE_CACHE_MISS | PILE_RMW | PILE_RAW_BYTES
  | PILE_STORED_BYTES | PILE_POOL_FREE | PILE_SCRUB_BYTES | PILE_REMOTE_OUT | PILE_REMOTE_IN | XCH_TX_ROWS
  | XCH_RX_ROWS | XCH_OVF_CHOICES | XCH_RX_EXCESS | XCH_RX_DROP | XCH_RESTARTS | XCH_RERUN_ROWS
  | XCH_BUSY_CYCLES | CORE_ISSUE_COUNT | CORE_IDLE_CYCLES | CORE_FREEZE_BANK | CORE_FREEZE_STREAM | CORE_FREEZE_ARRAY
  | CORE_FREEZE_PARITY | CORE_GOV_SUBST | CORE_GOV_MISS | CORE_GOV_CEIL | SPAD_STREAM_DEFER | SPAD_OFFMAP_COUNT
  | SPAD_PARITY_REREAD | SPAD_POISON_COUNT | ARR_PASS_COUNT | ARR_BUSY_CYCLES | ARR_HOLD_CYCLES | ARR_RELOAD_COUNT
  | VEC_VECTOR_COUNT | VEC_FUNC_COUNT | VEC_BUSY_CYCLES | LATHE_ROW_COUNT | LATHE_BUSY_CYCLES | STRM_LAND_BYTES
  | STRM_DRAIN_BYTES | STRM_CANCEL_BYTES | STRM_FAULT_DISCARD | STRM_FILL_CYCLES | STRM_WATCH_HOLD | STRM_WDOG_FIRES
  | SCHED_PLACED | SCHED_PIN_WAIT | SCHED_PREEMPT | SCHED_PREEMPT_MAX | SCHED_QUOTA_WAIT | SCHED_THROTTLE
  | SCHED_SERVE_ITEMS | BARL_POOL_USE | BARL_SPILL_USE | BARL_PEAK_BYTES | BARL_RAW_BYTES | BARL_STORED_BYTES
  | BARL_SPILL_BYTES | BARL_ABSENT_COUNT | BARL_ABSENT_BYTES | BARL_TWIN_COUNT | BARL_RERUN_BYTES | BARL_RERUN_ANSWERED
  | BARL_REGEN_COUNT | UPD_CONTRIB_COUNT | UPD_CONTRIB_DUP | UPD_CONTRIB_STALE | UPD_SPOILED | UPD_ADD_CYCLES
  | UPD_SLICES_RUN | UPD_MIXED_BLOCKS | ESC_COMMITS | ESC_DISCARDS | ESC_TIMEOUTS | ESC_QUERIES
  | ESC_ALIGNS | ESC_TOKENS_OUT | PILE_T2_RD_BYTES | PILE_T2_WR_BYTES | PILE_T2_LOST | HIF_DESC_FETCHED
  | HIF_CPL_WRITTEN | HIF_CPL_HELD | HIF_REFUSED | HIF_ACC_VIOL | HIF_DMA_DISCARD
  deriving DecidableEq, Repr

/-- Which register: its name, the unit whose block holds it (engine, link, pile, die, core, partition or function number;
0 in a block of the module page) and the index within its family (for a per-partition copy on a core, the partition; R115). -/
structure RegKey where
  name : RegName
  unit : Nat
  idx  : Nat
  deriving DecidableEq, Repr

/-- Which counter: name, unit and index. -/
structure CtrKey where
  name : CtrName
  unit : Nat
  idx  : Nat
  deriving DecidableEq, Repr

/-- A row of the register map: place, access masks (R3), reset value, whether its writes are expert-only (R7), and whether
its reads are computed from the state of the unit it shows (`live`). -/
structure RegRow where
  blk    : Blk
  off    : Nat
  stride : Nat
  count  : Nat
  name   : RegName
  rw     : Nat
  w1c    : Nat
  w1s    : Nat
  reset  : Nat
  expert : Bool
  live   : Bool
  deriving DecidableEq, Repr

/-- A row of the counter map: place, and the control register whose cnt_enable and cnt_clear govern it (none: it always
counts and no control clears it). -/
structure CtrRow where
  blk   : Blk
  off   : Nat
  count : Nat
  name  : CtrName
  ctl   : Option RegName
  deriving DecidableEq, Repr

/-- Register rows (R581, R516–R518). -/
def regRowsTop : List RegRow := [
  ⟨.top, 0x0, 0x4, 1, .TOP_ID, 0x0, 0x0, 0x0, 0x8001000, false, false⟩,
  ⟨.top, 0x4, 0x4, 1, .TOP_CORES, 0x0, 0x0, 0x0, 0x320, false, true⟩,
  ⟨.top, 0x10, 0x4, 1, .TOP_ERR_CTRL, 0xFF0D, 0x0, 0x0, 0x5, true, false⟩,
  ⟨.top, 0x14, 0x4, 1, .TOP_RETIRE_CTRL, 0xFFFF, 0x0, 0x0, 0x1808, true, false⟩,
  ⟨.top, 0x18, 0x4, 1, .TOP_ERR_STATUS, 0x0, 0xF, 0x0, 0x0, false, false⟩,
  ⟨.top, 0x1C, 0x4, 1, .TOP_ERR_FIRST, 0x0, 0x0, 0x0, 0x0, false, false⟩,
  ⟨.top, 0x20, 0x4, 1, .TOP_RESET_CAUSE, 0x0, 0x0, 0x0, 0x0, false, false⟩,
  ⟨.top, 0x30, 0x4, 1, .TOP_AUDIT_CTRL, 0x0, 0x0, 0x0, 0x0, true, false⟩,
  ⟨.top, 0x34, 0x4, 1, .TOP_AUDIT_STATUS, 0x0, 0x10000, 0x0, 0x0, false, false⟩]

/-- Register rows (R583, R494–R498). -/
def regRowsPwr : List RegRow := [
  ⟨.pwr, 0x0, 0x4, 1, .PWR_STATUS, 0x0, 0x78, 0x0, 0x0, false, false⟩,
  ⟨.pwr, 0x4, 0x4, 1, .PWR_INPUT, 0x0, 0x0, 0x0, 0x0, false, false⟩,
  ⟨.pwr, 0x8, 0x4, 1, .PWR_INPUT_W, 0x0, 0x0, 0x0, 0x0, false, false⟩,
  ⟨.pwr, 0xC, 0x4, 1, .PWR_BUDGET, 0xFFF, 0x0, 0x0, 0x960, false, false⟩,
  ⟨.pwr, 0x10, 0x4, 1, .PWR_MOD_RATIO, 0xFF, 0x0, 0x0, 0xFF, true, false⟩,
  ⟨.pwr, 0x14, 0x4, 1, .PWR_GUARD, 0xFF, 0x0, 0x0, 0x3F, true, false⟩,
  ⟨.pwr, 0x18, 0x4, 1, .PWR_THERM, 0xFF, 0x0, 0x0, 0x695F, true, false⟩,
  ⟨.pwr, 0x1C, 0x4, 1, .PWR_SLEEP, 0xFFFFFF03, 0x0, 0x0, 0x646403, true, false⟩,
  ⟨.pwr, 0x20, 0x4, 1, .PWR_CTRL, 0x1, 0x0, 0x0, 0x1, true, false⟩,
  ⟨.pwr, 0x30, 0x4, 4, .PWR_DOM_STATE, 0x0, 0x0, 0x0, 0x0, false, true⟩,
  ⟨.pwr, 0x40, 0x4, 2, .PWR_DOM_HOLD, 0xFFFFFFFF, 0x0, 0x0, 0x0, true, false⟩,
  ⟨.pwr, 0x80, 0x4, 16, .PWR_PART_EST, 0xFFFF, 0x0, 0x0, 0x0, true, false⟩,
  ⟨.pwr, 0x100, 0x4, 16, .PWR_DIE_STATUS, 0x0, 0x0, 0x0, 0xFF, false, false⟩,
  ⟨.pwr, 0x140, 0x4, 8, .PWR_PILE_STATUS, 0x0, 0x0, 0x0, 0x0, false, false⟩]

/-- Register rows (R584, R533–R535). -/
def regRowsSec : List RegRow := [
  ⟨.sec, 0x0, 0x4, 2, .SEC_SERIAL, 0x0, 0x0, 0x0, 0x0, false, true⟩,
  ⟨.sec, 0x8, 0x4, 1, .SEC_SVN, 0x0, 0x0, 0x0, 0x0, false, true⟩,
  ⟨.sec, 0xC, 0x4, 1, .SEC_SVN_COMMIT, 0x0, 0x0, 0x0, 0x0, false, false⟩,
  ⟨.sec, 0x10, 0x4, 1, .SEC_KEY_CTRL, 0x0, 0x4, 0x0, 0x0, false, false⟩,
  ⟨.sec, 0x14, 0x4, 1, .SEC_CTRL, 0x1, 0x0, 0x0, 0x1, false, false⟩,
  ⟨.sec, 0x20, 0x4, 1, .SEC_DEBUG_CTRL, 0x0, 0x0, 0x0, 0x0, false, false⟩,
  ⟨.sec, 0x24, 0x4, 1, .SEC_DEBUG_STATUS, 0x0, 0x0, 0x0, 0x0, false, false⟩,
  ⟨.sec, 0x28, 0x4, 1, .SEC_DEBUG_LEFT, 0x0, 0x0, 0x0, 0x0, false, false⟩,
  ⟨.sec, 0x30, 0x4, 4, .SEC_DEBUG_NONCE, 0x0, 0x0, 0x0, 0x0, false, false⟩,
  ⟨.sec, 0x100, 0x4, 48, .SEC_DEBUG_TOKEN, 0x0, 0x0, 0x0, 0x0, false, false⟩]

/-- Register rows (R585, R471–R475). -/
def regRowsFw : List RegRow := [
  ⟨.fw, 0x0, 0x4, 1, .FW_STATUS, 0x0, 0x0, 0x0, 0x0, false, false⟩,
  ⟨.fw, 0x4, 0x4, 1, .FW_VERSION, 0x0, 0x0, 0x0, 0x0, false, false⟩,
  ⟨.fw, 0x8, 0x4, 1, .FW_PROC_STATUS, 0x0, 0x0, 0x0, 0x0, false, true⟩,
  ⟨.fw, 0xC, 0x4, 1, .FW_PROC_CTRL, 0x0, 0x0, 0x3F, 0x0, false, false⟩,
  ⟨.fw, 0x10, 0x4, 1, .FW_LOAD_ADDR_LO, 0xFFFFF000, 0x0, 0x0, 0x0, false, false⟩,
  ⟨.fw, 0x14, 0x4, 1, .FW_LOAD_ADDR_HI, 0xFFFFFFFF, 0x0, 0x0, 0x0, false, false⟩,
  ⟨.fw, 0x18, 0x4, 1, .FW_LOAD_SIZE, 0xFFFFFFFF, 0x0, 0x0, 0x0, false, false⟩,
  ⟨.fw, 0x1C, 0x4, 1, .FW_LOAD_CTRL, 0x0, 0x0, 0x0, 0x0, false, false⟩,
  ⟨.fw, 0x20, 0x4, 1, .FW_LOG_CTRL, 0xD, 0x0, 0x0, 0x9, false, false⟩,
  ⟨.fw, 0x28, 0x4, 2, .FW_LOG_HEAD, 0x0, 0x0, 0x0, 0x0, false, true⟩,
  ⟨.fw, 0x40, 0x4, 8, .FW_FEAT_FW, 0x0, 0x0, 0x0, 0x0, false, true⟩,
  ⟨.fw, 0x200, 0x4, 128, .FW_TRACE_MASK, 0xFFFFFFFF, 0x0, 0x0, 0x0, false, false⟩]

/-- Register rows (R580, R586, R446, R550–R552). -/
def regRowsDbgs : List RegRow := [
  ⟨.strike, 0x0, 0x4, 1, .STRIKE_CTRL, 0xFF, 0x0, 0x0, 0x80, false, false⟩,
  ⟨.strike, 0x4, 0x4, 1, .STRIKE_FIRE, 0x0, 0x0, 0x0, 0x0, false, false⟩,
  ⟨.strike, 0x8, 0x4, 1, .STRIKE_STATUS, 0x0, 0x0, 0x0, 0x0, false, true⟩,
  ⟨.strike, 0xC, 0x4, 1, .STRIKE_SEQ, 0x0, 0x0, 0x0, 0x0, false, false⟩,
  ⟨.strike, 0x10, 0x4, 1, .STRIKE_LATCH_SEQ, 0x0, 0x0, 0x0, 0x0, false, false⟩,
  ⟨.strike, 0x14, 0x4, 1, .STRIKE_TRACE, 0xFFF, 0x0, 0x0, 0x0, false, false⟩,
  ⟨.strike, 0x18, 0x4, 1, .STRIKE_SNAP_SEL, 0xFFF, 0x0, 0x0, 0x0, false, false⟩,
  ⟨.strike, 0x20, 0x4, 4, .STRIKE_THR_SEL, 0x3FFFFF8, 0x0, 0x0, 0x0, false, false⟩,
  ⟨.strike, 0x30, 0x8, 4, .STRIKE_THR_LO, 0xFFFFFFFF, 0x0, 0x0, 0x0, false, false⟩,
  ⟨.strike, 0x34, 0x8, 4, .STRIKE_THR_HI, 0xFFFFFFFF, 0x0, 0x0, 0x0, false, false⟩,
  ⟨.dbg, 0x0, 0x4, 1, .DBG_SEL, 0xFFF, 0x0, 0x0, 0x0, false, false⟩,
  ⟨.dbg, 0x4, 0x4, 1, .DBG_CRD, 0xFFFFFFFF, 0x0, 0x0, 0x0, false, false⟩,
  ⟨.dbg, 0x8, 0x4, 1, .DBG_LAT, 0xF000FFFF, 0x0, 0x0, 0x0, false, false⟩,
  ⟨.dbg, 0xC, 0x4, 1, .DBG_PAR, 0x7C1F00FF, 0x0, 0x0, 0x1, false, false⟩,
  ⟨.dbg, 0x10, 0x4, 1, .DBG_STATUS, 0x0, 0x0, 0x0, 0x0, false, true⟩,
  ⟨.dbg, 0x14, 0x4, 1, .DBG_CTRL, 0x1, 0x0, 0x0, 0x1, false, false⟩,
  ⟨.hifReset, 0x0, 0x4, 1, .HIF_RESET_CTRL, 0x1, 0x0, 0x0, 0x0, true, false⟩]

/-- Register rows (R587, R588, R303, R361–R363). -/
def regRowsTyl : List RegRow := [
  ⟨.tylMod, 0x0, 0x4, 1, .TYL_ID, 0xFFF, 0x0, 0x0, 0x0, true, false⟩,
  ⟨.tylMod, 0x4, 0x4, 1, .TYL_ROUTE_LO, 0xFFFFC000, 0x0, 0x0, 0x0, true, false⟩,
  ⟨.tylMod, 0x8, 0x4, 1, .TYL_ROUTE_HI, 0x7F, 0x0, 0x0, 0x0, true, false⟩,
  ⟨.eng, 0x0, 0x4, 1, .TYL_ENG_CTRL, 0xE1, 0x0, 0x0, 0x81, true, false⟩,
  ⟨.eng, 0x4, 0x4, 1, .TYL_LANE_CTRL, 0xFFFFFFC0, 0x0, 0x0, 0x83C4100, true, false⟩,
  ⟨.link, 0x0, 0x4, 1, .TYL_LINK_STATUS, 0x0, 0x0, 0x0, 0x0, false, true⟩,
  ⟨.link, 0x4, 0x4, 1, .TYL_LINK_MASK, 0x0, 0x0, 0x0, 0x0, false, true⟩,
  ⟨.link, 0x8, 0x4, 1, .TYL_LINK_RTT, 0x0, 0x0, 0x0, 0x0, false, true⟩,
  ⟨.link, 0xC, 0x4, 1, .TYL_LINK_CLS, 0xFFFF, 0x0, 0x0, 0x8422, true, false⟩,
  ⟨.link, 0x10, 0x4, 1, .TYL_LINK_CRD, 0xFFFFFFFF, 0x0, 0x0, 0x40201010, true, false⟩,
  ⟨.pile, 0x0, 0x4, 1, .PILE_CTRL, 0xFF000001, 0x0, 0x0, 0x18000001, true, false⟩,
  ⟨.pile, 0x4, 0x4, 1, .PILE_STATUS, 0x0, 0x3000, 0x0, 0x0, false, true⟩]

/-- Register rows (R589 and the field tables of files 02–06, 09 and 13). -/
def regRowsCore : List RegRow := [
  ⟨.die, 0x0, 0x4, 1, .XCH_CTRL, 0x1, 0x0, 0x0, 0x1, true, false⟩,
  ⟨.die, 0x4, 0x4, 1, .XCH_STATUS, 0x0, 0x0, 0x0, 0x0, false, true⟩,
  ⟨.die, 0x8, 0x4, 1, .XCH_FAULT, 0x0, 0x80000000, 0x0, 0x0, false, false⟩,
  ⟨.die, 0xC, 0x4, 1, .SCHED_DIE_STATUS, 0x0, 0x0, 0x0, 0x0, false, true⟩,
  ⟨.core, 0x0, 0x4, 1, .CORE_ID, 0x0, 0x0, 0x0, 0x0, false, true⟩,
  ⟨.core, 0x4, 0x4, 1, .CORE_OWNER, 0x0, 0x0, 0x0, 0x0, false, true⟩,
  ⟨.core, 0x8, 0x4, 1, .CORE_SLOT_STATE, 0x0, 0x0, 0x0, 0x0, false, true⟩,
  ⟨.core, 0xC, 0x4, 1, .CORE_CNT_CTRL, 0x1, 0x0, 0x0, 0x1, true, false⟩,
  ⟨.core, 0x10, 0x4, 1, .CORE_ARITH_CTRL, 0x7, 0x0, 0x0, 0x0, true, false⟩,
  ⟨.core, 0x14, 0x4, 1, .CORE_ARITH_STATUS, 0x0, 0x3F, 0x0, 0x0, false, false⟩,
  ⟨.core, 0x18, 0x4, 1, .CORE_GOV_CTRL, 0x1, 0x0, 0x0, 0x0, true, false⟩,
  ⟨.core, 0x1C, 0x4, 1, .CORE_GOV_STEP, 0x0, 0x0, 0x0, 0x0, false, false⟩,
  ⟨.core, 0x20, 0x4, 8, .SPAD_WINDOW, 0x0, 0x0, 0x0, 0x0, false, true⟩,
  ⟨.core, 0x40, 0x4, 1, .SPAD_CTRL, 0x1, 0x0, 0x0, 0x1, true, false⟩,
  ⟨.core, 0x50, 0x4, 1, .ARR_CTRL, 0x1, 0x0, 0x0, 0x1, true, false⟩,
  ⟨.core, 0x54, 0x4, 1, .ARR_STATUS, 0x0, 0x0, 0x0, 0x0, false, true⟩,
  ⟨.core, 0x58, 0x4, 1, .ARR_FAULT, 0x0, 0x8000, 0x0, 0x0, false, false⟩,
  ⟨.core, 0x60, 0x4, 1, .VEC_CTRL, 0x1, 0x0, 0x0, 0x1, true, false⟩,
  ⟨.core, 0x64, 0x4, 1, .VEC_FAULT, 0x0, 0x8000, 0x0, 0x0, false, false⟩,
  ⟨.core, 0x68, 0x4, 1, .LATHE_CTRL, 0x1, 0x0, 0x0, 0x1, true, false⟩,
  ⟨.core, 0x6C, 0x4, 1, .LATHE_FAULT, 0x0, 0x8000, 0x0, 0x0, false, false⟩,
  ⟨.core, 0x70, 0x4, 1, .VEC_FTAB_STATUS, 0x0, 0x0, 0x0, 0x0, false, true⟩,
  ⟨.core, 0x74, 0x4, 1, .VEC_FTAB_SRC_LO, 0xFFFFFFC0, 0x0, 0x0, 0x0, true, false⟩,
  ⟨.core, 0x78, 0x4, 1, .VEC_FTAB_SRC_HI, 0xFFFF, 0x0, 0x0, 0x0, true, false⟩,
  ⟨.core, 0x7C, 0x4, 1, .VEC_FTAB_LOAD, 0x0, 0x0, 0x0, 0x0, true, false⟩,
  ⟨.core, 0x80, 0x4, 1, .STRM_CTRL, 0xFFFF0001, 0x0, 0x0, 0x4000001, true, false⟩,
  ⟨.core, 0x84, 0x4, 1, .STRM_ARMED, 0x0, 0x0, 0x0, 0x0, false, true⟩,
  ⟨.core, 0x88, 0x4, 1, .STRM_STALE, 0x0, 0xFFFF, 0x0, 0x0, false, false⟩,
  ⟨.core, 0x8C, 0x4, 1, .STRM_FAULT, 0x0, 0x8000, 0x0, 0x0, false, false⟩,
  ⟨.core, 0x90, 0x4, 1, .STRM_FAULT_ADDR_LO, 0x0, 0x0, 0x0, 0x0, false, false⟩,
  ⟨.core, 0x94, 0x4, 1, .STRM_FAULT_ADDR_HI, 0x0, 0x0, 0x0, 0x0, false, false⟩,
  ⟨.core, 0x98, 0x4, 1, .UPD_FAULT, 0x0, 0x8000, 0x0, 0x0, false, false⟩,
  ⟨.core, 0x9C, 0x4, 1, .CORE_PART_SEL, 0xF, 0x0, 0x0, 0x0, false, false⟩]

/-- Register rows (R590, R412–R415, R446, R220–R224). DESIGN CHOICE (log entry 117): BARL_PLAN_ is not expert-only, because R602 has the host
driver place the barrel plan between steps at either level, though R226 names all BARL_ registers. -/
def regRowsPart : List RegRow := [
  ⟨.sched, 0x0, 0x4, 1, .SCHED_PART_CTRL, 0x731, 0x0, 0x0, 0x101, true, false⟩,
  ⟨.sched, 0x4, 0x4, 1, .SCHED_STATUS, 0x0, 0x0, 0x0, 0x0, false, true⟩,
  ⟨.sched, 0x8, 0x4, 1, .SCHED_SERVE, 0xFFFFFFFF, 0x0, 0x0, 0x84008F6, true, false⟩,
  ⟨.sched, 0xC, 0x4, 1, .SCHED_SERVE_BASE, 0xFFFFFFFF, 0x0, 0x0, 0x0, true, false⟩,
  ⟨.sched, 0x10, 0x4, 1, .SCHED_QUOTA_SLOTS, 0xFFFF, 0x0, 0x0, 0x0, true, true⟩,
  ⟨.sched, 0x14, 0x4, 1, .SCHED_QUOTA_CHAN, 0xFFFF, 0x0, 0x0, 0x0, true, true⟩,
  ⟨.sched, 0x18, 0x4, 1, .SCHED_QUOTA_LINK, 0xFFFF, 0x0, 0x0, 0x0, true, true⟩,
  ⟨.sched, 0x1C, 0x4, 1, .SCHED_QUOTA_POWER, 0xFFFF, 0x0, 0x0, 0x0, true, true⟩,
  ⟨.sched, 0x20, 0x4, 1, .SCHED_QUOTA_PILE, 0xFFFFFFFF, 0x0, 0x0, 0x0, true, false⟩,
  ⟨.sched, 0x24, 0x4, 1, .SCHED_QUOTA_PILE_USE, 0x0, 0x0, 0x0, 0x0, false, false⟩,
  ⟨.sched, 0x28, 0x4, 1, .SCHED_QUOTA_BARL, 0xFFFFFFFF, 0x0, 0x0, 0x0, true, false⟩,
  ⟨.sched, 0x40, 0x4, 25, .SCHED_CORE_MASK, 0xFFFFFFFF, 0x0, 0x0, 0x0, true, false⟩,
  ⟨.orphan, 0x0, 0x4, 1, .HIF_ORPHAN, 0x1FFF, 0x0, 0x0, 0x12C, true, false⟩,
  ⟨.barl, 0x0, 0x4, 1, .BARL_CTRL, 0xFD, 0x0, 0x0, 0x1, true, false⟩,
  ⟨.barl, 0x4, 0x4, 1, .BARL_STATUS, 0x0, 0x4, 0x0, 0x0, false, true⟩,
  ⟨.barl, 0x8, 0x4, 1, .BARL_APER_LO, 0xFFE00000, 0x0, 0x0, 0x0, true, false⟩,
  ⟨.barl, 0xC, 0x4, 1, .BARL_APER_HI, 0xFFFF, 0x0, 0x0, 0x0, true, false⟩,
  ⟨.barl, 0x10, 0x4, 1, .BARL_APER_SIZE, 0xFFFF, 0x0, 0x0, 0x0, true, false⟩,
  ⟨.barl, 0x14, 0x4, 1, .BARL_PLAN_LO, 0xFFFFFFC0, 0x0, 0x0, 0x0, false, false⟩,
  ⟨.barl, 0x18, 0x4, 1, .BARL_PLAN_HI, 0xFFFF, 0x0, 0x0, 0x0, false, false⟩,
  ⟨.barl, 0x1C, 0x4, 1, .BARL_PLAN_COUNT, 0x1FFFF, 0x0, 0x0, 0x0, false, false⟩,
  ⟨.barl, 0x20, 0x4, 1, .BARL_SPILL_LO, 0xFFFFF000, 0x0, 0x0, 0x0, true, false⟩,
  ⟨.barl, 0x24, 0x4, 1, .BARL_SPILL_HI, 0xFFFFFFFF, 0x0, 0x0, 0x0, true, false⟩,
  ⟨.barl, 0x28, 0x4, 1, .BARL_SPILL_SIZE, 0xFFFFFFFF, 0x0, 0x0, 0x0, true, false⟩,
  ⟨.barl, 0x2C, 0x4, 1, .BARL_SPILL_TGT, 0xFFFFFFFF, 0x0, 0x0, 0x0, true, false⟩]

/-- Register rows (R590, R273–R275, R603). -/
def regRowsUpd : List RegRow := [
  ⟨.upd, 0x0, 0x4, 1, .UPD_CTRL, 0x1, 0x0, 0x0, 0x1, true, false⟩,
  ⟨.upd, 0x4, 0x4, 1, .ESC_CTRL, 0xFFFFFFF1, 0x0, 0x0, 0x7801F41, true, false⟩,
  ⟨.upd, 0x8, 0x4, 1, .UPD_SHARD_LO, 0xFFFFFFC0, 0x0, 0x0, 0x0, false, false⟩,
  ⟨.upd, 0xC, 0x4, 1, .UPD_SHARD_HI, 0xFFFF, 0x0, 0x0, 0x0, false, false⟩,
  ⟨.upd, 0x10, 0x4, 1, .UPD_SHARD_COUNT, 0x1FFFF, 0x0, 0x0, 0x0, false, false⟩,
  ⟨.upd, 0x14, 0x4, 1, .UPD_SLICE_LO, 0xFFFFFFC0, 0x0, 0x0, 0x0, false, false⟩,
  ⟨.upd, 0x18, 0x4, 1, .UPD_SLICE_HI, 0xFFFF, 0x0, 0x0, 0x0, false, false⟩,
  ⟨.upd, 0x1C, 0x4, 1, .UPD_SLICE_COUNT, 0x1FFFFF, 0x0, 0x0, 0x0, false, false⟩,
  ⟨.upd, 0x20, 0x4, 1, .ESC_TABLE_LO, 0xFFFFFFC0, 0x0, 0x0, 0x0, false, false⟩,
  ⟨.upd, 0x24, 0x4, 1, .ESC_TABLE_HI, 0xFFFF, 0x0, 0x0, 0x0, false, false⟩,
  ⟨.upd, 0x28, 0x4, 1, .ESC_TABLE_COUNT, 0xFFF1FFF, 0x0, 0x0, 0x0, false, false⟩,
  ⟨.upd, 0x2C, 0x4, 1, .ESC_RECORD_LO, 0xFFFFFFC0, 0x0, 0x0, 0x0, false, false⟩,
  ⟨.upd, 0x30, 0x4, 1, .ESC_RECORD_HI, 0xFFFF, 0x0, 0x0, 0x0, false, false⟩,
  ⟨.upd, 0x34, 0x4, 1, .ESC_STATUS, 0x0, 0xC0, 0x0, 0x0, false, true⟩,
  ⟨.upd, 0x38, 0x4, 2, .ESC_GEN, 0x0, 0x0, 0x0, 0x0, false, true⟩,
  ⟨.upd, 0x40, 0x4, 2, .ESC_STEP, 0x0, 0x0, 0x0, 0x0, false, true⟩,
  ⟨.upd, 0x48, 0x4, 1, .UPD_GOV_LO, 0xFFFFF000, 0x0, 0x0, 0x0, false, false⟩,
  ⟨.upd, 0x4C, 0x4, 1, .UPD_GOV_HI, 0xFFFF, 0x0, 0x0, 0x0, false, false⟩,
  ⟨.upd, 0x50, 0x4, 1, .UPD_HIST_LO, 0xFFFFF000, 0x0, 0x0, 0x0, false, false⟩,
  ⟨.upd, 0x54, 0x4, 1, .UPD_HIST_HI, 0xFFFF, 0x0, 0x0, 0x0, false, false⟩]

/-- Register rows (R590, R304, R305, R324). -/
def regRowsMmu : List RegRow := [
  ⟨.mmu, 0x0, 0x4, 1, .PILE_MMU_ROOT_LO, 0xFFFFE001, 0x0, 0x0, 0x0, false, false⟩,
  ⟨.mmu, 0x4, 0x4, 1, .PILE_MMU_ROOT_HI, 0x7F, 0x0, 0x0, 0x0, false, false⟩,
  ⟨.mmu, 0x8, 0x4, 1, .PILE_POOL_LO, 0xFFFFFFF8, 0x0, 0x0, 0x0, true, false⟩,
  ⟨.mmu, 0xC, 0x4, 1, .PILE_POOL_HI, 0xFFFF, 0x0, 0x0, 0x0, true, false⟩,
  ⟨.mmu, 0x10, 0x4, 1, .PILE_POOL_COUNT, 0xFFFF, 0x0, 0x0, 0x0, true, false⟩,
  ⟨.mmu, 0x14, 0x4, 1, .PILE_T2TAB_LO, 0xFFFFFFF0, 0x0, 0x0, 0x0, true, false⟩,
  ⟨.mmu, 0x18, 0x4, 1, .PILE_T2TAB_HI, 0xFFFF, 0x0, 0x0, 0x0, true, false⟩,
  ⟨.mmu, 0x1C, 0x4, 1, .PILE_T2TAB_COUNT, 0x1FFF, 0x0, 0x0, 0x0, true, false⟩,
  ⟨.mmu, 0x20, 0x4, 1, .PILE_T2_CTRL, 0x1, 0x0, 0x0, 0x1, true, false⟩,
  ⟨.mmu, 0x40, 0x4, 8, .PILE_WAYS, 0xFFFF, 0x0, 0x0, 0x0, true, false⟩]

/-- Register rows (R591, R446, R447, R474). -/
def regRowsFn : List RegRow := [
  ⟨.fn, 0x0, 0x4, 1, .HIF_FN_STATUS, 0x0, 0x0, 0x0, 0x0, false, true⟩,
  ⟨.fn, 0x4, 0x4, 1, .HIF_LIVE_CTRL, 0xFFFF, 0x0, 0x0, 0x3E8, true, false⟩,
  ⟨.fn, 0x8, 0x4, 1, .HIF_WIN_BASE_LO, 0xFFFFF000, 0x0, 0x0, 0x0, false, false⟩,
  ⟨.fn, 0xC, 0x4, 1, .HIF_WIN_BASE_HI, 0xFFFF, 0x0, 0x0, 0x0, false, false⟩,
  ⟨.fn, 0x10, 0x4, 1, .HIF_ADB, 0x0, 0x0, 0x0, 0x0, false, false⟩,
  ⟨.fn, 0x40, 0x4, 8, .FW_FEAT_ACT, 0x0, 0x0, 0x0, 0x0, false, true⟩,
  ⟨.fn, 0x100, 0x40, 8, .HIF_WRING_BASE_LO, 0xFFFFF000, 0x0, 0x0, 0x0, false, false⟩,
  ⟨.fn, 0x104, 0x40, 8, .HIF_WRING_BASE_HI, 0xFFFFFFFF, 0x0, 0x0, 0x0, false, false⟩,
  ⟨.fn, 0x108, 0x40, 8, .HIF_CRING_BASE_LO, 0xFFFFF000, 0x0, 0x0, 0x0, false, false⟩,
  ⟨.fn, 0x10C, 0x40, 8, .HIF_CRING_BASE_HI, 0xFFFFFFFF, 0x0, 0x0, 0x0, false, false⟩,
  ⟨.fn, 0x110, 0x40, 8, .HIF_WRING_CTRL, 0x11F, 0x200, 0x0, 0x6, false, false⟩,
  ⟨.fn, 0x114, 0x40, 8, .HIF_CRING_CTRL, 0xFFFFFF1F, 0x0, 0x0, 0x4006, false, false⟩,
  ⟨.fn, 0x118, 0x40, 8, .HIF_WDB, 0x0, 0x0, 0x0, 0x0, false, false⟩,
  ⟨.fn, 0x11C, 0x40, 8, .HIF_CDB, 0x0, 0x0, 0x0, 0x0, false, false⟩]

/-- The register map of the module. -/
def regMap : List RegRow :=
  regRowsTop ++ regRowsPwr ++ regRowsSec ++ regRowsFw ++ regRowsDbgs ++ regRowsTyl ++ regRowsCore ++ regRowsPart ++ regRowsUpd ++ regRowsMmu ++ regRowsFn

/-- Counter rows (R581–R591, each counter 8 B after the one before it). -/
def ctrRowsA : List CtrRow := [
  ⟨.top, 0x40, 1, .TOP_ERR_CORRECTED, some .TOP_ERR_CTRL⟩,
  ⟨.top, 0x48, 1, .TOP_ERR_CONTAINED, some .TOP_ERR_CTRL⟩,
  ⟨.pwr, 0x200, 1, .PWR_ENERGY_MJ, some .PWR_CTRL⟩,
  ⟨.pwr, 0x208, 1, .PWR_GUARD_TICKS, some .PWR_CTRL⟩,
  ⟨.pwr, 0x210, 1, .PWR_THERM_TICKS, some .PWR_CTRL⟩,
  ⟨.pwr, 0x218, 1, .PWR_CORE_WAKES, some .PWR_CTRL⟩,
  ⟨.sec, 0x200, 1, .SEC_SPDM_REQS, some .SEC_CTRL⟩,
  ⟨.sec, 0x208, 1, .SEC_SPDM_ERRORS, some .SEC_CTRL⟩,
  ⟨.sec, 0x210, 1, .SEC_DEBUG_UNLOCKS, some .SEC_CTRL⟩,
  ⟨.sec, 0x218, 1, .SEC_DEBUG_REJECTS, some .SEC_CTRL⟩,
  ⟨.fw, 0x100, 6, .FW_RESTART, some .FW_LOG_CTRL⟩,
  ⟨.fw, 0x130, 1, .FW_ACTIVATIONS, some .FW_LOG_CTRL⟩,
  ⟨.fw, 0x138, 1, .FW_LOAD_REJECTS, some .FW_LOG_CTRL⟩,
  ⟨.fw, 0x140, 1, .FW_LOG_APPENDS, some .FW_LOG_CTRL⟩,
  ⟨.dbg, 0x80, 1, .STRIKE_COUNT, some .DBG_CTRL⟩,
  ⟨.dbg, 0x88, 1, .STRIKE_MISSED, some .DBG_CTRL⟩,
  ⟨.dbg, 0x90, 1, .DBG_INJ_DONE, some .DBG_CTRL⟩,
  ⟨.dbg, 0x98, 1, .DBG_REFUSED, some .DBG_CTRL⟩,
  ⟨.tylMod, 0x80, 1, .TYL_STALE_FRAMES, none⟩,
  ⟨.tylMod, 0x88, 1, .TYL_NOROUTE, none⟩,
  ⟨.tylMod, 0x90, 1, .TYL_CHAN_FAILS, none⟩,
  ⟨.link, 0x80, 1, .TYL_TX_FRAMES, some .TYL_ENG_CTRL⟩,
  ⟨.link, 0x88, 1, .TYL_REPLAY_FRAMES, some .TYL_ENG_CTRL⟩,
  ⟨.link, 0x90, 1, .TYL_NAK_SENT, some .TYL_ENG_CTRL⟩,
  ⟨.link, 0x98, 1, .TYL_LANE_DOWNS, some .TYL_ENG_CTRL⟩,
  ⟨.link, 0xA0, 1, .TYL_LINK_FAILS, some .TYL_ENG_CTRL⟩,
  ⟨.link, 0xA8, 1, .TYL_CRD_STALL, some .TYL_ENG_CTRL⟩,
  ⟨.link, 0xB0, 1, .TYL_TRANSIT_FRAMES, some .TYL_ENG_CTRL⟩,
  ⟨.pile, 0x80, 1, .PILE_RESEND, some .PILE_CTRL⟩,
  ⟨.pile, 0x88, 1, .PILE_REREAD, some .PILE_CTRL⟩,
  ⟨.pile, 0x90, 1, .PILE_RC_FIX, some .PILE_CTRL⟩,
  ⟨.pile, 0x98, 1, .PILE_POISON, some .PILE_CTRL⟩,
  ⟨.pile, 0xA0, 1, .PILE_CACHE_HIT, some .PILE_CTRL⟩,
  ⟨.pile, 0xA8, 1, .PILE_CACHE_MISS, some .PILE_CTRL⟩,
  ⟨.pile, 0xB0, 1, .PILE_RMW, some .PILE_CTRL⟩,
  ⟨.pile, 0xB8, 1, .PILE_RAW_BYTES, some .PILE_CTRL⟩,
  ⟨.pile, 0xC0, 1, .PILE_STORED_BYTES, some .PILE_CTRL⟩,
  ⟨.pile, 0xC8, 1, .PILE_POOL_FREE, some .PILE_CTRL⟩,
  ⟨.pile, 0xD0, 1, .PILE_SCRUB_BYTES, some .PILE_CTRL⟩,
  ⟨.pile, 0xD8, 1, .PILE_REMOTE_OUT, some .PILE_CTRL⟩,
  ⟨.pile, 0xE0, 1, .PILE_REMOTE_IN, some .PILE_CTRL⟩]

/-- Counter rows (R581–R591, each counter 8 B after the one before it). -/
def ctrRowsB : List CtrRow := [
  ⟨.die, 0x80, 1, .XCH_TX_ROWS, some .XCH_CTRL⟩,
  ⟨.die, 0x88, 1, .XCH_RX_ROWS, some .XCH_CTRL⟩,
  ⟨.die, 0x90, 1, .XCH_OVF_CHOICES, some .XCH_CTRL⟩,
  ⟨.die, 0x98, 1, .XCH_RX_EXCESS, some .XCH_CTRL⟩,
  ⟨.die, 0xA0, 1, .XCH_RX_DROP, some .XCH_CTRL⟩,
  ⟨.die, 0xA8, 1, .XCH_RESTARTS, some .XCH_CTRL⟩,
  ⟨.die, 0xB0, 1, .XCH_RERUN_ROWS, some .XCH_CTRL⟩,
  ⟨.die, 0xB8, 1, .XCH_BUSY_CYCLES, some .XCH_CTRL⟩,
  ⟨.core, 0x100, 1, .CORE_ISSUE_COUNT, some .CORE_CNT_CTRL⟩,
  ⟨.core, 0x108, 1, .CORE_IDLE_CYCLES, some .CORE_CNT_CTRL⟩,
  ⟨.core, 0x110, 1, .CORE_FREEZE_BANK, some .CORE_CNT_CTRL⟩,
  ⟨.core, 0x118, 1, .CORE_FREEZE_STREAM, some .CORE_CNT_CTRL⟩,
  ⟨.core, 0x120, 1, .CORE_FREEZE_ARRAY, some .CORE_CNT_CTRL⟩,
  ⟨.core, 0x128, 1, .CORE_FREEZE_PARITY, some .CORE_CNT_CTRL⟩,
  ⟨.core, 0x130, 1, .CORE_GOV_SUBST, some .CORE_CNT_CTRL⟩,
  ⟨.core, 0x138, 1, .CORE_GOV_MISS, some .CORE_CNT_CTRL⟩,
  ⟨.core, 0x140, 1, .CORE_GOV_CEIL, some .CORE_CNT_CTRL⟩,
  ⟨.core, 0x148, 1, .SPAD_STREAM_DEFER, some .SPAD_CTRL⟩,
  ⟨.core, 0x150, 1, .SPAD_OFFMAP_COUNT, some .SPAD_CTRL⟩,
  ⟨.core, 0x158, 1, .SPAD_PARITY_REREAD, some .SPAD_CTRL⟩,
  ⟨.core, 0x160, 1, .SPAD_POISON_COUNT, some .SPAD_CTRL⟩,
  ⟨.core, 0x168, 1, .ARR_PASS_COUNT, some .ARR_CTRL⟩,
  ⟨.core, 0x170, 1, .ARR_BUSY_CYCLES, some .ARR_CTRL⟩,
  ⟨.core, 0x178, 1, .ARR_HOLD_CYCLES, some .ARR_CTRL⟩,
  ⟨.core, 0x180, 1, .ARR_RELOAD_COUNT, some .ARR_CTRL⟩,
  ⟨.core, 0x188, 1, .VEC_VECTOR_COUNT, some .VEC_CTRL⟩,
  ⟨.core, 0x190, 1, .VEC_FUNC_COUNT, some .VEC_CTRL⟩,
  ⟨.core, 0x198, 1, .VEC_BUSY_CYCLES, some .VEC_CTRL⟩,
  ⟨.core, 0x1A0, 1, .LATHE_ROW_COUNT, some .LATHE_CTRL⟩,
  ⟨.core, 0x1A8, 1, .LATHE_BUSY_CYCLES, some .LATHE_CTRL⟩,
  ⟨.core, 0x1B0, 1, .STRM_LAND_BYTES, some .STRM_CTRL⟩,
  ⟨.core, 0x1B8, 1, .STRM_DRAIN_BYTES, some .STRM_CTRL⟩,
  ⟨.core, 0x1C0, 1, .STRM_CANCEL_BYTES, some .STRM_CTRL⟩,
  ⟨.core, 0x1C8, 1, .STRM_FAULT_DISCARD, some .STRM_CTRL⟩,
  ⟨.core, 0x1D0, 1, .STRM_FILL_CYCLES, some .STRM_CTRL⟩,
  ⟨.core, 0x1D8, 1, .STRM_WATCH_HOLD, some .STRM_CTRL⟩,
  ⟨.core, 0x1E0, 1, .STRM_WDOG_FIRES, some .STRM_CTRL⟩]

/-- Counter rows (R581–R591, each counter 8 B after the one before it). -/
def ctrRowsC : List CtrRow := [
  ⟨.sched, 0x100, 1, .SCHED_PLACED, some .SCHED_PART_CTRL⟩,
  ⟨.sched, 0x108, 1, .SCHED_PIN_WAIT, some .SCHED_PART_CTRL⟩,
  ⟨.sched, 0x110, 1, .SCHED_PREEMPT, some .SCHED_PART_CTRL⟩,
  ⟨.sched, 0x118, 1, .SCHED_PREEMPT_MAX, some .SCHED_PART_CTRL⟩,
  ⟨.sched, 0x120, 1, .SCHED_QUOTA_WAIT, some .SCHED_PART_CTRL⟩,
  ⟨.sched, 0x128, 1, .SCHED_THROTTLE, some .SCHED_PART_CTRL⟩,
  ⟨.sched, 0x130, 1, .SCHED_SERVE_ITEMS, some .SCHED_PART_CTRL⟩,
  ⟨.barl, 0x100, 1, .BARL_POOL_USE, some .BARL_CTRL⟩,
  ⟨.barl, 0x108, 1, .BARL_SPILL_USE, some .BARL_CTRL⟩,
  ⟨.barl, 0x110, 1, .BARL_PEAK_BYTES, some .BARL_CTRL⟩,
  ⟨.barl, 0x118, 1, .BARL_RAW_BYTES, some .BARL_CTRL⟩,
  ⟨.barl, 0x120, 1, .BARL_STORED_BYTES, some .BARL_CTRL⟩,
  ⟨.barl, 0x128, 1, .BARL_SPILL_BYTES, some .BARL_CTRL⟩,
  ⟨.barl, 0x130, 1, .BARL_ABSENT_COUNT, some .BARL_CTRL⟩,
  ⟨.barl, 0x138, 1, .BARL_ABSENT_BYTES, some .BARL_CTRL⟩,
  ⟨.barl, 0x140, 1, .BARL_TWIN_COUNT, some .BARL_CTRL⟩,
  ⟨.barl, 0x148, 1, .BARL_RERUN_BYTES, some .BARL_CTRL⟩,
  ⟨.barl, 0x150, 1, .BARL_RERUN_ANSWERED, some .BARL_CTRL⟩,
  ⟨.barl, 0x158, 1, .BARL_REGEN_COUNT, some .BARL_CTRL⟩,
  ⟨.upd, 0x100, 1, .UPD_CONTRIB_COUNT, some .UPD_CTRL⟩,
  ⟨.upd, 0x108, 1, .UPD_CONTRIB_DUP, some .UPD_CTRL⟩,
  ⟨.upd, 0x110, 1, .UPD_CONTRIB_STALE, some .UPD_CTRL⟩,
  ⟨.upd, 0x118, 1, .UPD_SPOILED, some .UPD_CTRL⟩,
  ⟨.upd, 0x120, 1, .UPD_ADD_CYCLES, some .UPD_CTRL⟩,
  ⟨.upd, 0x128, 1, .UPD_SLICES_RUN, some .UPD_CTRL⟩,
  ⟨.upd, 0x130, 1, .UPD_MIXED_BLOCKS, some .UPD_CTRL⟩,
  ⟨.upd, 0x138, 1, .ESC_COMMITS, some .ESC_CTRL⟩,
  ⟨.upd, 0x140, 1, .ESC_DISCARDS, some .ESC_CTRL⟩,
  ⟨.upd, 0x148, 1, .ESC_TIMEOUTS, some .ESC_CTRL⟩,
  ⟨.upd, 0x150, 1, .ESC_QUERIES, some .ESC_CTRL⟩,
  ⟨.upd, 0x158, 1, .ESC_ALIGNS, some .ESC_CTRL⟩,
  ⟨.upd, 0x160, 1, .ESC_TOKENS_OUT, some .ESC_CTRL⟩,
  ⟨.mmu, 0x100, 1, .PILE_T2_RD_BYTES, some .PILE_T2_CTRL⟩,
  ⟨.mmu, 0x108, 1, .PILE_T2_WR_BYTES, some .PILE_T2_CTRL⟩,
  ⟨.mmu, 0x110, 1, .PILE_T2_LOST, some .PILE_T2_CTRL⟩,
  ⟨.fn, 0x400, 1, .HIF_DESC_FETCHED, none⟩,
  ⟨.fn, 0x408, 1, .HIF_CPL_WRITTEN, none⟩,
  ⟨.fn, 0x410, 1, .HIF_CPL_HELD, none⟩,
  ⟨.fn, 0x418, 1, .HIF_REFUSED, none⟩,
  ⟨.fn, 0x420, 1, .HIF_ACC_VIOL, none⟩,
  ⟨.fn, 0x428, 1, .HIF_DMA_DISCARD, none⟩]

/-- The counter map of the module. -/
def ctrMap : List CtrRow := ctrRowsA ++ ctrRowsB ++ ctrRowsC

/-- The row of a register. -/
def RegName.row (n : RegName) : Option RegRow := regMap.find? fun r => r.name == n

/-- The row of a counter. -/
def CtrName.row (n : CtrName) : Option CtrRow := ctrMap.find? fun r => r.name == n

/-- The register of a block at an offset, with its index in the family. -/
def regAt (b : Blk) (off : Nat) : Option (RegRow × Nat) :=
  (regMap.find? fun r => r.blk == b && decide (r.off ≤ off) && (off - r.off) % r.stride == 0
      && decide ((off - r.off) / r.stride < r.count)).map fun r => (r, (off - r.off) / r.stride)

/-- The counter of a block at an offset, with its index and whether the offset is its high word (R81). -/
def ctrAt (b : Blk) (off : Nat) : Option (CtrRow × Nat × Bool) :=
  (ctrMap.find? fun r => r.blk == b && decide (r.off ≤ off) && decide (off < r.off + 8 * r.count)).bind fun r =>
    if (off - r.off) % 4 = 0 then some (r, (off - r.off) / 8, (off - r.off) % 8 == 4) else none

/-- The registers of which each partition that holds a core has a copy (R115). -/
def RegName.perPart : RegName → Bool
  | .CORE_ARITH_CTRL | .CORE_ARITH_STATUS | .CORE_GOV_CTRL | .CORE_GOV_STEP => true
  | _ => false

/-- The value a register has after a full reset (the Reset columns). The class and credit registers of a link have theirs
only on the first link of an engine (R362). -/
def RegKey.reset (k : RegKey) : Word :=
  match k.name with
  | .TYL_LINK_CLS => if k.unit % 4 = 0 then 0x8422#32 else 0#32
  | .TYL_LINK_CRD => if k.unit % 4 = 0 then 0x40201010#32 else 0#32
  | n => toWord ((n.row.map (·.reset)).getD 0)

end Sys2Proof.Machine
end

