-- ==== Sys2Proof/Machine/RecPart.lean ====
section
/-! DEFINITION. The records of piles (file 10), partitions, steps and tasks (files 01 and 14), windows (file 04), and host
functions (file 15). -/

namespace Sys2Proof.Machine

/-- What a cache line of a compressed page holds (R292): the segment's 2,048 decoded bytes and its poisoned words, with where it belongs: the
partition whose pool takes its frame, its page's directory, its index and its coding width. -/
structure LineData where
  part  : PartId
  dir   : Nat
  seg   : Nat
  width : Nat
  bytes : List Byte
  bad   : List Nat
  deriving DecidableEq, Repr

/-- A line of a pile cache: set, way, tag, dirty mark and the time of its last use (R292, R293). A line of a compressed page holds its decoded
bytes; the bytes and parity of a plain page's line are those of its physical segment. -/
structure Line where
  set   : Nat
  way   : Nat
  tag   : Nat
  dirty : Bool
  used  : Nat
  data  : Option LineData := none
  deriving DecidableEq, Repr

/-- A fence record: the physical region that the scrubber holds (R301), and the units of pile frames that return when it is released
(R508). -/
structure Fence where
  lo    : Nat
  len   : Nat
  units : Nat
  deriving DecidableEq, Repr

/-- A pile (file 10): training, ready, training failed, its cache and the count of its accesses, fences in use, regions that wait for a fence
record, and the segment the patrol reads next. -/
structure Pile where
  training : Bool
  ready    : Bool
  failed   : Bool
  lines    : List Line
  clock    : Nat
  fences   : List Fence
  waiting  : List Fence
  patrol   : Nat
  deriving DecidableEq, Repr

/-- A pile before training. -/
def Pile.empty : Pile := ⟨false, false, false, [], 0, [], [], 0⟩

/-- Task status in the step builder (R392, R401). -/
inductive TaskSt where
  | waiting | ready | placed | suspended | done | failed
  deriving DecidableEq, Repr

/-- Why a task is suspended: what has to pass before it is ready to resume (R401). -/
inductive SuspCause where
  | priority (p : PartId) (tid : Nat)
  | command
  | eviction (win : Nat)
  deriving DecidableEq, Repr

/-- A state image (R91): the slot's record, its vector registers, the array records, and the context region it lies in. -/
structure Image where
  core   : CoreId
  slot   : Slot
  vregs  : Mem
  recs   : ArrRec
  region : Nat
  deriving DecidableEq, Repr

/-- A task of a step or item (R392, R425). `tid` is the item's number × 2^32 + the task identifier; `more` DEPS
descriptors are still to come; `hurt` is the virtual address from which poison that it read had come, if memory held it (R504). -/
structure Task where
  tid      : Nat
  flags    : Nat
  deps     : List Nat
  cmd      : Nat
  win      : Nat
  due      : Nat
  mb       : Nat
  seed     : Nat
  slots    : Nat
  st       : TaskSt
  crit     : Bool
  started  : Bool
  core     : Option (CoreId × SlotId)
  arena    : Option (CoreId × Nat × Nat)
  fn       : FnId
  ring     : RingId
  stamp    : Nat
  image    : Option Image
  cause    : Option SuspCause
  slice    : Option Nat
  endst    : Option (Nat × Nat)
  more     : Nat
  hurt     : Option Nat
  deriving DecidableEq, Repr

/-- A granted window (R105–R109). -/
inductive WinSt where
  | granted | evicting | evicted | restoring
  deriving DecidableEq, Repr

/-- A window of a job: where it lies, its eviction area (R108), whether it is to be released, where its restore brings it, and the admin
command that waits for its eviction or restore (function and tag). -/
structure Window where
  id      : Nat
  part    : PartId
  core    : CoreId
  base    : Nat
  size    : Nat
  arena   : Bool
  st      : WinSt
  area    : Nat
  release : Bool
  newCore : CoreId
  newBase : Nat
  who     : Option (FnId × Nat)
  strms   : Tab StreamId Stream
  deriving DecidableEq, Repr

/-- Step states (R14, R408). -/
inductive StepSt where
  | opened | forward | backward | drain | commit
  deriving DecidableEq, Repr

/-- The step in flight (R14, R15, R424): its ring, its items when serving, whether its STEP_END has been fetched,
whether its ring was reset before that,
and the checkpoint regenerations it has used (R195, R506). -/
structure StepRec where
  st      : StepSt
  num     : Nat
  fn      : FnId
  ring    : RingId
  ended   : Bool
  cut     : Bool
  regens  : Nat
  items   : List Nat
  deriving DecidableEq, Repr

/-- A serving item (R409): kind, sequence, estimates, its ring, and the tasks still to be fetched. -/
structure Item where
  num   : Nat
  ctx   : Bool
  seq   : Nat
  ops   : Nat
  bytes : Nat
  left  : Nat
  bad   : Bool
  fn    : FnId
  ring  : RingId
  deriving DecidableEq, Repr

/-- An allocation (R311–R313): its first virtual address, bytes, hint word, tier-2 target and offset in it, the frames granted, those of
them that are pool frames, and who holds it: 0 the host's ALLOC, 1 firmware for a job, 2 firmware for the partition's life. -/
structure Alloc where
  va     : Nat
  bytes  : Nat
  hint   : Nat
  target : Nat
  off    : Nat
  frames : List (Nat × Nat)
  pool   : List Nat
  owner  : Nat
  deriving DecidableEq, Repr

/-- A pending STEP_BEGIN (R424): the step waits in the ring until R15 lets it open. -/
structure Begin where
  fn   : FnId
  ring : RingId
  num  : Nat
  deriving DecidableEq, Repr

/-- A partition (R402). `groups` and `exWays` are masks of channel groups and of exclusive ways by pile; `ctx` its context regions;
`frames` its page tables; `fwBase` where firmware's own pages lie; `heads` the rings whose next descriptor is a STEP_BEGIN that waits, and `lastRing`
the one that carried the last step (R424). -/
structure Part where
  alive    : Bool
  expert   : Bool
  serving  : Bool
  arena    : Nat
  groups   : List Nat
  exWays   : List Nat
  shared   : Bool
  ctx      : List Nat
  ctxUsed  : List Nat
  fwBase   : Option Nat
  frames   : List (Nat × Nat)
  allocs   : List Alloc
  running  : Bool
  job      : Nat
  chunk    : Nat
  jobFn    : FnId
  susp     : Bool
  held     : Bool
  gone     : Bool
  begin?   : Option Begin
  heads    : List (FnId × RingId)
  skip     : Option (FnId × RingId)
  step     : Option StepRec
  lastRing : Option (FnId × RingId)
  lastStep : Option Nat
  deriving DecidableEq, Repr

/-- What else a partition holds: the registers latched at OPEN, the tier-2 table copied then and its lost records, the ready
lists, the histogram banks not yet released, the serving items, the number of the partition's last placement, and the governor table with
the cores that have been reset since it was read (R115, R143). -/
structure PartRun where
  latch   : Tab (RegName × Nat) Nat
  pool    : List Nat
  t2      : List (List Byte)
  t2lost  : List Nat
  crit    : List Nat
  defer   : List Nat
  banks   : List Nat
  items   : List Item
  itemNum : Nat
  turn    : Nat
  gov     : List Nat
  govOff  : List Nat
  deriving DecidableEq, Repr

/-- A partition number that no partition bears. -/
def Part.empty : Part :=
  ⟨false, false, false, 0, [], [], false, [], [], none, [], [], false, 0, 0, 0, false, false, false, none, [], none, none, none, none⟩

/-- The run state of a partition that has run nothing. -/
def PartRun.empty : PartRun := ⟨[], [], [], [], [], [], [], [], 0, 0, [], []⟩

/-- Function states in the order of their codes (R446). -/
inductive FnSt where
  | active | orphaned | resetting | disabled
  deriving DecidableEq, Repr

/-- A work ring with its completion ring (R422–R431): previous doorbell, fetched count, completions written and consumed,
entries not yet signalled, stopped by a ring error. -/
structure Ring where
  bell     : Nat
  fetched  : Nat
  written  : Nat
  consumed : Nat
  unsig    : Nat
  stopped  : Bool
  deriving DecidableEq, Repr

/-- A ring with its counts at 0. -/
def Ring.empty : Ring := ⟨0, 0, 0, 0, 0, false⟩

/-- A host function (file 15): state, partition bound, rings, hold queue (order of posting, ring, and entry without phase), admin counts, the
liveness word last sampled and how many samples found it unchanged, and its active features (R467). -/
structure Fn where
  st       : FnSt
  part     : Option PartId
  rings    : Tab RingId Ring
  hold     : List (Nat × RingId × List Byte)
  adb      : Nat
  aDone    : Nat
  aWritten : Nat
  aWait    : List (List Byte)
  live     : Option Nat
  same     : Nat
  full     : Bool
  feat     : Nat
  deriving DecidableEq, Repr

/-- The low feature bits: the base set of every function (R467). -/
def Fn.empty : Fn := ⟨.active, none, [], [], 0, 0, 0, [], none, 0, false, 0⟩

end Sys2Proof.Machine
end

