-- ==== Sys2Proof/Machine/RecX.lean ====
section
/-! DEFINITION. The records of the barrel (file 07), the slices and the escapement (file 09), and the exchange engines (file 13). -/

namespace Sys2Proof.Machine

/-- Barrel entry states in the order of their codes (R198). -/
inductive EntSt where
  | empty | wpool | wspill | held | spilled | absent | freed
  deriving DecidableEq, Repr

/-- A compression frame that stores a segment of a barrel entry (R200, R287): the segment; where the frame begins, an address in the pool's
sectors or an offset in the frames packed for the spill area; and its size in sectors or in bytes. -/
structure EntFrame where
  seg   : Nat
  place : Option Nat
  size  : Nat
  deriving DecidableEq, Repr

/-- An entry of the barrel plan with its state (R196–R199): `res` is what it holds in pool or spill area, reserved or stored; `raw`
the raw bytes written; `segs` the 2 KiB segments written; `writers` the tasks that have written it; `lost` an entry made ABSENT by
the loss of its spill target. `frames` are the frames that store its segments, `fill` the bytes written of
each segment, `recs` where its batch records begin (R380). Of a spilled entry: `base` and `room` its part of the spill area, `sent` the bytes
of packed frames that have left, `tail` those that have not with whether poison is among them, and `closing` whether it closes once its
writes have been accepted. -/
structure Ent where
  va      : Nat
  size    : Nat
  mb      : Nat
  layer   : Nat
  kind    : Nat
  fmt     : Nat
  lossy   : Bool
  part    : Nat
  group   : Nat
  consumer : Nat
  twin    : Nat
  rowlen  : Nat
  st      : EntSt
  res     : Nat
  raw     : Nat
  segs    : List Nat
  writers : List Nat
  lost    : Bool
  frames  : List EntFrame
  fill    : List (Nat × Nat)
  recs    : List Nat
  base    : Option Nat
  room    : Nat
  sent    : Nat
  tail    : List Byte
  tailBad : Bool
  closing : Bool
  deriving DecidableEq, Repr

/-- A re-run request that a sender holds (R213): mb, layer, part, and the channel it came over. -/
structure Rerun where
  mb    : Nat
  layer : Nat
  part  : Nat
  from_ : Nat
  deriving DecidableEq, Repr

/-- A partition's barrel (file 07): the registers as latched at OPEN are with the partition's other latched registers. -/
structure Barrel where
  ents    : List Ent
  pool    : Nat
  spill   : Nat
  lost    : Bool
  unusable : Bool
  spilling : Bool
  active  : Bool
  reruns  : List Rerun
  deriving DecidableEq, Repr

/-- A barrel with no plan. -/
def Barrel.empty : Barrel := ⟨[], 0, 0, false, false, false, false, []⟩

/-- The refresh of a slice's working copy to its replicas (R252): not begun, its sends not all accepted, or one of them lost. -/
inductive RefSt where
  | none | sending | lost
  deriving DecidableEq, Repr

/-- Slice states in the order of their codes (R246). -/
inductive SliceSt where
  | idle | accum | full | updating | done | spoiled
  deriving DecidableEq, Repr

/-- A slice of the slice table (R245) in the open step: started and done bits, the zeroing in progress. -/
structure Slice where
  shard    : Nat
  first    : Nat
  elems    : Nat
  expected : Nat
  core     : Nat
  acc      : Nat
  tag      : Nat
  task     : Nat
  st       : SliceSt
  count    : Nat
  zeroing  : Bool
  ref      : RefSt
  deriving DecidableEq, Repr

/-- A shard of the shard table (R240), as read when the step opened. -/
structure Shard where
  bank0 : Nat
  bank1 : Nat
  elems : Nat
  nrep  : Nat
  rep   : Nat
  refresh : Bool
  kbank0 : Nat
  kbank1 : Nat
  mask  : Nat
  kfmt  : Nat
  deriving DecidableEq, Repr

/-- Escapement states in the order of their codes (R275). -/
inductive EscSt where
  | idle | running | passed | releasing | flipping | discarding | inDoubt
  deriving DecidableEq, Repr

/-- A partition's escapement (R260–R275): table of channels, position, GATHER held (its gen and hops), token created and not consumed, timers, outcomes
of the last two steps, the leader's QUERY unanswered, a RELEASE that cannot reach the deputy, and whether no step has opened since reset. -/
structure Esc where
  st     : EscSt
  gen    : Nat
  step   : Nat
  job    : Nat
  table  : List Nat
  self   : Nat
  hold   : Option (Nat × Nat)
  token  : Bool
  asked  : Bool
  resolv : Bool
  stepA  : Nat
  outA   : Nat
  stepB  : Nat
  outB   : Nat
  relLost : Bool
  fresh  : Bool
  slices : List Slice
  shards : List Shard
  deriving DecidableEq, Repr

/-- An escapement before any step. -/
def Esc.empty : Esc := ⟨.idle, 0, 0, 0, [], 0, none, false, false, false, 0, 0, 0, 0, false, true, [], []⟩

/-- The descriptor of an exchange command (R369). -/
structure XDesc where
  mb      : Nat
  layer   : Nat
  part    : Nat
  flags   : Nat
  k       : Nat
  fmt     : Nat
  dfmt    : Nat
  rowlen  : Nat
  tokens  : Nat
  nexp    : Nat
  nloc    : Nat
  route   : Nat
  src     : Nat
  map     : Nat
  area    : Nat
  ret     : Nat
  stash   : Nat
  senders : Nat
  nsend   : Nat
  rowsX   : Nat
  dst     : Nat
  pass    : Nat
  deriving DecidableEq, Repr

/-- A batch being received from a sender or a destination (R377–R382): counts announced, rows kept per region, start rows, rows bytes
landed so far, begun and complete. -/
structure Batch where
  handle : Nat
  counts : List Nat
  kept   : List Nat
  starts : List Nat
  got    : Nat
  begun  : Bool
  done   : Bool
  deriving DecidableEq, Repr

/-- The kinds of an open round (R366). -/
inductive RoundKind where
  | dispatch | receive | return
  deriving DecidableEq, Repr

/-- An open round of a die's exchange engine (R366): who asked, the descriptor, what arrives (batches), the fill cursors, where a
destination's returned rows begin, the bytes written to its stash entry, its messages on the fabric not yet taken, and whether its
command has completed. -/
structure Round where
  id     : Nat
  kind   : RoundKind
  c      : CoreId
  k      : SlotId
  p      : PartId
  tid    : Nat
  seq    : Nat
  base   : Nat
  size   : Nat
  ctr    : Option Nat
  ctr2   : Option Nat
  job    : Nat
  step   : Nat
  desc   : XDesc
  batches : List Batch
  cursors : List Nat
  offs   : List Nat
  soff   : Nat
  locals : Nat
  cmdDone : Bool
  deriving DecidableEq, Repr

/-- A command that waits in a die's exchange engine (R366). -/
structure XWait where
  c    : CoreId
  k    : SlotId
  p    : PartId
  tid  : Nat
  seq  : Nat
  cmd  : Nat
  deriving DecidableEq, Repr

/-- A die's exchange engine. -/
structure Xch where
  q      : List XWait
  rounds : List Round
  next   : Nat
  deriving DecidableEq, Repr

/-- An exchange engine with nothing open. -/
def Xch.empty : Xch := ⟨[], [], 0⟩

end Sys2Proof.Machine
end

