-- ==== Sys2Proof/Machine/RecSys.lean ====
section
/-! DEFINITION. The records of the module as a whole: power and heat (file 17), firmware (file 16), identity and debug unlock (file
19), strikes and perturbation (file 20), and the contacts and ports (files 15 and 21). -/

namespace Sys2Proof.Machine

/-- Domain states in the order of their codes (R479, R497). -/
inductive DomSt where
  | off | sleep | waking | on
  deriving DecidableEq, Repr

/-- Power and heat (file 17): the 50 domains, core domains that wait to wake (R481), clock-gated cores, input present, power-good, tripped,
shut down by R477 or R556, guard engaged, ticks below 36 V and above 80 A in a row, sensors that read 105 °C or more at the last
sample, BAL's module ratio held under the guard, AON ticks, energy not yet a whole mJ (in W ticks), and a budget cut being applied. -/
structure Pwr where
  doms   : List DomSt
  wakeQ  : List Nat
  gated  : List Nat
  good   : Bool
  trip   : Bool
  shut   : Bool
  guard  : Bool
  lowRun : Nat
  hiRun  : Nat
  hot    : List Bool
  held   : Option Nat
  aon    : Nat
  energy : Nat
  cut    : Bool
  deriving DecidableEq, Repr

/-- After step 3 of R492: always-on, management, fabric and PCIe domains ON, everything else OFF. -/
def Pwr.reset : Pwr :=
  ⟨List.replicate 44 .off ++ [.on, .on, .on, .on, .on, .off], [], [], true, false, false, false, 0, 0,
    List.replicate 24 false, none, 0, 0, false⟩

/-- Processor states in the order of their codes (R473). -/
inductive ProcSt where
  | off | running | restarting | halted
  deriving DecidableEq, Repr

/-- A firmware processor (R450–R463): state, seconds at which it restarted, whether it awaits activation, the running component, and
the mailbox messages delivered to it. -/
structure Proc where
  st      : ProcSt
  times   : List Nat
  pending : Bool
  comp    : List Byte
  inbox   : List (ProcId × List Byte)
  deriving DecidableEq, Repr

/-- A processor that has not been started. -/
def Proc.empty : Proc := ⟨.off, [], false, [], []⟩

/-- A FW_LOAD command being carried out (R465): the function and tag of the command, the processors still to activate, in order, those
activated so far, and whether its completion has been written. -/
structure FwLoad where
  f    : FnId
  tag  : Nat
  act  : List Nat
  done : List Nat
  told : Bool
  deriving DecidableEq, Repr

/-- An SPDM request as SEC answers it (R525): what it asks and the operands that bear on the answer. -/
inductive SpdmReq where
  | version
  | capabilities
  | algorithms (sm2 sm3 : Bool)
  | digests
  | certificate (slot off len : Nat)
  | challenge (slot : Nat) (nonce : List Byte)
  | measurements (index : Nat) (signed : Bool) (nonce : List Byte)
  | other (code : Nat)
  deriving DecidableEq, Repr

/-- What waits for a processor's restart (R460): an SPDM request, a write to one of SEC's registers, a budget from the board management
controller, a change of the log level or of the trace mask, an entry of the log on a pile's error; and a cnt_clear that waits for its block's
domain (R577). -/
inductive Late where
  | spdm (b : Binding) (r : SpdmReq)
  | sec (n : RegName) (f : FnId) (v : Nat)
  | budget (w : Nat)
  | log (n : RegName) (idx v : Nat)
  | note (level : Nat) (p : Option PartId)
  | clear (n : RegName) (unit : Nat)
  deriving DecidableEq, Repr

/-- The firmware (file 16): processors, mailbox queues (R453), the running and the pending bundle (R451), whether the first load's DMA
failed, the FW_LOAD in progress, the next log entry, the cause of a full reset whose notice is pending (R444), what waits for a
processor's restart or for a domain (R460, R577), and the module's ID as a link's training last took it (R361). -/
structure Fw where
  procs   : Tab ProcId Proc
  mail    : Tab (ProcId × ProcId) (List (List Byte))
  running : List Byte
  pend    : List Byte
  dmaErr  : Bool
  load    : Option FwLoad
  logNext : Nat
  notice  : Option Nat
  late    : List Late
  tylId   : Option Nat
  deriving DecidableEq, Repr

/-- Firmware before the first load. -/
def Fw.reset : Fw := ⟨[], [], [], [], false, none, 0, none, [], none⟩

/-- SEC (file 19): the fuses that can still be burned (R522), the challenge that is current (R531), the unlock in effect (scope and
partitions, R532), the measurement blocks that firmware and fuses change (R524), and the bindings whose requester has negotiated
algorithms (R525). -/
structure Sec where
  svn     : Nat
  revoked : Nat
  nonce   : Option (List Byte)
  unlock  : Option (Nat × Nat)
  header  : List Byte
  comps   : List (List Byte)
  conns   : List Binding
  deriving DecidableEq, Repr

/-- SEC of a module whose fuses have not been burned since manufacture. -/
def Sec.reset : Sec := ⟨0, 0, none, none, [], List.replicate 6 [], []⟩

/-- The debug settings of a block (R543–R547): credit delay and withhold, latency stretch, the credit returns delayed and withheld
(kind and index), pending injections with their mode, path and lane, and the words or segments injected and not yet read (with
whether the re-read fails too, and for a pile how many words). -/
structure DbgBlk where
  crd      : Nat
  lat      : Nat
  delayed  : List (Nat × Nat)
  withheld : List (Nat × Nat)
  inj      : Nat
  mode     : Nat
  path     : Nat
  lane     : Nat
  marks    : List (Nat × Bool × Nat)
  deriving DecidableEq, Repr

/-- A block with no debug setting. -/
def DbgBlk.empty : DbgBlk := ⟨0, 0, [], [], 0, 0, 0, 0, []⟩

/-- The state of a PCIe port's link: in reset, up, in L1, or down. -/
inductive PortSt where
  | reset | up | l1 | down
  deriving DecidableEq, Repr

/-- The contacts (file 21): the straps as latched, the ports, the ports whose PERST# is low, VIN_EN_N broken, and the dynamic address
assigned in I3C mode (R567). -/
structure Pins where
  straps : Nat
  ports  : Tab HostPort PortSt
  perst  : List HostPort
  broken : Bool
  dyn    : Option Nat
  deriving DecidableEq, Repr

/-- Contacts after power-up with every strap at 0: I3C, both ports in use. -/
def Pins.reset : Pins := ⟨0, [(.portA, .up), (.portB, .up)], [], false, none⟩

end Sys2Proof.Machine
end

