-- ==== Sys2Proof/Machine/State.lean ====
section
/-! DEFINITION. The state of the module: every register, counter, memory, queue and record that the spec gives it, as plain
data, and the queue of commands that wait. -/

namespace Sys2Proof.Machine

/-- No command of this block stops with a fault: every error the spec describes is an effect on the state (a fault register, an
aborted task, poison, a module error), so there is no fault to raise. -/
inductive Fault
  deriving DecidableEq, Repr

/-- Why a command has no meaning. -/
inductive Refusal where
  /-- A command of the table without a meaning yet; raised by no command of this model (safe: the machine stops). -/
  | notModelled (mnemonic : String)
  deriving DecidableEq, Repr

/-- The byte memories of the module. -/
inductive Region where
  /-- device physical memory, the eight piles (R279) -/ | pile
  /-- a core's scratchpad (R95) -/ | spad (c : CoreId)
  /-- a core's chuck (R132) -/ | chuck (c : CoreId)
  /-- a slot's eight vector registers, v0 at 0 (R121) -/ | vreg (c : CoreId) (k : SlotId)
  /-- a function's admin area (R432) -/ | admin (f : FnId)
  /-- the raw bytes of a barrel entry (R196) -/ | barrel (p : PartId) (e : Nat)
  /-- the log ring (R469) -/ | log
  deriving DecidableEq, Repr

/-- What leaves the module: everything the spec says a host, a peer, the board or the sideband sees. -/
inductive Out where
  | hostWrite (f : FnId) (addr : Nat) (bytes : List Byte) (poisoned : Bool)
  | hostRead (f : FnId) (addr len : Nat)
  | msix (f : FnId) (vector : Nat)
  | regRead (f : FnId) (off : Nat) (value : Nat)
  | dataRead (f : FnId) (bytes : List Byte) (poisoned : Bool)
  | pileData (bytes : List Byte) (bad : List Nat)
  | pileOld (value : Nat)
  | fabric (p : PartId) (bytes : List Byte)
  | delivered (handle : Nat) (ctl tail : Bool) (bytes : List Byte)
  | frame (l : LinkId) (words : List Nat) (bad : List Nat)
  | mctp (b : Binding) (bytes : List Byte)
  | pldmEvent (id : Nat)
  | strikeOut
  | linkDown (port : HostPort)
  | report (p : PartId) (step : Nat) (counters : List (CtrKey × DWord))
  deriving DecidableEq, Repr

/-- What a strike latches (R538–R542): its sequence number and each block's state and counters. -/
structure Snap where
  seq     : Nat
  aon     : Nat
  ctrs    : Tab CtrKey DWord
  slots   : Tab (CoreId × SlotId) Slot
  arrs    : Tab CoreId Arr
  streams : Tab (CoreId × StreamId) Stream
  xchs    : Tab DieId Xch
  piles   : Tab PileId Pile
  links   : Tab LinkId Link
  parts   : Tab PartId Part
  escs    : Tab PartId Esc
  fns     : Tab FnId Fn
  deriving DecidableEq, Repr

/-- The strike (R536–R542): the AON tick of the last strike, which threshold sources have sampled below their threshold, and the
snapshots held. -/
structure Strike where
  tick  : Option Nat
  below : List Bool
  snap  : Option Snap
  deriving DecidableEq, Repr

/-- The module (everything but the queue of waiting commands). -/
structure Dev where
  regs    : Tab RegKey Word
  ctrs    : Tab CtrKey DWord
  latches : Tab FnId (Nat × Word)
  mems    : Tab Region Mem
  bad     : Tab Region (List Nat)
  pmap    : List Nat
  grants  : Tab Nat DWord
  returns : Tab Nat DWord
  freeAt  : Nat
  evs     : Tab (CoreId × PartId × Nat) Nat
  slots   : Tab (CoreId × SlotId) Slot
  arrs    : Tab CoreId Arr
  vecs    : Tab CoreId Eng
  lathes  : Tab CoreId Eng
  strmqs  : Tab CoreId (List Queued)
  ftabs   : Tab (CoreId × Nat) FTab
  streams : Tab (CoreId × StreamId) Stream
  scrubs  : Tab CoreId (List Nat)
  wins    : List Window
  piles   : Tab PileId Pile
  parts   : Tab PartId Part
  runs    : Tab PartId PartRun
  tasks   : Tab (PartId × Nat) Task
  fns     : Tab FnId Fn
  links   : Tab LinkId Link
  asm     : Tab Nat (List Byte)
  chans   : Tab ChanIdx Chan
  chanGen : Tab Nat Nat
  chanNew : Nat
  chanOld : List Nat
  barrels : Tab PartId Barrel
  escs    : Tab PartId Esc
  xchs    : Tab DieId Xch
  snapG   : Tab Nat DWord
  snapR   : Tab Nat DWord
  pwr     : Pwr
  fw      : Fw
  sec     : Sec
  strike  : Strike
  dbg     : Tab Nat DbgBlk
  pins    : Pins
  retired : List Nat
  out     : List Out
  deriving DecidableEq, Repr

/-- The module after reset: step 3 of R492, ROM_WAIT, every register at its reset value (a register that is not listed reads as its
reset value), every memory zero. -/
def Dev.reset : Dev where
  regs := []
  ctrs := []
  latches := []
  mems := []
  bad := []
  pmap := []
  grants := []
  returns := []
  freeAt := 0
  evs := []
  slots := []
  arrs := []
  vecs := []
  lathes := []
  strmqs := []
  ftabs := []
  streams := []
  scrubs := []
  wins := []
  piles := []
  parts := []
  runs := []
  tasks := []
  fns := []
  links := []
  asm := []
  chans := []
  chanGen := []
  chanNew := 0
  chanOld := []
  barrels := []
  escs := []
  xchs := []
  snapG := []
  snapR := []
  pwr := Pwr.reset
  fw := Fw.reset
  sec := Sec.reset
  strike := ⟨none, [false, false, false, false], none⟩
  dbg := []
  pins := Pins.reset
  retired := []
  out := []

/-- What a full reset leaves of a module (R514): fuses, retirement map, straps and contacts, the first module error's record, and the log
ring when the input stayed in range; free values drawn and what has left the module are not the module's state. -/
def Dev.fullReset (d : Dev) (keepLog : Bool) : Dev :=
  { Dev.reset with
    regs := if keepLog then d.regs.filter fun r => r.1.name == .TOP_ERR_FIRST else []
    mems := if keepLog then d.mems.filter fun m => m.1 == .log else []
    freeAt := d.freeAt
    sec := { Sec.reset with
      svn := d.sec.svn
      revoked := d.sec.revoked }
    fw := { Fw.reset with logNext := (if keepLog then d.fw.logNext else 0) }
    pins := { Pins.reset with
      straps := d.pins.straps
      perst := d.pins.perst
      broken := d.pins.broken }
    pwr := { Pwr.reset with aon := d.pwr.aon }
    retired := d.retired
    out := d.out }

/-- The state: the commands that wait, first in, first out, and the module. -/
structure State where
  pending : List Instr
  dev     : Dev
  deriving DecidableEq, Repr

/-- The state right after reset. -/
def State.reset : State := ⟨[], Dev.reset⟩

end Sys2Proof.Machine
end

