-- ==== Sys2Proof/Machine/Prog.lean ====
section
/-! DEFINITION. What a command does, as a program: it looks at the module and applies primitive effects, one after the other.
Every meaning of this model is such a program, so the effects listed here are everything a command can do to the module. -/

namespace Sys2Proof.Machine

/-- The primitive effects. -/
inductive Eff where
  | reg (k : RegKey) (v : Word)
  | ctr (k : CtrKey) (v : DWord)
  | latch (f : FnId) (v : Option (Nat × Word))
  | write (r : Region) (a : Nat) (bytes : List Byte)
  | zero (r : Region) (a n : Nat)
  | drop (r : Region)
  | bad (r : Region) (words : List Nat)
  | pmap (segs : List Nat)
  | grant (cls n : Nat)
  | ret (cls n : Nat)
  | draw
  | ev (c : CoreId) (p : PartId) (i v : Nat)
  | slot (c : CoreId) (k : SlotId) (s : Slot)
  | arr (c : CoreId) (a : Arr)
  | strmq (c : CoreId) (q : List Queued)
  | vec (c : CoreId) (e : Eng)
  | lathe (c : CoreId) (e : Eng)
  | ftab (c : CoreId) (i : Nat) (t : FTab)
  | stream (c : CoreId) (s : StreamId) (x : Option Stream)
  | scrubs (c : CoreId) (slots : List Nat)
  | wins (ws : List Window)
  | pile (p : PileId) (x : Pile)
  | part (p : PartId) (x : Part)
  | run (p : PartId) (x : PartRun)
  | task (p : PartId) (t : Nat) (x : Option Task)
  | fn (f : FnId) (x : Fn)
  | link (l : LinkId) (x : Link)
  | asm (h : Nat) (bs : Option (List Byte))
  | chan (i : ChanIdx) (x : Option Chan)
  | chanGen (i g : Nat)
  | chanList (new : Nat) (old : List Nat)
  | barrel (p : PartId) (x : Barrel)
  | esc (p : PartId) (x : Esc)
  | xch (k : DieId) (x : Xch)
  | auditSnap
  | pwr (x : Pwr)
  | fw (x : Fw)
  | secState (nonce : Option (List Byte)) (unlock : Option (Nat × Nat)) (header : List Byte) (comps : List (List Byte)) (conns : List Binding)
  | burnSvn (n : Nat)
  | burnKey (k : Nat)
  | strike (x : Strike)
  | dbg (block : Nat) (x : DbgBlk)
  | pins (x : Pins)
  | fullReset (keepLog : Bool)
  | wipeFn (f : FnId)
  | retire (c : CoreId)
  | out (o : Out)

/-- The outstanding amount of an audit class: grants less returns (R508). -/
def outstanding (d : Dev) (k : Nat) : Nat := (tabGet d.grants k 0#64).toNat - (tabGet d.returns k 0#64).toNat

/-- One effect applied. A return is applied only while at least that much is outstanding (R510); a fuse only ever gains bits, and the last
key hash slot is never revoked (R522). -/
def Eff.apply (d : Dev) : Eff → Dev
  | .reg k v => { d with regs := tabPut d.regs k v }
  | .ctr k v => { d with ctrs := tabPut d.ctrs k v }
  | .latch f (some v) => { d with latches := tabPut d.latches f v }
  | .latch f none => { d with latches := tabDel d.latches f }
  | .write r a bs => { d with mems := tabPut d.mems r (memPutN (tabGet d.mems r []) a bs) }
  | .zero r a n => { d with mems := tabPut d.mems r (memZero (tabGet d.mems r []) a n) }
  | .drop r => { d with mems := tabDel d.mems r, bad := tabDel d.bad r }
  | .bad r ws => { d with bad := tabPut d.bad r ws }
  | .pmap ss => { d with pmap := ss }
  | .grant k n => { d with grants := tabPut d.grants k (satAdd64 (tabGet d.grants k 0#64) n) }
  | .ret k n => if n ≤ outstanding d k then { d with returns := tabPut d.returns k (satAdd64 (tabGet d.returns k 0#64) n) } else d
  | .draw => { d with freeAt := d.freeAt + 1 }
  | .ev c p i v => { d with evs := tabPut d.evs (c, p, i) v }
  | .slot c k s => { d with slots := tabPut d.slots (c, k) s }
  | .arr c a => { d with arrs := tabPut d.arrs c a }
  | .strmq c q => { d with strmqs := tabPut d.strmqs c q }
  | .vec c e => { d with vecs := tabPut d.vecs c e }
  | .lathe c e => { d with lathes := tabPut d.lathes c e }
  | .ftab c i t => { d with ftabs := tabPut d.ftabs (c, i) t }
  | .stream c s (some x) => { d with streams := tabPut d.streams (c, s) x }
  | .stream c s none => { d with streams := tabDel d.streams (c, s) }
  | .scrubs c ss => { d with scrubs := tabPut d.scrubs c ss }
  | .wins ws => { d with wins := ws }
  | .pile p x => { d with piles := tabPut d.piles p x }
  | .part p x => { d with parts := tabPut d.parts p x }
  | .run p x => { d with runs := tabPut d.runs p x }
  | .task p t (some x) => { d with tasks := tabPut d.tasks (p, t) x }
  | .task p t none => { d with tasks := tabDel d.tasks (p, t) }
  | .fn f x => { d with fns := tabPut d.fns f x }
  | .link l x => { d with links := tabPut d.links l x }
  | .asm h (some bs) => { d with asm := tabPut d.asm h bs }
  | .asm h none => { d with asm := tabDel d.asm h }
  | .chan i (some x) => { d with chans := tabPut d.chans i x }
  | .chan i none => { d with chans := tabDel d.chans i }
  | .chanGen i g => { d with chanGen := tabPut d.chanGen i g }
  | .chanList n o => { d with chanNew := n, chanOld := o }
  | .barrel p x => { d with barrels := tabPut d.barrels p x }
  | .esc p x => { d with escs := tabPut d.escs p x }
  | .xch k x => { d with xchs := tabPut d.xchs k x }
  | .auditSnap => { d with snapG := d.grants, snapR := d.returns }
  | .pwr x => { d with pwr := x }
  | .fw x => { d with fw := x }
  | .secState n u h cs bs => { d with sec := { d.sec with nonce := n, unlock := u, header := h, comps := cs, conns := bs } }
  | .burnSvn n => { d with sec := { d.sec with svn := max d.sec.svn (min n 255) } }
  | .burnKey k =>
    let r := d.sec.revoked ||| 2 ^ (k % 4)
    if r < 15 then { d with sec := { d.sec with revoked := r } } else d
  | .strike x => { d with strike := x }
  | .dbg b x => { d with dbg := tabPut d.dbg b x }
  | .pins x => { d with pins := x }
  | .fullReset k => d.fullReset k
  | .wipeFn f => { d with
      regs := d.regs.filter fun r => !((r.1.name.row.map fun y => y.blk == Blk.fn).getD false && r.1.unit == f.val)
      ctrs := d.ctrs.filter fun r => !((r.1.name.row.map fun y => y.blk == Blk.fn).getD false && r.1.unit == f.val) }
  | .retire c => { d with retired := setIns d.retired c.val }
  | .out o => { d with out := d.out ++ [o] }

/-- A program over the module: done, look at the module and go on, or apply an effect and go on. -/
inductive Prog where
  | done
  | ask (k : Dev → Prog)
  | eff (e : Eff) (k : Prog)

/-- A program run from a state of the module. -/
def Prog.run : Prog → Dev → Dev
  | .done, d => d
  | .ask k, d => (k d).run d
  | .eff e k, d => k.run (e.apply d)

/-- An action: a piece of a program that answers a value. -/
abbrev Act (α : Type) := ContT Prog Id α

/-- Look at the module. -/
def look : Act Dev := fun k => Prog.ask k

/-- Apply an effect. -/
def emit (e : Eff) : Act Unit := fun k => Prog.eff e (k ())

/-- The program of an action. -/
def prog (m : Act Unit) : Prog := m fun _ => .done

/-- The module after an action. -/
def runAct (m : Act Unit) (d : Dev) : Dev := (prog m).run d

/-- Do for every element of a list, in order. -/
def each {α : Type} : List α → (α → Act Unit) → Act Unit
  | [], _ => pure ()
  | x :: xs, f => do f x; each xs f

/-- Do when a condition holds. -/
def onlyIf (b : Bool) (m : Act Unit) : Act Unit := if b then m else pure ()

/-- Do with the value of an option, if there is one. -/
def onSome {α : Type} (o : Option α) (f : α → Act Unit) : Act Unit :=
  match o with
  | none => pure ()
  | some a => f a

/-! Reading the module. -/

/-- A register's stored value. -/
def regOf (d : Dev) (n : RegName) (unit : Nat) (idx : Nat := 0) : Nat :=
  let k : RegKey := ⟨n, unit, idx⟩
  (tabGet d.regs k k.reset).toNat

/-- A counter's value. -/
def ctrOf (d : Dev) (n : CtrName) (unit : Nat) (idx : Nat := 0) : Nat := (tabGet d.ctrs ⟨n, unit, idx⟩ 0#64).toNat

/-- A memory of the module. -/
def memOf (d : Dev) (r : Region) : Mem := tabGet d.mems r []

/-- Bytes of a memory of the module. -/
def bytesOf (d : Dev) (r : Region) (a n : Nat) : List Byte := memGetN (memOf d r) a n

/-- The words of a memory stored with inverted parity (poisoned): word numbers, address / 8 (R102, R297). -/
def badOf (d : Dev) (r : Region) : List Nat := tabGet d.bad r []

/-- The poisoned words that a range of bytes touches. -/
def badIn (d : Dev) (r : Region) (a n : Nat) : List Nat :=
  if n = 0 then [] else (badOf d r).filter fun w => decide (a / 8 ≤ w) && decide (w ≤ (a + n - 1) / 8)

/-- A thread slot. -/
def slotOf (d : Dev) (c : CoreId) (k : SlotId) : Slot := tabGet d.slots (c, k) Slot.empty

/-- The array of a core. -/
def arrOf (d : Dev) (c : CoreId) : Arr := tabGet d.arrs c Arr.empty

/-- The commands that wait in the stream engine's queue of a core (R89). -/
def strmQ (d : Dev) (c : CoreId) : List Queued := tabGet d.strmqs c []

/-- The vector engine of a core. -/
def vecOf (d : Dev) (c : CoreId) : Eng := tabGet d.vecs c Eng.empty

/-- The lathe of a core. -/
def latheOf (d : Dev) (c : CoreId) : Eng := tabGet d.lathes c Eng.empty

/-- A function slot of a core. -/
def ftabOf (d : Dev) (c : CoreId) (i : Nat) : FTab := tabGet d.ftabs (c, i) FTab.empty

/-- A stream of a core, when armed. -/
def streamOf (d : Dev) (c : CoreId) (s : StreamId) : Option Stream := tabFind d.streams (c, s)

/-- An event counter of a partition on a core (R88, R115). -/
def evOf (d : Dev) (c : CoreId) (p : PartId) (i : Nat) : Nat := tabGet d.evs (c, p, i) 0

/-- A pile. -/
def pileOf (d : Dev) (p : PileId) : Pile := tabGet d.piles p Pile.empty

/-- A partition. -/
def partOf (d : Dev) (p : PartId) : Part := tabGet d.parts p Part.empty

/-- A partition's run state. -/
def runOf (d : Dev) (p : PartId) : PartRun := tabGet d.runs p PartRun.empty

/-- A task. -/
def taskOf (d : Dev) (p : PartId) (t : Nat) : Option Task := tabFind d.tasks (p, t)

/-- A function. -/
def fnOf (d : Dev) (f : FnId) : Fn := tabGet d.fns f Fn.empty

/-- A link. -/
def linkOf (d : Dev) (l : LinkId) : Link := tabGet d.links l Link.empty

/-- A channel end, when its index is in use. -/
def chanOf (d : Dev) (i : ChanIdx) : Option Chan := tabFind d.chans i

/-- A partition's barrel. -/
def barrelOf (d : Dev) (p : PartId) : Barrel := tabGet d.barrels p Barrel.empty

/-- A partition's escapement. -/
def escOf (d : Dev) (p : PartId) : Esc := tabGet d.escs p Esc.empty

/-- A processor. -/
def procOf (d : Dev) (i : ProcId) : Proc := tabGet d.fw.procs i Proc.empty

/-- The state of a power domain. -/
def domOf (d : Dev) (i : Nat) : DomSt := d.pwr.doms.getD i .off

/-- The debug settings of a block. -/
def dbgOf (d : Dev) (b : Nat) : DbgBlk := tabGet d.dbg b DbgBlk.empty

/-- A die's exchange engine. -/
def xchOf (d : Dev) (k : DieId) : Xch := tabGet d.xchs k Xch.empty

/-- Every link. -/
def allLinks : List LinkId := List.finRange 64

/-- Every die. -/
def allDies : List DieId := List.finRange 16

/-- Every core. -/
def allCores : List CoreId := List.finRange 800

/-- Every slot of a core. -/
def allSlots : List SlotId := List.finRange 8

/-- Every stream of a core. -/
def allStreams : List StreamId := List.finRange 16

/-- Every partition number. -/
def allParts : List PartId := List.finRange 16

/-- Every function. -/
def allFns : List FnId := List.finRange 16

/-- Every pile. -/
def allPiles : List PileId := List.finRange 8

/-- The cores on which something is recorded. -/
def slotsInUse (d : Dev) : List ((CoreId × SlotId) × Slot) := d.slots.filter fun s => s.2.st ≠ .free

/-! Writing the module. -/

/-- A register set. -/
def setReg (n : RegName) (unit : Nat) (idx : Nat) (v : Nat) : Act Unit := emit (.reg ⟨n, unit, idx⟩ (toWord v))

/-- Bits of a register set. -/
def orReg (n : RegName) (unit : Nat) (idx : Nat) (v : Nat) : Act Unit := do
  let d ← look
  setReg n unit idx (regOf d n unit idx ||| v)

/-- A field of a register replaced. -/
def setField (n : RegName) (unit : Nat) (idx hi lo v : Nat) : Act Unit := do
  let d ← look
  setReg n unit idx (putBits (regOf d n unit idx) hi lo v)

/-- Whether a counter counts: its block's cnt_enable (R78, R118, R145, …). -/
def counting (d : Dev) (n : CtrName) (unit : Nat) : Bool :=
  match n.row.bind (·.ctl) with
  | none => true
  | some r => bitOf (regOf d r (if n.row.map (·.blk) = some .link then unit / 4
      else if n.row.map (·.blk) = some .top ∨ n.row.map (·.blk) = some .pwr then 0 else unit)) 0

/-- A counter counts `n` (R81: it saturates). -/
def count (c : CtrName) (unit : Nat) (n : Nat) (idx : Nat := 0) : Act Unit := do
  let d ← look
  onlyIf (counting d c unit && n != 0) (emit (.ctr ⟨c, unit, idx⟩ (satAdd64 (tabGet d.ctrs ⟨c, unit, idx⟩ 0#64) n)))

/-- A gauge set, whatever cnt_enable is. -/
def gauge (c : CtrName) (unit : Nat) (v : Nat) : Act Unit := emit (.ctr ⟨c, unit, 0⟩ (BitVec.ofNat 64 v))

/-- The next free value (log entry 2). -/
def draw : Act Nat := do
  let d ← look
  emit .draw
  pure (Config.freeValue d.freeAt)

/-- A value the module chooses among candidates and the spec does not say which: the first that fits, searched from a free
starting point (log entry 2). -/
def pick {α : Type} (ok : α → Bool) (xs : List α) : Act (Option α) := do
  let n ← draw
  let k := if xs.isEmpty then 0 else n % xs.length
  pure ((xs.drop k ++ xs.take k).find? ok)

end Sys2Proof.Machine
end

