-- ==== Sys2Proof/Machine/Completion.lean ====
section
/-! DEFINITION. Completion entries and MSI-X signals (R428–R431), admin completions and notices (R432, R434, R436). -/

namespace Sys2Proof.Machine

/-- A ring of a function. -/
def ringOf (d : Dev) (f : FnId) (r : RingId) : Ring := tabGet (fnOf d f).rings r Ring.empty

/-- A ring of a function set. -/
def setRing (f : FnId) (r : RingId) (x : Ring) : Act Unit := do
  let d ← look
  emit (.fn f { fnOf d f with rings := tabPut (fnOf d f).rings r x })

/-- Bits 63:32 and 31:0 of an address register pair (R447). -/
def addrPair (d : Dev) (lo hi : RegName) (unit : Nat) (i : Nat) : Nat := regOf d hi unit i * 2 ^ 32 + regOf d lo unit i

/-- A completion entry without its phase (R428). -/
def entryBytes (id type status detail info : Nat) : List Byte :=
  leBytes 4 id ++ leBytes 1 type ++ leBytes 1 status ++ leBytes 1 detail ++ [0#8] ++ leBytes 8 info

/-- An entry with its phase bit. -/
def withPhase (bs : List Byte) (one : Bool) : List Byte := bs.take 7 ++ [if one then 1#8 else 0#8] ++ bs.drop 8

/-- The signals of a completion ring under moderation: mod_count entries raise the vector (R431). -/
def signal (f : FnId) (r : RingId) : Act Unit := do
  let d ← look
  let x := ringOf d f r
  let ctl := regOf d .HIF_CRING_CTRL f.val r.val
  if bitsOf ctl 21 14 ≤ x.unsig then do
    setRing f r { x with unsig := 0 }
    emit (.out (.msix f (bitsOf ctl 13 8)))
  else pure ()

/-- An entry written into host memory at the ring's next place, its phase inverted on each pass (R428). -/
def writeEntry (f : FnId) (r : RingId) (bs : List Byte) : Act Unit := do
  let d ← look
  let x := ringOf d f r
  let n := bitsOf (regOf d .HIF_CRING_CTRL f.val r.val) 4 0
  let i := x.written % 2 ^ n
  emit (.out (.hostWrite f (addrPair d .HIF_CRING_BASE_LO .HIF_CRING_BASE_HI f.val r.val + 16 * i)
    (withPhase bs (x.written / 2 ^ n % 2 == 0)) false))
  setRing f r { x with written := (x.written + 1) % 2 ^ 32, unsig := x.unsig + 1 }
  count .HIF_CPL_WRITTEN f.val 1
  signal f r

/-- Whether a completion ring has no room (R430). -/
def ringFull (d : Dev) (f : FnId) (r : RingId) : Bool :=
  let x := ringOf d f r
  decide (2 ^ bitsOf (regOf d .HIF_CRING_CTRL f.val r.val) 4 0 ≤ (x.written + 2 ^ 32 - x.consumed) % 2 ^ 32)

/-- The place in the order of posting of the next entry that is held (R440). -/
def nextHeld (d : Dev) : Nat := d.fns.foldl (fun n f => f.2.hold.foldl (fun m h => max m h.1) n) 0 + 1

/-- A completion posted: written, or held while the ring is full, earlier entries of it are held, or the function is orphaned
(R430, R438). Entries of a function being reset or disabled are lost with the job (R441). -/
def post (f : FnId) (r : RingId) (bs : List Byte) : Act Unit := do
  let d ← look
  let x := fnOf d f
  match x.st with
  | .resetting | .disabled => pure ()
  | st =>
    if st = .orphaned ∨ ringFull d f r ∨ x.hold.any (fun h => h.2.1 == r) then do
      emit (.fn f { x with hold := x.hold ++ [(nextHeld d, r, bs)], full := x.full || decide (256 ≤ x.hold.length + 1) })
      count .HIF_CPL_HELD f.val 1
    else writeEntry f r bs

/-- Held entries that now have room are written, in order; fetching resumes below 192 entries (R430). `fuel` bounds the
entries looked at. -/
def drainHold : Nat → FnId → Act Unit
  | 0, _ => pure ()
  | fuel + 1, f => do
    let d ← look
    let x := fnOf d f
    match x.hold.find? (fun h => !ringFull d f h.2.1) with
    | none => pure ()
    | some (n, r, bs) => do
      emit (.fn f { x with hold := x.hold.erase (n, r, bs), full := x.full && decide (192 ≤ x.hold.length - 1) })
      writeEntry f r bs
      drainHold fuel f

/-- The consumed count of admin completions, which the host writes into the admin area (R432). -/
def adminConsumed (d : Dev) (f : FnId) : Nat := leNat (bytesOf d (.admin f) 0x5004 4)

/-- Whether a function's admin completion ring has no room (R432). -/
def adminFull (d : Dev) (f : FnId) : Bool :=
  decide (256 ≤ ((fnOf d f).aWritten + 2 ^ 32 - adminConsumed d f) % 2 ^ 32)

/-- An admin completion or notice written into the admin area (R434), signalled on vector 0 (R431) unless the function's host is gone
(R438); it waits while the ring is full. -/
def adminPost (f : FnId) (bs : List Byte) : Act Unit := do
  let d ← look
  let x := fnOf d f
  if x.st ≠ .active ∧ x.st ≠ .orphaned then pure ()
  else if adminFull d f then emit (.fn f { x with aWait := x.aWait ++ [bs] })
  else do
    let i := x.aWritten % 256
    emit (.write (.admin f) (0x4000 + 16 * i) (withPhase bs (x.aWritten / 256 % 2 == 0)))
    emit (.fn f { x with aWritten := (x.aWritten + 1) % 2 ^ 32 })
    onlyIf (x.st == .active) (emit (.out (.msix f 0)))

/-- The bytes of an admin completion (R434). -/
def adminBytes (tag status detail kind result : Nat) : List Byte :=
  leBytes 4 tag ++ leBytes 1 status ++ leBytes 1 detail ++ leBytes 1 kind ++ [0#8] ++ leBytes 8 result

/-- A notice on a function (R436). -/
def notice (f : FnId) (kind value : Nat) : Act Unit := adminPost f (adminBytes 0 0 kind 1 value)

/-- The functions bound to a partition, in the order of function number. -/
def fnsOf (d : Dev) (p : PartId) : List FnId := allFns.filter fun f => (fnOf d f).part == some p

/-- The physical functions A0 and B0 (R2). -/
def pfs : List FnId := [0, 8]

end Sys2Proof.Machine
end

