-- ==== Sys2Proof/Machine/Errors.lean ====
section
/-! DEFINITION. Strikes (R536–R539), the log (R469, R470), and how errors are signalled (R502, R503, R510, R511). -/

namespace Sys2Proof.Machine

/-- Whether capture is armed and every block can latch (R539): the debug domain is ON. -/
def strikeReady (d : Dev) : Bool := bitOf (regOf d .STRIKE_CTRL 0) 0 && domOf d 49 == .on

/-- The blocks' state as a strike latches it (R538, R541, R542). -/
def snapNow (d : Dev) (seq : Nat) : Snap :=
  ⟨seq, d.pwr.aon, d.ctrs, d.slots, d.arrs, d.streams, d.xchs, d.piles, d.links, d.parts, d.escs, d.fns⟩

/-- The strike output driven for a strike (R536): not for one whose only source is the strike input. -/
def strikeDrive (sources : Nat) : Act Unit := do
  let d ← look
  onlyIf (bitOf (regOf d .STRIKE_CTRL 0) 7 && sources != 0x20) (emit (.out .strikeOut))

/-- A strike raised by a set of sources (R536, R539): within 2 AON ticks of the last it merges with it; otherwise the sequence number
advances, and the blocks latch when they are ready and hold no snapshot. -/
def raiseStrike (sources : Nat) : Act Unit := do
  let d ← look
  let merge := (d.strike.tick.map fun t => decide (d.pwr.aon ≤ t + 2)).getD false
  let old := bitsOf (regOf d .STRIKE_STATUS 0) 15 8
  if merge then do
    setField .STRIKE_STATUS 0 0 15 8 (old ||| sources)
    onlyIf (old == 0x20 && (old ||| sources) != 0x20) (strikeDrive sources)
  else do
    let n := regOf d .STRIKE_SEQ 0
    let seq := if n = 0xFFFFFFFF then 1 else n + 1
    setReg .STRIKE_SEQ 0 0 seq
    setField .STRIKE_STATUS 0 0 15 8 sources
    count .STRIKE_COUNT 0 1
    strikeDrive sources
    let latch := strikeReady d && d.strike.snap.isNone
    let d ← look
    emit (.strike { d.strike with
      tick := some d.pwr.aon
      snap := (if latch then some (snapNow d seq) else d.strike.snap) })
    if latch then setReg .STRIKE_LATCH_SEQ 0 0 seq else count .STRIKE_MISSED 0 1

/-- A log entry as the append unit stores it (R469). -/
def logBytes (n aon proc level point part : Nat) (payload : List Byte) : List Byte :=
  leBytes 8 n ++ leBytes 8 aon ++ leBytes 1 proc ++ leBytes 1 level ++ leBytes 2 point ++ leBytes 2 part ++
    leBytes 2 payload.length ++ padTo 32 0#8 (payload.take 32) ++ leBytes 8 n

/-- The append unit takes an entry (R469, R470, R537): appended when its level or its trace point passes; one whose point is that
of the strike raises it, whatever the trace mask says. Point 0xFFF names none. -/
def logAppend (proc level point : Nat) (p : Option PartId) (payload : List Byte) : Act Unit := do
  let d ← look
  let traced := point != 0xFFF && bitOf (regOf d .FW_TRACE_MASK 0 (point / 32)) (point % 32)
  let pass := if level ≤ 2 then decide (level ≤ bitsOf (regOf d .FW_LOG_CTRL 0) 3 2) || traced else traced
  onlyIf pass do
    let n := d.fw.logNext
    emit (.write .log (n % 65536 * 64) (logBytes n d.pwr.aon proc level point ((p.map fun q => 0x8000 + q.val).getD 0) payload))
    emit (.fw { d.fw with logNext := (n + 1) % 2 ^ 64 })
    count .FW_LOG_APPENDS 0 1
  onlyIf (bitOf (regOf d .STRIKE_CTRL 0) 5 && point != 0xFFF && point == bitsOf (regOf d .STRIKE_TRACE 0) 11 0) (raiseStrike 0x10)

/-- An entry that a processor logs on an event (R470, R502); what its payload holds is not laid down (log entry 26). -/
def logAt (level proc : Nat) (p : Option PartId) : Act Unit := do
  let x ← draw
  logAppend proc level 0xFFF p (leBytes (x % 33) (x / 33))

/-- The same where no rule says which processor logs (log entry 26). -/
def logAny (level : Nat) (p : Option PartId) : Act Unit := do
  let x ← draw
  logAt level (x % 6) p

/-- The same where R470 leaves open whether the level is 0 or 1 (log entry 26). -/
def logEvent (proc : Nat) : Act Unit := do
  let x ← draw
  logAt (x % 2) proc none

/-- What MEM logs of the piles (R297, R502, R603): after its restart while it restarts (R460). -/
def logPile (level : Nat) (p : Option PartId) : Act Unit := do
  let d ← look
  if (procOf d 3).st = .restarting then emit (.fw { d.fw with late := d.fw.late ++ [.note level p] })
  else onlyIf ((procOf d 3).st == .running) (logAt level 3 p)

/-- A corrected error: counted, and shown in TOP_ERR_STATUS (R502). -/
def corrected : Act Unit := do
  orReg .TOP_ERR_STATUS 0 0 1
  count .TOP_ERR_CORRECTED 0 1

/-- A contained error: one task aborted (R502); it raises a strike when TOP_ERR_CTRL says so (R503). -/
def contained (p : Option PartId) : Act Unit := do
  orReg .TOP_ERR_STATUS 0 0 2
  count .TOP_ERR_CONTAINED 0 1
  logAny 1 p
  let d ← look
  onlyIf (bitOf (regOf d .TOP_ERR_CTRL 0) 3) (raiseStrike 0x04)

/-- A module error: fatal, its source recorded when it is the first (R511). -/
def moduleError (source unit : Nat) : Act Unit := do
  let d ← look
  onlyIf (!bitOf (regOf d .TOP_ERR_STATUS 0) 4) (setReg .TOP_ERR_FIRST 0 0 (source * 2 ^ 28 + unit % 1024))
  orReg .TOP_ERR_STATUS 0 0 0x10
  logAny 0 none
  raiseStrike 0x02

/-- Whether a module error stands (R512). -/
def fatal (d : Dev) : Bool := bitOf (regOf d .TOP_ERR_STATUS 0) 4

/-- A grant of an audit class (R508). -/
def grant (cls n : Nat) : Act Unit := onlyIf (n != 0) (emit (.grant cls n))

/-- Work of the step builder, a die scheduler or the escapement engine: where its own state fails its re-read, a module error in place of the
work (R500, R511). -/
def engineState (bad : Bool) (unit : Nat) (work : Act Unit) : Act Unit := if bad then moduleError 3 unit else work

/-- An audit class mismatches, or the storage of its counter fails its re-read: a module error (R11, R510). -/
def auditBad (cls : Nat) : Act Unit := do
  orReg .TOP_AUDIT_STATUS 0 0 (1 + 2 ^ (cls + 1))
  moduleError 1 cls

/-- A return of an audit class. With less outstanding it is not applied: the class mismatches and a module error rises (R510). -/
def giveBack (cls n : Nat) : Act Unit := do
  let d ← look
  if n = 0 then pure ()
  else if n ≤ outstanding d cls then emit (.ret cls n)
  else auditBad cls

/-- A fault register records its first fault: slot and code, unless valid is set (R80, R146, R276). -/
def faultReg (n : RegName) (c : CoreId) (k : SlotId) (code : Nat) : Act Unit := do
  let d ← look
  onlyIf (!bitOf (regOf d n c.val) 15) (setReg n c.val 0 (0x8000 + k.val * 4096 + code))

/-- STRM_FAULT records its first fault with the address of the request (R188). -/
def strmFault (c : CoreId) (k : SlotId) (stream source code addr : Nat) : Act Unit := do
  let d ← look
  onlyIf (!bitOf (regOf d .STRM_FAULT c.val) 15) do
    setReg .STRM_FAULT c.val 0 (0x8000 + k.val * 4096 + stream * 256 + source * 16 + code)
    let a := if code ≤ 5 ∨ code = 9 ∨ code = 10 ∨ code = 12 ∨ code = 13 then 0 else addr
    setReg .STRM_FAULT_ADDR_LO c.val 0 (a % 2 ^ 32 / 8 * 8)
    setReg .STRM_FAULT_ADDR_HI c.val 0 (a / 2 ^ 32 % 65536)

end Sys2Proof.Machine
end

