-- ==== Sys2Proof/Machine/Debug.lean ====
section
/-! DEFINITION. What a debug unlock covers (R532) and what perturbation does inside the blocks (file 20, R543–R548): held credit returns and
injected parity errors. -/

namespace Sys2Proof.Machine

/-- Block numbers (R541). -/
def blockPile (pl : Nat) : Nat := 0x330 + pl
def blockLink (l : Nat) : Nat := 0x338 + l

/-- The partitions of the unlock in effect, when its scope has a bit (R532). -/
def unlockOf (d : Dev) (bit : Nat) : Option Nat := d.sec.unlock.bind fun u => if bitOf u.1 bit then some u.2 else none

/-- The core on which a window is granted: an evicted one is on none, one that is being restored on its new core (R108, R109). -/
def Window.place (w : Window) : Option CoreId :=
  match w.st with
  | .evicted => none
  | .restoring => some w.newCore
  | _ => some w.core

/-- Whether every window and slot in use of a core belongs to partitions of a mask, and there is one (R532). -/
def coreWithin (d : Dev) (c : Nat) (parts : Nat) : Bool :=
  let ws := d.wins.filter fun w => w.place.map (·.val) == some c
  let ss := d.slots.filter fun s => s.1.1.val == c && s.2.st != .free
  !(ws.isEmpty && ss.isEmpty) && ws.all (fun w => bitOf parts w.part.val) && ss.all fun s => bitOf parts s.2.part.val

/-- Whether a block lies within an unlock (R532, R543): module blocks need every partition; a pile's traffic of one partition does not. -/
def inUnlock (d : Dev) (bit block : Nat) : Bool :=
  match unlockOf d bit with
  | none => false
  | some parts => parts == 0xFFFF || (decide (block < 800) && coreWithin d block parts) ||
      (bit == 0 && decide (0x330 ≤ block) && decide (block < 0x338) && parts != 0)

/-- The settings of a block changed. -/
def updDbg (block : Nat) (f : DbgBlk → DbgBlk) : Act Unit := do
  let d ← look
  emit (.dbg block (f (dbgOf d block)))

/-! Credits (R544, R545). -/

/-- Whether a block's credit setting names a kind and index. -/
def DbgBlk.names (b : DbgBlk) (kind index : Nat) : Bool :=
  b.crd != 0 && bitsOf b.crd 31 28 == kind && (kind == 2 || bitsOf b.crd 27 24 == index)

/-- A credit return of a block: withheld, delayed, or made (R544, R545). -/
def creditBack (block kind index : Nat) (give : Act Unit) : Act Unit := do
  let d ← look
  let b := dbgOf d block
  if b.names kind index ∧ b.withheld.length < bitsOf b.crd 23 16 then updDbg block fun x => { x with withheld := x.withheld ++ [(kind, index)] }
  else if b.names kind index ∧ bitsOf b.crd 15 0 ≠ 0 then updDbg block fun x => { x with delayed := x.delayed ++ [(kind, index)] }
  else give

/-- The stream credits of a stream that are held back: so many released chunks cannot yet be fetched into. -/
def heldCredits (d : Dev) (c : CoreId) (s : StreamId) : Nat :=
  let b := dbgOf d c.val
  ((b.withheld ++ b.delayed).filter fun x => x == (1, s.val)).length

/-- Held returns of a block that a condition picks join another handling's return: they are forgotten here (R545). -/
def dropHeld (block : Nat) (pick : Nat × Nat → Bool) : Act Unit := do
  let d ← look
  let b := dbgOf d block
  onlyIf ((b.withheld ++ b.delayed).any pick) (emit (.dbg block { b with
    withheld := b.withheld.filter fun x => !pick x
    delayed := b.delayed.filter fun x => !pick x }))

/-! Parity injections (R547). -/

/-- An injection is pending on a block for a path. -/
def DbgBlk.pends (b : DbgBlk) (path : Nat) : Bool := decide (0 < b.inj) && b.path == path

/-- `n` injections of a block have been made. -/
def injected (block n : Nat) : Act Unit := do
  onlyIf (n != 0) do
    updDbg block fun x => { x with inj := x.inj - n }
    count .DBG_INJ_DONE 0 n

/-- Words that a core writes: fresh parity on those written whole, then the next words of a pending injection (R547). `w0` is the first word
written, `n` how many, `whole` those written whole. -/
def injectWords (c : CoreId) (whole : List Nat) (w0 n : Nat) : Act Unit := do
  let d ← look
  let b := dbgOf d c.val
  onlyIf (!b.marks.isEmpty || b.pends 0) do
    let k := if b.pends 0 then min b.inj n else 0
    updDbg c.val fun x => { x with marks := (x.marks.filter fun m => !whole.contains m.1) ++ (List.range k).map fun i => (w0 + i, b.mode == 1, 1) }
    injected c.val k

/-- The injected errors that a read of a core's words meets, each once: the word, and whether its re-read fails too. -/
def takeWords (c : CoreId) (lo hi : Nat) : Act (List (Nat × Bool)) := do
  let d ← look
  let b := dbgOf d c.val
  let hit := b.marks.filter fun m => decide (lo ≤ m.1) && decide (m.1 < hi)
  onlyIf (!hit.isEmpty) (updDbg c.val fun x => { x with marks := x.marks.filter fun m => !(decide (lo ≤ m.1) && decide (m.1 < hi)) })
  pure (hit.map fun m => (m.1, m.2.1))

/-- A segment that a partition writes on a pile: a pending injection of the pile takes it, when the unlock covers the partition (R543,
R547). -/
def injectSegment (p : PartId) (seg : Nat) (whole : Bool) : Act Unit := do
  let d ← look
  let block := blockPile (seg / 2 ^ 25 % 8)
  let b := dbgOf d block
  let mine := ((unlockOf d 0).map fun parts => bitOf parts p.val).getD false
  onlyIf (whole && b.marks.any fun m => m.1 == seg) (updDbg block fun x => { x with marks := x.marks.filter fun m => m.1 != seg })
  onlyIf (b.pends 1 && mine) do
    updDbg block fun x => { x with marks := (x.marks.filter fun m => m.1 != seg) ++ [(seg, b.mode != 0, if b.mode = 2 then 2 else 1)] }
    injected block 1

/-- The injected error that a read of a segment meets: words that fail, and whether they fail the re-read too. -/
def takeSegment (seg : Nat) : Act (List Nat × List Nat) := do
  let d ← look
  let block := blockPile (seg / 2 ^ 25 % 8)
  match (dbgOf d block).marks.find? fun m => m.1 == seg with
  | none => pure ([], [])
  | some m => do
    updDbg block fun x => { x with marks := x.marks.filter fun y => y.1 != seg }
    pure (List.range m.2.2, if m.2.1 then List.range m.2.2 else [])

/-- Words that a block sends over the fabric to or from a pile: pending injections of the path are re-sent, and counted at the pile (R296,
R547). -/
def injectSend (block : Nat) (pl : PileId) (n : Nat) : Act Unit := do
  let d ← look
  let b := dbgOf d block
  onlyIf (b.pends 3) do
    let k := min b.inj n
    count .PILE_RESEND pl.val k
    each (List.range k) fun _ => corrected
    injected block k

/-- Words that a pile sends over the fabric (R547). -/
def injectFabric (pl : PileId) (n : Nat) : Act Unit := injectSend (blockPile pl.val) pl n

end Sys2Proof.Machine
end

