-- ==== Sys2Proof/Machine/Memory.lean ====
section
/-! DEFINITION. Device memory: page-table walks (R281–R283, R316), the pile cache (R292–R294), plain and compressed segments
(R285–R290, R600), transpose views (R291), poison (R297, R501), fences (R301) and watched segments (R178). -/

namespace Sys2Proof.Machine

/-- Who makes an access, as far as translation and traffic bear on it: by a stream, by an exchange engine or atomic, by the host or
a peer; whether its writes may reach the next view of a generation pair while a step is open (R242); and the die it comes from. -/
structure Acc where
  stream : Bool := false
  inner  : Bool := false
  next   : Bool := false
  die    : Option Nat := none
  deriving DecidableEq, Repr

/-- Where a byte of a virtual address lies. -/
inductive Loc where
  | plain (pa : Nat)
  | comp (dir off width : Nat)
  | view (frame off width : Nat) (comp : Bool)
  | host (f : FnId) (addr : Nat)
  | peer (handle va : Nat)
  | fault (code : Nat)
  deriving DecidableEq, Repr

/-- A partition register as latched when its step opened (R304, R305, R315, R603). -/
def latched (d : Dev) (p : PartId) (n : RegName) (i : Nat := 0) : Nat := tabGet (runOf d p).latch (n, i) 0

/-- The pile of a physical address (R279). -/
def pileOfPa (pa : Nat) : PileId := Fin.ofNat 8 (pa / 2 ^ 36)

/-- Whether a physical range meets a region that a fence holds (R301). -/
def fenced (d : Dev) (pa n : Nat) : Bool :=
  d.piles.any fun x => (x.2.fences ++ x.2.waiting).any fun f => decide (f.lo < pa + n) && decide (pa < f.lo + f.len)

/-- An 8 B entry of a table in device physical memory; none when the word is poisoned (R298). -/
def entryAt (d : Dev) (pa : Nat) : Option Nat :=
  if (badIn d .pile pa 8).isEmpty then some (leNat (bytesOf d .pile pa 8)) else none

/-- A walk's leaf: its entry and level (3 maps 2 MiB, 4 maps 64 KiB), or nothing, with whether it met poison (R281, R298). -/
def walkFrom (d : Dev) (va : Nat) : Nat → Nat → Nat → (Option (Nat × Nat)) × Bool
  | 0, _, _ => (none, false)
  | fuel + 1, level, table =>
    let i := match level with
      | 1 => bitsOf va 47 39
      | 2 => bitsOf va 38 30
      | 3 => bitsOf va 29 21
      | _ => bitsOf va 20 16
    match entryAt d (table + 8 * i) with
    | none => (none, true)
    | some e =>
      if bitOf e 63 = false then (none, false)
      else if bitsOf e 62 60 = 0 then
        (if level < 4 then walkFrom d va fuel (level + 1) (bitsOf e 25 0 * 8192) else (none, false))
      else if level < 3 then (none, false)
      else (some (e, level), false)

/-- The walk of a partition's virtual address from its latched root (R281, R304). -/
def walk (d : Dev) (p : PartId) (va : Nat) : (Option (Nat × Nat)) × Bool :=
  let lo := latched d p .PILE_MMU_ROOT_LO
  if bitOf lo 0 then walkFrom d va 4 1 (bitsOf (latched d p .PILE_MMU_ROOT_HI) 6 0 * 2 ^ 32 + lo / 8192 * 8192) else (none, false)

/-- The physical addresses of the entries that a walk reads (they allocate in the pile cache, R281, R294). -/
def walkPath (d : Dev) (p : PartId) (va : Nat) : List Nat :=
  let lo := latched d p .PILE_MMU_ROOT_LO
  let rec go : Nat → Nat → Nat → List Nat
    | 0, _, _ => []
    | fuel + 1, level, table =>
      let i := match level with
        | 1 => bitsOf va 47 39
        | 2 => bitsOf va 38 30
        | 3 => bitsOf va 29 21
        | _ => bitsOf va 20 16
      let pa := table + 8 * i
      match entryAt d pa with
      | none => [pa]
      | some e => if bitOf e 63 ∧ bitsOf e 62 60 = 0 ∧ level < 4 then pa :: go fuel (level + 1) (bitsOf e 25 0 * 8192) else [pa]
  if bitOf lo 0 then go 4 1 (bitsOf (latched d p .PILE_MMU_ROOT_HI) 6 0 * 2 ^ 32 + lo / 8192 * 8192) else []

/-- Whether a record of the copied tier-2 table is valid: its kind, and a function bound to the partition or a channel (R315); a
lost record is not (R319). `chanOk` tells whether a handle is a channel of the partition with remote memory access. -/
def t2Record (d : Dev) (p : PartId) (chanOk : Nat → Bool) (i : Nat) : Option Loc :=
  let r := runOf d p
  match r.t2[i]? with
  | none => none
  | some bs =>
    let kind := fieldAt bs 0 1
    let f : FnId := Fin.ofNat 16 (fieldAt bs 1 1)
    let base := fieldAt bs 8 8
    if r.t2lost.contains i ∨ fieldAt bs 2 2 ≠ 0 ∨ base % 65536 ≠ 0 then none
    else if kind = 1 ∧ fieldAt bs 1 1 < 16 ∧ (fnOf d f).part = some p then some (.host f base)
    else if kind = 2 ∧ base < 2 ^ 48 ∧ chanOk (fieldAt bs 4 4) then some (.peer (fieldAt bs 4 4) base)
    else none

/-- Where a virtual address of a partition lies for a read or a write, with whether the walk met poison
(R282, R283, R291, R316, R317). `odd` is ESC_GEN's parity, for the generation pairs. -/
def locate (d : Dev) (p : PartId) (odd : Bool) (chanOk : Nat → Bool) (a : Acc) (write : Bool) (va : Nat) : Loc × Bool :=
  match walk d p va with
  | (none, bad) => (.fault 6, bad)
  | (some (e, level), _) =>
    let small := level = 4
    let off := if small then va % 65536 else va % 2097152
    let ty := bitsOf e 62 60
    let comp := bitOf e 57
    let width := bitsOf e 54 53
    let frame := bitsOf e 25 0 * 8192
    let frameB := bitsOf e 51 26 * 8192
    let size := if small then 65536 else 2097152
    let view := bitOf e 55
    let fr := if ty = 2 ∧ (odd != view) then frameB else frame
    let align := if comp then 8192 else size
    let perm : Bool := (write && (!bitOf e 59 || ty == 3)) || (a.stream && !bitOf e 58)
    if 4 < ty ∨ (ty ≠ 4 ∧ bitOf e 52) then (.fault 6, false)
    else if ty = 4 then
      let i := bitsOf e 53 42
      let o := bitsOf e 41 16
      if comp ∨ bitOf e 56 ∨ bitsOf e 55 54 ≠ 0 ∨ bitsOf e 15 0 ≠ 0 ∨ (¬ small ∧ o % 32 ≠ 0) then (.fault 6, false)
      else
        match t2Record d p chanOk i with
        | some (.host f b) => if perm ∨ a.inner then (.fault 7, false) else (.host f (b + o * 65536 + off), false)
        | some (.peer h b) => if perm ∨ a.inner then (.fault 7, false) else (.peer h (b + o * 65536 + off), false)
        | _ => (.fault 6, false)
    else if small ∧ (comp ∨ ty ≠ 1) then (.fault 6, false)
    else if (comp ∧ width = 3) ∨ (ty = 3 ∧ 1 < width) then (.fault 6, false)
    else if fr % align ≠ 0 ∨ (ty = 2 ∧ (frame % align ≠ 0 ∨ frameB % align ≠ 0)) then (.fault 6, false)
    else if perm then (.fault 7, false)
    else if ty = 2 ∧ (partOf d p).step.isSome ∧ (if view then ¬ (write ∧ a.next) else (write : Prop)) then (.fault 7, false)
    else if ¬ comp ∧ fenced d (fr + off) 1 then (.fault 6, false)
    else if ty = 3 then (.view fr off width comp, false)
    else if comp then (.comp fr off width, false)
    else (.plain (fr + off), false)

/-- Whether the entry that maps an address lets its accesses allocate in the pile cache (R282). -/
def cacheable (d : Dev) (p : PartId) (va : Nat) : Bool :=
  match (walk d p va).1 with
  | some (e, _) => bitOf e 56
  | none => false

/-- Traffic of a pile with a die that it does not serve (R309, R325): bytes out of or into its fabric port. -/
def remote (die : Option Nat) (pa n : Nat) (out : Bool) : Act Unit :=
  match die with
  | none => pure ()
  | some k => onlyIf (k / 2 != (pileOfPa pa).val) do
    count (if out then .PILE_REMOTE_OUT else .PILE_REMOTE_IN) (pileOfPa pa).val n
    if out then injectFabric (pileOfPa pa) (ceilDiv n 8) else injectSend (0x320 + k) (pileOfPa pa) (ceilDiv n 8)

/-- A directory entry of a compressed page (R286) with the checks of R600: unwritten, its first sector and sectors, or bad. -/
inductive DirEntry where
  | unwritten
  | frame (addr sectors : Nat)
  | bad
  deriving DecidableEq, Repr

/-- The directory entry at a physical address. -/
def dirEntry (d : Dev) (pa : Nat) : DirEntry :=
  match entryAt d pa with
  | none => .bad
  | some e =>
    if bitOf e 63 = false then .unwritten
    else if bitsOf e 5 0 = 0 ∨ 33 < bitsOf e 5 0 ∨ bitsOf e 62 39 ≠ 0 then .bad
    else .frame (bitsOf e 38 6 * 64) (bitsOf e 5 0)

/-- The line of a pile cache that holds a segment: of a compressed page its tag is the PA of its directory entry, of a plain page that of the
segment (R292). -/
def lineAt (d : Dev) (pa : Nat) (comp : Bool) : Option Line :=
  let tag := if comp then pa else pa / 2048 * 2048
  (pileOf d (pileOfPa pa)).lines.find? fun (l : Line) => l.tag == tag && l.data.isSome == comp

/-- A segment of a compressed page as the DRAM holds it, decoded: its 2,048 bytes, or nothing when it is uncorrectable (R297, R600). -/
def frameSegment (d : Dev) (dir seg : Nat) : Option (List Byte) :=
  match dirEntry d (dir + 8 * seg) with
  | .unwritten => some (List.replicate 2048 0#8)
  | .bad => none
  | .frame a n =>
    if (badIn d .pile a (64 * n)).isEmpty then
      (decodeFrame (64 * n) seg (bytesOf d .pile a (64 * n))).bind fun r => if r.1.length = 2048 then some r.1 else none
    else none

/-- A segment of a compressed page as a reader gets it, with its poisoned words: from its line in the cache, else decoded from the DRAM, wholly
poisoned where it is uncorrectable (R292, R294, R297). -/
def compSegment (d : Dev) (dir seg : Nat) : List Byte × List Nat :=
  match (lineAt d (dir + 8 * seg) true).bind (·.data) with
  | some y => (y.bytes, y.bad)
  | none =>
    match frameSegment d dir seg with
    | some bs => (bs, [])
    | none => (List.replicate 2048 0#8, List.range 256)

/-- Every word number of a read of `n` bytes, relative to its first. -/
def allWords (a n : Nat) : List Nat := List.range ((a + n + 7) / 8 - a / 8)

/-- Words of `n` bytes at physical address `a` that are poisoned, relative to the first word. -/
def relBad (d : Dev) (r : Region) (a n : Nat) : List Nat := (badIn d r a n).map fun w => w - a / 8

/-- Byte `o` of a frame, compressed or plain, and whether its word is poisoned (for transpose views). -/
def frameByte (d : Dev) (frame o : Nat) (comp : Bool) : Byte × Bool :=
  if comp then
    let (bs, bad) := compSegment d frame (o / 2048)
    (bs.getD (o % 2048) 0#8, bad.contains (o % 2048 / 8))
  else ((bytesOf d .pile (frame + o) 1).getD 0 0#8, !(badIn d .pile (frame + o) 1).isEmpty)

/-- The bytes of a tile of a transpose view (R291). -/
def tileBytes (width : Nat) : Nat := if width = 1 then 32768 else 16384

/-- Byte `o` of a transpose view of a frame: the tile transposed (R291). -/
def viewByte (d : Dev) (frame : Nat) (comp : Bool) (width o : Nat) : Byte × Bool :=
  let e := if width = 1 then 2 else 1
  let t := o / tileBytes width
  let i := (o % tileBytes width) / e
  frameByte d frame (t * tileBytes width + ((i % 128) * 128 + i / 128) * e + o % e) comp

/-- The bytes at a location, with the poisoned words relative to the first (R291, R297). The range stays within a segment. -/
def readLoc (d : Dev) (l : Loc) (n : Nat) : List Byte × List Nat :=
  match l with
  | .plain pa => (bytesOf d .pile pa n, relBad d .pile pa n)
  | .comp dir off _ =>
    let (bs, bad) := compSegment d dir (off / 2048)
    let w0 := off % 2048 / 8
    ((bs.drop (off % 2048)).take n, (bad.filter fun w => decide (w0 ≤ w) && decide (8 * w < off % 2048 + n)).map (· - w0))
  | .view frame off width comp =>
    let bs := (List.range n).map fun i => viewByte d frame comp width (off + i)
    (bs.map (·.1), if bs.any (·.2) then allWords off n else [])
  | _ => (List.replicate n 0#8, [])

/-- The first place in a partition's pool, on one pile, with `n` free sectors in a row (R285, R286). -/
def findRun (d : Dev) (p : PartId) (pl : PileId) (n : Nat) : Option Nat :=
  ((runOf d p).pool.filter fun fr => pileOfPa fr == pl).findSome? fun fr =>
    let map := leNat (bytesOf d .pile fr 4096)
    ((List.range (32768 - n + 1)).find? fun i => bitsOf map (i + n - 1) i == 0 && !fenced d (fr + 64 * i) (64 * n)).map fun i => fr + 64 * i

/-- Sectors marked used or free in their pool frame's bitmap (R285). -/
def markSectors (addr n : Nat) (used : Bool) : Act Unit := do
  let d ← look
  let fr := addr / 2097152 * 2097152
  let i := (addr - fr) / 64
  let map := leNat (bytesOf d .pile fr 4096)
  emit (.write .pile fr (leBytes 4096 (putBits map (i + n - 1) i (if used then 2 ^ n - 1 else 0))))
  let free := ctrOf d .PILE_POOL_FREE (pileOfPa fr).val
  gauge .PILE_POOL_FREE (pileOfPa fr).val (if used then free - n else free + n)

/-- Words of a region taken from or added to its poisoned words. -/
def clearBad (r : Region) (a n : Nat) : Act Unit := do
  let d ← look
  let b := badOf d r
  let b' := b.filter fun w => ¬ (a ≤ 8 * w ∧ 8 * w + 8 ≤ a + n)
  onlyIf (b' != b) (emit (.bad r b'))

/-- Words stored with inverted parity (R102, R297). -/
def addBad (r : Region) (ws : List Nat) : Act Unit := do
  let d ← look
  onlyIf (!ws.isEmpty) (emit (.bad r (ws.foldl setIns (badOf d r))))

/-- The numbers of the physical segments of a range. -/
def segNums (pa n : Nat) : List Nat := (List.range ((pa + n + 2047) / 2048 - pa / 2048)).map (· + pa / 2048)

/-- A segment's poison-map bit set (R297), its pile's status bit with it, and the segment counted. -/
def poisonSeg (pa : Nat) : Act Unit := do
  let d ← look
  onlyIf (!d.pmap.contains (pa / 2048)) do
    emit (.pmap (setIns d.pmap (pa / 2048)))
    count .PILE_POISON (pileOfPa pa).val 1
  orReg .PILE_STATUS (pileOfPa pa).val 0 0x1000

/-- Words of a segment that fail their parity at a read, and which of them fail the re-read too (R296, R297): cleared by the re-read, rebuilt
from the row check (word 256), or stored poisoned. A segment whose map bit is set is not re-read. Answers the words delivered poisoned. -/
def segError (pa : Nat) (first reread : List Nat) : Act (List Nat) := do
  let d ← look
  let pl := (pileOfPa pa).val
  let first := (first.filter (· ≤ 256)).dedup
  if d.pmap.contains (pa / 2048) then pure (first.filter (· < 256))
  else do
    let fails := first.filter (reread.contains ·)
    let ok := first.length - fails.length
    count .PILE_REREAD pl ok
    each (List.range ok) fun _ => corrected
    match fails with
    | [] => pure []
    | [_] => do
      count .PILE_RC_FIX pl 1
      corrected
      logPile 2 none
      pure []
    | _ => do
      let ws := fails.filter (· < 256)
      addBad .pile (ws.map (· + pa / 2048 * 256))
      poisonSeg pa
      logPile 1 none
      pure ws

/-- The errors injected into a segment take effect at its next read (R547). -/
def checkSegment (pa : Nat) : Act Unit := do
  let (a, b) ← takeSegment (pa / 2048)
  onlyIf (!a.isEmpty) do
    let _ ← segError pa a b
    pure ()

/-- The physical address of what a read of a location fetches from the DRAM: the frame of a compressed segment, the page itself
otherwise. -/
def Loc.stored (d : Dev) : Loc → Option Nat
  | .plain pa => some pa
  | .view fr off _ _ => some (fr + off)
  | .comp dir off _ =>
    match dirEntry d (dir + 8 * (off / 2048)) with
    | .frame a _ => some a
    | _ => some (dir + 8 * (off / 2048))
  | _ => none

/-- Physical bytes written with fresh parity: whole words lose their poison, a whole segment its map bit (R297, R501). -/
def writePa (pa : Nat) (bs : List Byte) (bad : List Nat) : Act Unit := do
  emit (.write .pile pa bs)
  clearBad .pile pa bs.length
  let d ← look
  onlyIf (pa % 2048 == 0 && bs.length == 2048 && d.pmap.contains (pa / 2048)) (emit (.pmap (d.pmap.filter (· ≠ pa / 2048))))
  addBad .pile (bad.map (· + pa / 8))
  onlyIf (!bad.isEmpty) (poisonSeg pa)

/-- A write into watched segments from the same partition makes their chunks stale (R178). -/
def watchHit (p : PartId) (seg : Nat) : Act Unit := do
  let d ← look
  each d.streams fun ((c, s), x) =>
    onlyIf (x.part == p && x.chunks.any fun k => k.watched.contains seg) do
      emit (.stream c s (some { x with chunks := x.chunks.map fun k => if k.watched.contains seg then { k with stale := true } else k }))
      orReg .STRM_STALE c.val 0 (2 ^ s.val)

/-- A run of sectors rewritten whole: its words lose their poison, and so do the map bits of its segments that hold no other poisoned word
(R297: a compressed rewrite clears them). -/
def clearRun (a n : Nat) : Act Unit := do
  clearBad .pile a (64 * n)
  let d ← look
  let gone := (segNums a (64 * n)).filter fun s => d.pmap.contains s && (badIn d .pile (2048 * s) 2048).isEmpty
  onlyIf (!gone.isEmpty) (emit (.pmap (d.pmap.filter fun s => !gone.contains s)))

/-- A run of sectors stored poisoned (R297, R501). -/
def poisonRun (a n : Nat) : Act Unit := do
  addBad .pile ((List.range (8 * n)).map (· + a / 8))
  each (segNums a (64 * n)) fun s => poisonSeg (2048 * s)

/-- A segment of a compressed page that cannot be decoded is uncorrectable (R297, R600): the map bits of the segments that its frame lies in, or
of its directory entry's. -/
def failSegment (dir seg : Nat) : Act Unit := do
  let d ← look
  onlyIf (frameSegment d dir seg).isNone do
    match dirEntry d (dir + 8 * seg) with
    | .frame a n => each (segNums a (64 * n)) fun s => poisonSeg (2048 * s)
    | _ => poisonSeg (dir + 8 * seg)

/-- An access wakes a pile that sleeps (R479, R482). -/
def wakePile (pl : PileId) : Act Unit := do
  let d ← look
  onlyIf (domOf d (32 + pl.val) == .sleep) (emit (.pwr { d.pwr with doms := d.pwr.doms.set (32 + pl.val) .on }))

/-- An access to a segment that a cache may hold (R292, R294, R306): a hit moves the line to the newest and takes a write's dirty mark and
bytes. Whether it was a hit. -/
def lineHit (pa : Nat) (data : Option LineData) (write : Bool) : Act Bool := do
  let pl := pileOfPa pa
  wakePile pl
  let d ← look
  match lineAt d pa data.isSome with
  | none => do
    count .PILE_CACHE_MISS pl.val 1
    pure false
  | some l => do
    let x := pileOf d pl
    emit (.pile pl { x with
      clock := x.clock + 1
      lines := x.lines.map fun (y : Line) => if y = l then { l with
        used := x.clock
        dirty := l.dirty || write
        data := if write then data else l.data } else y })
    count .PILE_CACHE_HIT pl.val 1
    pure true

/-- A segment of a compressed page encoded and stored: a new run first, then the entry, then the old run freed (R286); with no run nothing is
stored (R290). The entry's own segment is rewritten in the cache where it is present (R294). -/
def storeComp (y : LineData) : Act Bool := do
  let d ← look
  let fr := encodeFrame y.width false y.seg y.bytes
  let n := ceilDiv fr.length 64
  let pl := pileOfPa y.dir
  let ent := y.dir + 8 * y.seg
  match findRun d y.part pl n with
  | none => do
    orReg .PILE_STATUS pl.val 0 0x2000
    pure false
  | some a => do
    markSectors a n true
    emit (.write .pile a (padTo (64 * n) 0#8 fr))
    clearRun a n
    injectSegment y.part (a / 2048) false
    onlyIf (!y.bad.isEmpty) (poisonRun a n)
    let old := dirEntry d ent
    let _ ← lineHit ent none true
    writePa ent (leBytes 8 (2 ^ 63 + a + n)) []
    match old with
    | .frame a' n' => do
      clearRun a' n'
      markSectors a' n' false
    | _ => pure ()
    count .PILE_RAW_BYTES pl.val y.bytes.length
    count .PILE_STORED_BYTES pl.val (64 * n)
    pure true

/-- The way that a miss takes among those of a mask, with the line it replaces: a free one, else the least recently used (R293). -/
def missWay (x : Pile) (set ways : Nat) : Option (Nat × Option Line) :=
  let mine := (List.range 16).filter fun w => bitOf ways w
  let inSet : List Line := x.lines.filter fun (l : Line) => l.set == set
  match mine.find? (fun w => !(inSet.any fun (l : Line) => l.way == w)) with
  | some w => some (w, none)
  | none => ((inSet.filter fun (l : Line) => mine.contains l.way).foldl (fun (b : Option Line) l =>
      match b with
      | none => some l
      | some y => if l.used < y.used then some l else some y) none).map fun l => (l.way, some l)

/-- An access to a segment through its home pile's cache (R292–R294): a hit, or a miss that may allocate in the ways of the partition's mask,
after the dirty line it replaces is stored; a dirty line that finds no run stays, and the miss allocates nothing (log entry 132). Whether a line
holds the segment afterwards. -/
def touch (p : PartId) (pa : Nat) (data : Option LineData) (alloc write : Bool) : Act Bool := do
  let pl := pileOfPa pa
  let n := if data.isSome then pa / 8 else pa / 2048
  if ← lineHit pa data write then pure true
  else do
    let d ← look
    match alloc, missWay (pileOf d pl) (n % 1536) (latched d p .PILE_WAYS pl.val) with
    | true, some (w, old) => do
      let ok ← (match old with
        | some l => if l.dirty then (match l.data with
            | some y => storeComp y
            | none => pure true) else pure true
        | none => pure true)
      onlyIf ok do
        let d ← look
        let x := pileOf d pl
        emit (.pile pl { x with
          clock := x.clock + 1
          lines := (x.lines.filter fun (l : Line) => !(l.set == n % 1536 && l.way == w)) ++
            [⟨n % 1536, w, if data.isSome then pa else pa / 2048 * 2048, write, x.clock, data⟩] })
      pure ok
    | _, _ => pure false

/-- An access to a plain segment, or to a table or directory word in one. -/
def touchPlain (p : PartId) (pa : Nat) (alloc write : Bool) : Act Unit := do
  let _ ← touch p pa none alloc write
  pure ()

/-- A read of a segment of a compressed page (R292, R294, R297, R600): a miss reads its directory entry and its frame, and may allocate a line. -/
def readComp (p : PartId) (dir seg width : Nat) (alloc : Bool) : Act Unit := do
  let ent := dir + 8 * seg
  let d ← look
  onlyIf (lineAt d ent true).isNone do
    touchPlain p ent true false
    match dirEntry d ent with
    | .frame a n => each (segNums a (64 * n)) fun s => checkSegment (2048 * s)
    | _ => checkSegment ent
    failSegment dir seg
  let d ← look
  let (bs, bad) := compSegment d dir seg
  let _ ← touch p ent (some ⟨p, dir, seg, width, bs, bad⟩) alloc false
  pure ()

/-- The walk of an address reads its tables through the cache (R281, R294); poison met sets PILE_STATUS.poison (R298). -/
def walkTouch (p : PartId) (va : Nat) : Act Unit := do
  let d ← look
  each (walkPath d p va) fun pa => do
    touchPlain p pa true false
    onlyIf (entryAt d pa).isNone (orReg .PILE_STATUS (pileOfPa pa).val 0 0x1000)

/-- Bytes written into a segment: the bytes, and its poisoned words: those that the write does not cover whole, and those it brings (R289,
R297, R501). -/
def mergeSeg (old : List Byte × List Nat) (off : Nat) (bs : List Byte) (bad : List Nat) : List Byte × List Nat :=
  (old.1.take off ++ bs ++ old.1.drop (off + bs.length),
    ((bad.map (· + off / 8)).foldl setIns (old.2.filter fun w => !(decide (off ≤ 8 * w) && decide (8 * w + 8 ≤ off + bs.length)))))

/-- A write of bytes of a segment of a compressed page (R286, R289, R290, R294): merged with the decoded segment and left in its line, or stored
at once where no line holds it. It is refused when the pool has no run for its frame. -/
def writeComp (p : PartId) (dir off width : Nat) (alloc : Bool) (bs : List Byte) (bad : List Nat) : Act Bool := do
  let seg := off / 2048
  let pl := pileOfPa dir
  onlyIf (bs.length != 2048) do
    readComp p dir seg width alloc
    count .PILE_RMW pl.val 1
  let d ← look
  onlyIf (bs.length == 2048 && (lineAt d (dir + 8 * seg) true).isNone) (touchPlain p (dir + 8 * seg) true false)
  let d ← look
  let (new, hurt) := mergeSeg (compSegment d dir seg) (off % 2048) bs bad
  if (findRun d p pl (ceilDiv (encodeFrame width false seg new).length 64)).isNone then do
    orReg .PILE_STATUS pl.val 0 0x2000
    pure false
  else do
    watchHit p (2 ^ 40 + dir + 8 * seg)
    let y : LineData := ⟨p, dir, seg, width, new, hurt⟩
    if ← touch p (dir + 8 * seg) (some y) alloc true then pure true else storeComp y

/-- Bytes written at a location within one segment; `bad` names poisoned words relative to the first. False: the write was refused
for want of pool (R290). -/
def writeLoc (p : PartId) (l : Loc) (alloc : Bool) (bs : List Byte) (bad : List Nat) : Act Bool := do
  match l with
  | .plain pa => do
    touchPlain p pa alloc true
    writePa pa bs bad
    injectSegment p (pa / 2048) (bs.length == 2048)
    watchHit p (pa / 2048)
    pure true
  | .comp dir off width => writeComp p dir off width alloc bs bad
  | _ => pure true

/-- A read of a tile of a transpose view reaches every segment of the tile (R291). -/
def touchTile (p : PartId) (fr off width : Nat) (comp alloc : Bool) : Act Unit :=
  let o := off / tileBytes width * tileBytes width
  each (List.range (tileBytes width / 2048)) fun i =>
    if comp then readComp p fr (o / 2048 + i) 0 alloc
    else do
      touchPlain p (fr + o + 2048 * i) alloc false
      checkSegment (fr + o + 2048 * i)

/-- The parts of a range that lie within 2 KiB segments: offset in the range, address, bytes. -/
def segParts : Nat → Nat → Nat → Nat → List (Nat × Nat × Nat)
  | 0, _, _, _ => []
  | fuel + 1, o, va, n =>
    if n = 0 then []
    else
      let k := min n (2048 - va % 2048)
      (o, va, k) :: segParts fuel (o + k) (va + k) (n - k)

/-- The segments of a range of virtual addresses. -/
def segsOf (va n : Nat) : List (Nat × Nat × Nat) := segParts (n / 2048 + 2) 0 va n

/-- What is fixed outside this file about a partition's accesses: the parity of its generation and which handles are channels with
remote memory access (R282, R315). -/
structure Env where
  odd    : Bool
  chanOk : Nat → Bool

/-- Bytes read from a partition's virtual addresses in tier 1: the bytes and the poisoned words, or a fault code and its address. -/
def vaRead (env : Env) (p : PartId) (a : Acc) (va n : Nat) : Act (Except (Nat × Nat) (List Byte × List Nat)) := do
  let rec go : List (Nat × Nat × Nat) → List Byte → List Nat → Act (Except (Nat × Nat) (List Byte × List Nat))
    | [], bs, bad => pure (.ok (bs, bad))
    | (o, v, k) :: rest, bs, bad => do
      walkTouch p v
      let d ← look
      match (locate d p env.odd env.chanOk a false v).1 with
      | .fault code => pure (.error (code, v))
      | .host _ _ | .peer _ _ => pure (.error (7, v))
      | l => do
        let al := cacheable d p v
        match l with
        | .plain pa => do
          touchPlain p pa al false
          remote a.die pa k true
          checkSegment pa
        | .comp dir off w => do
          readComp p dir (off / 2048) w al
          remote a.die dir k true
        | .view fr off w comp => do
          touchTile p fr off w comp al
          remote a.die fr k true
        | _ => pure ()
        let d ← look
        let (b, w) := readLoc d l k
        go rest (bs ++ b) (bad ++ w.map (· + (v / 8 - (v - o) / 8)))
  go (segsOf va n) [] []

/-- Bytes written to a partition's virtual addresses in tier 1: done, or the code and address of the first part that faulted;
the parts before it stand (R175). -/
def vaWrite (env : Env) (p : PartId) (a : Acc) (va : Nat) (bs : List Byte) (bad : List Nat) : Act (Except (Nat × Nat) Unit) := do
  let rec go : List (Nat × Nat × Nat) → Act (Except (Nat × Nat) Unit)
    | [] => pure (.ok ())
    | (o, v, k) :: rest => do
      walkTouch p v
      let d ← look
      match (locate d p env.odd env.chanOk a true v).1 with
      | .fault code => pure (.error (code, v))
      | .host _ _ | .peer _ _ => pure (.error (7, v))
      | l => do
        match l with
        | .plain pa => remote a.die pa k false
        | .comp dir _ _ => remote a.die dir k false
        | _ => pure ()
        let w0 := v / 8 - va / 8
        let ok ← writeLoc p l (cacheable d p v) ((bs.drop o).take k)
          ((bad.filter fun w => w0 ≤ w ∧ w ≤ w0 + (v % 8 + k - 1) / 8).map (· - w0))
        if ok then go rest else pure (.error (7, v))
  go (segsOf va bs.length)

/-- A word read for a table in a partition's memory (governor, plan, slice, shard records): none when it cannot be read. -/
def vaBytes (env : Env) (p : PartId) (va n : Nat) : Act (Option (List Byte)) := do
  match ← vaRead env p {} va n with
  | .ok (bs, []) => pure (some bs)
  | _ => pure none

end Sys2Proof.Machine
end

