-- ==== Sys2Proof/Machine/StreamOps.lean ====
section
/-! DEFINITION. What every user of a stream shares: the extent and its chunks (R155, R167), releases (R162), the end of a
stream (R171, R172), event counters (R88), and commands that complete (R88, R91). -/

namespace Sys2Proof.Machine

/-- Whether a task has ended. -/
def Task.over (t : Task) : Bool := t.st == .done || t.st == .failed

/-- Bytes of the armed extent (R155). -/
def StreamDesc.total (x : StreamDesc) : Nat := x.run * x.n1 * x.n2 * x.n3

/-- Chunks of the armed extent (R155). -/
def StreamDesc.chunks (x : StreamDesc) : Nat := if x.csize = 0 then 0 else ceilDiv x.total x.csize

/-- Bytes of chunk `j`: the last can be short (R155). -/
def StreamDesc.chunkLen (x : StreamDesc) (j : Nat) : Nat := min x.csize (x.total - j * x.csize)

/-- The fields of the control word (R154). -/
def StreamDesc.drain (x : StreamDesc) : Bool := bitOf x.ctl 16
def StreamDesc.port (x : StreamDesc) : Nat := bitsOf x.ctl 11 9
def StreamDesc.byCounter (x : StreamDesc) : Bool := bitOf x.ctl 25
def StreamDesc.relCtr (x : StreamDesc) : Nat := bitsOf x.ctl 30 26
def StreamDesc.persist (x : StreamDesc) : Bool := bitOf x.ctl 24
def StreamDesc.watch (x : StreamDesc) : Nat := bitsOf x.ctl 23 22
def StreamDesc.transpose (x : StreamDesc) : Bool := bitOf x.ctl 18
def StreamDesc.tbytes (x : StreamDesc) : Nat := 2 ^ bitsOf x.ctl 20 19
/-- Strip height in rows (R154, R167). -/
def StreamDesc.strip (x : StreamDesc) : Nat := (bitsOf x.ctl 15 12 + 1) * 32
/-- Elements of one run (R167). -/
def StreamDesc.elems (x : StreamDesc) : Nat := x.run / x.tbytes
/-- Bytes of a strip (R168). -/
def StreamDesc.stripBytes (x : StreamDesc) : Nat := x.elems * x.strip * x.tbytes
/-- Bytes of the ring. -/
def StreamDesc.ringBytes (x : StreamDesc) : Nat := x.csize * x.ccount

/-- The virtual address of byte `i` of the pattern, before any transposition (R155). -/
def StreamDesc.patternVa (x : StreamDesc) (i : Nat) : Nat :=
  let row := i / x.run
  let i1 := row % x.n1
  let i2 := row / x.n1 % x.n2
  let i3 := row / x.n1 / x.n2
  (((x.base : Int) + (i3 : Int) * x.s3 + (i2 : Int) * x.s2 + (i1 : Int) * x.s1) % (2 ^ 48 : Nat)).toNat + i % x.run

/-- Runs of the pattern bytes `lo`–`hi - 1`: address, bytes, and place in the range; `fuel` bounds the runs. -/
def patternRuns (x : StreamDesc) : Nat → Nat → Nat → Nat → List (Nat × Nat × Nat)
  | 0, _, _, _ => []
  | fuel + 1, lo, hi, at_ =>
    if hi ≤ lo then []
    else
      let k := min (hi - lo) (x.run - lo % x.run)
      (x.patternVa lo, k, at_) :: patternRuns x fuel (lo + k) hi (at_ + k)

/-- The bytes of chunk `j` as contiguous virtual ranges with where they stand in the chunk: for a plain stream the runs of
its bytes; for a transposing stream, of each source row of its strip, the elements whose landed rows the chunk holds (R167). -/
def chunkRuns (x : StreamDesc) (j : Nat) : List Span :=
  let lo := j * x.csize
  let len := x.chunkLen j
  if x.transpose then
    let sb := x.stripBytes
    let g := lo / sb
    let o := lo % sb
    let h := x.strip
    let t := x.tbytes
    (List.range h).filterMap fun i =>
      -- element r of source row i stands at strip offset (r * h + i) * t
      let rs := (List.range x.elems).filter fun r => decide (o ≤ (r * h + i) * t) && decide ((r * h + i) * t < o + len)
      match rs.head? with
      | none => none
      | some r0 => some ⟨x.patternVa ((g * h + i) * x.run + r0 * t), t, rs.length, (r0 * h + i) * t - o, h * t⟩
  else
    (patternRuns x (len / 8 + 1) lo (lo + len) 0).map fun (va, k, a) => ⟨va, k, 1, a, 0⟩

/-- The bytes of a span. -/
def Span.len (q : Span) : Nat := q.elt * q.n

/-- The part of a span from byte `o`, of `k` bytes. -/
def Span.part (q : Span) (o k : Nat) : Span :=
  if q.n = 1 then { q with va := q.va + o, elt := k, dst := q.dst + o }
  else { q with va := q.va + o, n := k / q.elt, dst := q.dst + o / q.elt * q.step }

/-- A span cut at multiples of `unit` bytes of a position that runs with its bytes: `start` is the first byte's. -/
def cutSpan (unit start : Nat) (q : Span) : List Span :=
  let rec go : Nat → Nat → List Span
    | 0, _ => []
    | fuel + 1, o =>
      if q.len ≤ o then []
      else
        let k := min (q.len - o) (unit - (start + o) % unit)
        q.part o k :: go fuel (o + k)
  go (q.len / unit + 2) 0

/-- The first address of a piece, and its bytes. -/
def Piece.va (q : Piece) : Nat := (q.spans.head?.map (·.va)).getD 0
def Piece.len (q : Piece) : Nat := (q.spans.map Span.len).foldl (· + ·) 0

/-- The chunk of an armed stream with a record. -/
def chunkOf (x : Stream) (j : Nat) : Option Chunk := x.chunks.find? fun k => k.j == j

/-- A chunk's record replaced. -/
def setChunk (x : Stream) (k : Chunk) : Stream :=
  { x with chunks := if x.chunks.any (fun y => y.j == k.j) then x.chunks.map fun y => if y.j = k.j then k else y else x.chunks ++ [k] }

/-- A stream set. -/
def setStream (c : CoreId) (s : StreamId) (x : Stream) : Act Unit := emit (.stream c s (some x))

/-- The task's command `seq` has completed: it leaves the slot's outstanding commands, wherever the task now is (R88, R91). -/
def completeIn (x : Slot) (seq : Nat) : Slot := { x with busy := x.busy.filter (· ≠ seq) }

/-- Whether a landing stream's extent is done, or a drain's (R165). -/
def Stream.extentDone (x : Stream) : Bool := decide (x.desc.chunks ≤ x.acc)

/-- An event counter's new value (R88), with the waits it ends (R94) and the chunks it releases (R162); the releases themselves
are made by `releaseUpTo`. -/
def releaseUpTo (c : CoreId) (s : StreamId) (n : Nat) (who : PartId × Nat) : Act Unit := do
  let d ← look
  onSome (streamOf d c s) fun x => do
    let n := min n x.desc.chunks
    if n ≤ x.rel then pure ()
    else if x.desc.drain then
      let fresh := (List.range n).filter fun j => decide (x.rel ≤ j)
      setStream c s { x with
        rel := n, relBy := who, moved := x.moved + 1,
        chunks := x.chunks ++ fresh.map fun j => ⟨j, .released, [], 0, 0, false, [], [], some who⟩ }
    else do
      let gone := x.chunks.filter fun k => decide (k.j < n)
      let flts := (gone.filter fun k => k.st == .faulted && decide (x.rel ≤ k.j)).length
      count .STRM_FAULT_DISCARD c.val flts
      let gone (k : Chunk) : Bool := decide (k.j < n) && k.left.isEmpty && (k.st == .full || k.st == .faulted || k.st == .raised)
      setStream c s { x with
        rel := n
        moved := x.moved + 1
        chunks := (x.chunks.filter fun k => !gone k).map fun k => if k.j < n then { k with
          watched := []
          st := (if k.st = .faulted then .raised else k.st) } else k }
      each (List.range (n - x.rel)) fun _ => creditBack c.val 1 s.val (pure ())

/-- Whether a counter may release chunks of a stream (R162): not of one that ends (R171, R172), and not of a suspended task's (R182). -/
def counterReleases (d : Dev) (x : Stream) : Bool :=
  x.desc.byCounter && (x.desc.persist || (((taskOf d x.part x.tid).bind (·.image)).isNone)) &&
    (match x.mode with
    | .run | .rearm _ _ _ _ => true
    | _ => false)

/-- An event counter of a partition on a core set by a task (R88): slots that wait for it become READY, and streams of the partition
under counter release release their chunks (R162). -/
def setEvent (c : CoreId) (p : PartId) (i v : Nat) (who : PartId × Nat) : Act Unit := do
  let v := min v 0xFFFF
  emit (.ev c p i v)
  let d ← look
  each allSlots fun k => do
    let x := slotOf d c k
    match x.st, x.wait with
    | .waiting, some (.counter ctr thr) =>
      onlyIf (x.part == p && ctr == i && decide (thr ≤ v)) (emit (.slot c k { x with st := .ready, wait := none }))
    | _, _ => pure ()
  each allStreams fun s => do
    let d ← look
    onSome (streamOf d c s) fun x =>
      onlyIf (x.part == p && counterReleases d x && x.desc.relCtr == i) (releaseUpTo c s (v - x.v) who)

/-- An event counter advanced by one for a task's command (R88). -/
def bumpEvent (c : CoreId) (who : PartId × Nat) (i : Nat) : Act Unit := do
  let d ← look
  setEvent c who.1 i (evOf d c who.1 i + 1) who

/-- A suspended task's streams catch up with their counters when it resumes (R182). -/
def resumeReleases (c : CoreId) (p : PartId) (tid : Nat) : Act Unit :=
  each allStreams fun s => do
    let d ← look
    onSome (streamOf d c s) fun x =>
      onlyIf (x.part == p && x.tid == tid && counterReleases d x) (releaseUpTo c s (evOf d c p x.desc.relCtr - x.v) (p, tid))

/-- SIGNALs of a slot whose earlier commands have all completed are applied, in order (R88); `fuel` bounds them. -/
def applySignals : Nat → CoreId → SlotId → Act Unit
  | 0, _, _ => pure ()
  | fuel + 1, c, k => do
    let d ← look
    let x := slotOf d c k
    match x.sigs with
    | [] => pure ()
    | g :: rest =>
      if x.busy.any (fun q => decide (q < g.seq)) then pure ()
      else do
        emit (.slot c k { x with sigs := rest })
        setEvent c x.part g.ctr (if g.set then g.value else evOf d c x.part g.ctr + g.value) (x.part, x.tid)
        applySignals fuel c k

/-- Whether a slot's every earlier command has completed, its SIGNALs applied (R88). -/
def Slot.idle (x : Slot) : Bool := x.busy.isEmpty && x.sigs.isEmpty

/-- A slot looked at again after one of its commands completed: SIGNALs apply, and a FENCE ends (R88, R94). -/
def slotProgress (c : CoreId) (k : SlotId) : Act Unit := do
  let d ← look
  applySignals ((slotOf d c k).sigs.length + 1) c k
  let d ← look
  let x := slotOf d c k
  onlyIf (x.st == .waiting && x.wait == some .fence && x.idle) (emit (.slot c k { x with st := .ready, wait := none }))

/-- SIGNALs of a suspended task whose earlier commands have all completed are applied (R88, R91); `fuel` bounds them. -/
def imageSignals : Nat → PartId → Nat → Act Unit
  | 0, _, _ => pure ()
  | fuel + 1, p, tid => do
    let d ← look
    onSome (taskOf d p tid) fun t => onSome t.image fun im =>
      match im.slot.sigs with
      | [] => pure ()
      | g :: rest =>
        if im.slot.busy.any (fun q => decide (q < g.seq)) then pure ()
        else do
          emit (.task p tid (some { t with image := some { im with slot := { im.slot with sigs := rest } } }))
          setEvent im.core p g.ctr (if g.set then g.value else evOf d im.core p g.ctr + g.value) (p, tid)
          imageSignals fuel p tid

/-- A command of a task completed: it leaves the task's outstanding commands, in its slot or in its state image (R88, R91). -/
def completeCmd (p : PartId) (tid seq : Nat) : Act Unit := do
  let d ← look
  onSome (taskOf d p tid) fun t =>
    match t.core, t.image with
    | some (c, k), _ =>
      let x := slotOf d c k
      onlyIf (x.part == p && x.tid == tid) do
        emit (.slot c k (completeIn x seq))
        slotProgress c k
    | none, some im => do
      emit (.task p tid (some { t with image := some { im with slot := completeIn im.slot seq } }))
      imageSignals (im.slot.sigs.length + 1) p tid
    | none, none => pure ()

/-- A run of arena slots that a cancelled stream held returns with the task's last such stream (R172). -/
def passArena (c : CoreId) (x : Stream) : Act Unit := do
  let d ← look
  onSome x.arena fun a =>
    match allStreams.find? fun t => ((streamOf d c t).map fun y => y.part == x.part && y.tid == x.tid && !y.desc.persist).getD false with
    | some t => onSome (streamOf d c t) fun y => setStream c t { y with arena := some a }
    | none => giveBack 3 a.2.2

/-- A stream ends: its credits return once, and the commands that wait for it complete (R158, R171, R172). -/
def unarm (c : CoreId) (s : StreamId) : Act Unit := do
  let d ← look
  onSome (streamOf d c s) fun x => do
    emit (.stream c s none)
    dropHeld c.val fun h => h == (1, s.val)
    giveBack 0 x.desc.ccount
    passArena c x
    match x.mode with
    | .finish (some (tid, seq)) => completeCmd x.part tid seq
    | .cancel ws => each ws fun w => completeCmd x.part w.1 w.2
    | _ => pure ()

/-- Pieces of a stream that have issued and not landed or been accepted. -/
def Stream.flying (x : Stream) : Bool := x.chunks.any fun k => !k.left.isEmpty

/-- Whether the barrel manager holds a read of an address: its entry is open (R202). -/
def heldRead (d : Dev) (p : PartId) (q : Piece) : Bool :=
  q.tier == 3 && (barrelOf d p).ents.any fun e =>
    decide (e.va ≤ q.va) && decide (q.va < e.va + e.size) && (e.st == .wpool || e.st == .wspill)

/-- A stream is cancelled (R172): no more issues, unissued released chunks and faults are discarded, reads that the barrel holds are
withdrawn, what flies lands or is accepted, and then the credits return. `who` is the SDISARM that waits for it. -/
def cancelStream (c : CoreId) (s : StreamId) (who : Option (Nat × Nat)) : Act Unit := do
  let d ← look
  onSome (streamOf d c s) fun x => do
    count .STRM_FAULT_DISCARD c.val (x.chunks.filter fun k => k.st == .faulted && decide (x.rel ≤ k.j)).length
    let busy := x.chunks.filter fun k => k.st == .fetching || k.st == .draining || !k.left.isEmpty
    let gone := ((busy.flatMap fun (k : Chunk) => k.left).filter (heldRead d x.part)).length
    let x' := { x with
      mode := .cancel ((match x.mode with
        | .cancel ws => ws
        | .finish (some w) => [w]
        | _ => []) ++ who.toList),
      chunks := (busy.map fun (k : Chunk) => { k with left := k.left.filter fun q => !heldRead d x.part q }).filter fun (k : Chunk) => !k.left.isEmpty }
    setStream c s x'
    giveBack 1 gone
    match x.mode with
    | .rearm _ _ tid seq => completeCmd x.part tid seq
    | _ => pure ()
    onlyIf (!x'.flying) (unarm c s)

/-- The ring slots that a physical range touches, each with the first byte of the slot that it touches. -/
def ringParts (x : Stream) (a n : Nat) : List (Nat × Nat) :=
  let lo := max a x.desc.ring
  let hi := min (a + n) (x.desc.ring + x.desc.ringBytes)
  if hi ≤ lo ∨ n = 0 ∨ x.desc.csize = 0 then []
  else
    let f := (lo - x.desc.ring) / x.desc.csize
    (List.range ((hi - 1 - x.desc.ring) / x.desc.csize - f + 1)).map fun i =>
      (f + i, if i = 0 then (lo - x.desc.ring) % x.desc.csize else 0)

/-- The ring slots that a physical range touches. -/
def ringSlots (x : Stream) (a n : Nat) : List Nat := (ringParts x a n).map (·.1)

/-- The chunk that stands in a ring slot of a landing stream: the first of the slot not yet released (R160–R163). -/
def landingChunk (x : Stream) (slot : Nat) : Nat :=
  if x.desc.ccount = 0 then slot else slot + (ceilDiv (x.rel - slot) x.desc.ccount) * x.desc.ccount

/-- The chunk that stands in a ring slot of a drain stream: the first of the slot not yet accepted (R164). -/
def drainChunk (x : Stream) (slot : Nat) : Nat :=
  if x.desc.ccount = 0 then slot
  else
    let cand := (List.range (x.desc.chunks / x.desc.ccount + 2)).map fun i => slot + i * x.desc.ccount
    (cand.find? fun j => !(decide (j < x.next) && (chunkOf x j).isNone)).getD slot

/-- What stops an engine's access: it stands still for a chunk, or its task is aborted (status and detail; the stream fault's stream,
code and address when the stream engine is to record one). -/
inductive Stop where
  | stall (s : Stall)
  | abort (status detail : Nat) (strm : Option (Nat × Nat × Nat))
  deriving DecidableEq, Repr

/-- What an island read of a physical range meets in landing rings (R163, R174, R178). A byte past a short last chunk belongs to no
chunk. -/
def readMeets (d : Dev) (c : CoreId) (a n : Nat) : Option Stop :=
  allStreams.findSome? fun s =>
    match streamOf d c s with
    | none => none
    | some x =>
      if x.desc.drain then none
      else
        (ringParts x a n).findSome? fun (sl, b) =>
          let j := landingChunk x sl
          if x.desc.chunks ≤ j ∨ x.desc.chunkLen j ≤ b then none
          else
            match chunkOf x j with
            | none => match x.mode with
              | .cancel _ => none
              | _ => some (.stall { stream := s, chunk := j, moved := x.moved })
            | some k =>
              match k.st with
              | .fetching => match x.mode with
                | .cancel _ => none
                | _ => some (.stall { stream := s, chunk := j, moved := x.moved })
              | .faulted | .raised => some (.abort 0x15 k.code (some (s.val, k.code, k.addr)))
              | _ => if k.stale && x.desc.watch == 2 then some (.abort 0x15 9 (some (s.val, 9, 0))) else none

/-- What an island write by a port meets in drain rings whose named port it is (R164). -/
def writeMeets (d : Dev) (c : CoreId) (port a n : Nat) : Option Stop :=
  allStreams.findSome? fun s =>
    match streamOf d c s with
    | none => none
    | some x =>
      if !x.desc.drain || x.desc.port != port then none
      else
        (ringSlots x a n).findSome? fun sl =>
          let j := drainChunk x sl
          match chunkOf x j with
          | some _ => some (.stall { stream := s, chunk := j, moved := x.moved })
          | none => none

/-- The cursors that a port's access moves (R162): landing streams by reads, drain streams by writes. -/
def moveCursors (c : CoreId) (port a n : Nat) (drain : Bool) (who : PartId × Nat) : Act Unit :=
  each allStreams fun s => do
    let d ← look
    onSome (streamOf d c s) fun x =>
      onlyIf (x.desc.drain == drain && x.desc.port == port && !x.desc.byCounter) do
        each (ringParts x a n) fun (sl, b) => do
          let d ← look
          onSome (streamOf d c s) fun y => do
            let j := if drain then drainChunk y sl else landingChunk y sl
            onlyIf (decide (y.cursor < j) && decide (j < y.desc.chunks) && decide (b < y.desc.chunkLen j)) do
              setStream c s { y with cursor := j, relBy := who }
              releaseUpTo c s j who

end Sys2Proof.Machine
end

