-- ==== Sys2Proof/Machine/Ops.lean ====
section
/-! DEFINITION. The named operations every engine of a core uses: island accesses with streams, parity and bank maps (R94–R106,
R163), the governor (R142, R144), histograms (R48–R50), and the abort of a task (R74, R93). -/

namespace Sys2Proof.Machine

/-- The format of a format code (R56). -/
def fmtOf : Nat → Option Fmt
  | 0 => some .f32 | 1 => some .f16 | 2 => some .f16w | 3 => some .f8a | 4 => some .f8b | 5 => some .f6 | 6 => some .f4
  | 7 => some .i32 | 8 => some .i8 | 9 => some .i4 | 10 => some .x8 | _ => none

/-- Bytes of a task's window (R106). -/
def Slot.bytesIn (x : Slot) : Nat := x.size * 65536

/-- The physical scratchpad offset of a window offset (R105, R106). -/
def Slot.phys (x : Slot) (off : Nat) : Nat := x.base * 65536 + off

/-- Whether a range lies in the task's window (R106). -/
def Slot.inWindow (x : Slot) (off n : Nat) : Bool := decide (off + n ≤ x.bytesIn)

/-- Whether `rows` rows of `n` bytes at a pitch lie in the task's window. -/
def Slot.rowsIn (x : Slot) (off pitch n rows : Nat) : Bool := (List.range rows).all fun r => x.inWindow (off + r * pitch) n

/-- The banks an access of `n` bytes at a physical offset touches (R95). -/
def banksOf (a n : Nat) : List Nat :=
  if n = 0 then [] else (List.range (min 32 ((a + n - 1) / 64 - a / 64 + 1))).map fun i => (a / 64 + i) % 32

/-- Bytes a port moves in a core cycle (R96). -/
def portWidth : Nat → Nat
  | 0 => 272
  | 1 => 240
  | 2 => 512
  | 3 | 4 => 256
  | _ => 128

/-- The bank map that binds an island port (R103, R104). -/
def mapOf (m : BankMaps) : Nat → Nat
  | 0 | 1 | 2 => m.array
  | 3 | 4 => m.vector
  | _ => m.lathe

/-- The accesses by which a port moves `n` bytes: one per core cycle. -/
def accesses (w a n : Nat) : List (Nat × Nat) :=
  (List.range (ceilDiv n w)).map fun i => (a + i * w, min w (n - i * w))

/-- Accesses outside the issuing task's bank map are counted (R104). -/
def offMap (c : CoreId) (x : Slot) (port a n : Nat) : Act Unit :=
  count .SPAD_OFFMAP_COUNT c.val
    ((accesses (portWidth port) a n).filter fun (o, k) => (banksOf o k).any fun b => !bitOf (mapOf x.maps port) b).length

/-- Accesses of the stream port, 256 B each (R96), outside the bank map of the stream port in a task's header are counted (R104). -/
def offMapStream (c : CoreId) (map a n : Nat) : Act Unit :=
  count .SPAD_OFFMAP_COUNT c.val ((accesses 256 a n).filter fun (o, k) => (banksOf o k).any fun b => !bitOf map b).length

/-- A scratchpad word that a read finds with a parity error (R101, R102): re-read, or poisoned. -/
def wordHit (c : CoreId) (h : ParityHit) : Act Unit := do
  let d ← look
  if h.reread then onlyIf (!(badOf d (.spad c)).contains h.word) do
    addBad (.spad c) [h.word]
    count .SPAD_POISON_COUNT c.val 1
  else do
    count .SPAD_PARITY_REREAD c.val 1
    corrected

/-- The same for an island port's read, whose re-read freezes the island for a cycle (R101). A poisoned word fails both attempts
whatever its physics (R102). -/
def parityHit (c : CoreId) (h : ParityHit) : Act Unit := do
  let d ← look
  onlyIf (!(badOf d (.spad c)).contains h.word) do
    count .CORE_FREEZE_PARITY c.val 1
    wordHit c h

/-- The parity errors that the environment, or an injection (R547), brings to words of a range. -/
def parityWords (c : CoreId) (hits : List ParityHit) (a n : Nat) (hit : ParityHit → Act Unit) : Act Unit := do
  each (hits.filter fun h => decide (n ≠ 0) && decide (a / 8 ≤ h.word) && decide (h.word ≤ (a + n - 1) / 8)) hit
  let inj ← takeWords c (a / 8) ((a + n + 7) / 8)
  each inj fun m => hit ⟨m.1, m.2⟩

/-- The parity errors of an island port's read. -/
def parityIn (c : CoreId) (env : IslandEnv) (a n : Nat) : Act Unit := parityWords c env.parity a n (parityHit c)

/-- The parity errors of the stream port's read. -/
def portParity (c : CoreId) (hits : List ParityHit) (a n : Nat) : Act Unit := parityWords c hits a n (wordHit c)

/-- The element of a span at a byte of its chunk's slot: its source address. -/
def Span.source (q : Span) (o : Nat) : Option Nat :=
  ((List.range q.n).find? fun r => decide (q.dst + r * q.step < o + 8) && decide (o < q.dst + r * q.step + q.elt)).map fun r => q.va + r * q.elt

/-- The virtual address that a poisoned scratchpad word was read from, where it landed poisoned (R176); none when its poison arose in the
scratchpad. -/
def poisonSource (d : Dev) (c : CoreId) (w : Nat) : Option Nat :=
  allStreams.findSome? fun s => (streamOf d c s).bind fun x =>
    if x.desc.drain then none
    else x.chunks.findSome? fun k =>
      if k.poison.contains w then
        (chunkRuns x.desc k.j).findSome? fun q => q.source (8 * w - (x.desc.ring + k.j % max 1 x.desc.ccount * x.desc.csize))
      else none

/-- A task has read poison that memory held at an address, or that arose elsewhere. -/
def setHurt (p : PartId) (tid : Nat) (va : Option Nat) : Act Unit := do
  let d ← look
  onSome (taskOf d p tid) fun t => emit (.task p tid (some { t with hurt := va }))

/-- A port's read of a window range: cursors move, parity is checked, the bank map counted. None: a word is poisoned, and each such
word was read twice (R101, R102); where it came from is kept for the task's recovery (R504). -/
def spadGet (c : CoreId) (x : Slot) (env : IslandEnv) (port off n : Nat) : Act (Option (List Byte)) := do
  let a := x.phys off
  moveCursors c port a n false (x.part, x.tid)
  offMap c x port a n
  let d ← look
  count .CORE_FREEZE_PARITY c.val (badIn d (.spad c) a n).length
  parityIn c env a n
  let d ← look
  match (badIn d (.spad c) a n).head? with
  | none => pure (some (bytesOf d (.spad c) a n))
  | some w => do
    setHurt x.part x.tid (poisonSource d c w)
    pure none

/-- The words of a range that a write covers in part: they are merged inside their bank (R101). -/
def partWords (a n : Nat) : List Nat :=
  if n = 0 then [] else [a / 8, (a + n - 1) / 8].dedup.filter fun w => decide (8 * w < a) || decide (a + n < 8 * w + 8)

/-- A port's write of a window range: whole words get fresh parity; a partly written word is merged, and stays poisoned if it
was (R101, R102). False: the re-read of a merge failed, so the task is to be aborted. -/
def spadPut (c : CoreId) (x : Slot) (env : IslandEnv) (port off : Nat) (bs : List Byte) : Act Bool := do
  let a := x.phys off
  moveCursors c port a bs.length true (x.part, x.tid)
  offMap c x port a bs.length
  let before ← look
  each (partWords a bs.length) fun w => parityIn c env (8 * w) 8
  let d ← look
  let hurt := (partWords a bs.length).any fun w => (badOf d (.spad c)).contains w && !(badOf before (.spad c)).contains w
  emit (.write (.spad c) a bs)
  clearBad (.spad c) a bs.length
  let ws := (List.range ((a + bs.length + 7) / 8 - a / 8)).map (· + a / 8)
  injectWords c (ws.filter fun w => decide (a ≤ 8 * w) && decide (8 * w + 8 ≤ a + bs.length)) (a / 8) ws.length
  pure (!hurt)

/-- The island ports in the order of priority of R97; the stream port comes after them. -/
def islandPorts : List Port := [.arrayWrite, .arrayRow, .arrayShadow, .latheRead, .latheWrite, .vecRead, .vecWrite]

/-- Bank arbitration as it goes on (R97–R99): the banks that each island access still wants, in the order of priority; the banks that the
stream port's access still wants, each with the core cycles it has lost it; the stream accesses behind it; and the cycles counted. -/
structure BankSt where
  isl    : List (List Nat)
  cur    : List (Nat × Nat)
  later  : List (List Nat)
  frozen : Nat
  defers : Nat
  deriving DecidableEq, Repr

/-- The first access that wants a bank is served there. -/
def serveBank (b : Nat) : List (List Nat) → List (List Nat)
  | [] => []
  | w :: ws => if w.contains b then w.filter (· ≠ b) :: ws else w :: serveBank b ws

/-- One core cycle (R97, R99): each bank serves the stream port's access when that has lost it four times, else the first island access
that wants it, else the stream port's. -/
def coreCycle (s : BankSt) : BankSt :=
  let promoted (b : Nat) : Bool := s.cur.any fun k => k.1 == b && decide (4 ≤ k.2)
  let wanted (b : Nat) : Bool := s.isl.any fun w => w.contains b
  let isl := ((List.range 32).foldl (fun w b => if promoted b then w else serveBank b w) s.isl).filter fun w => !w.isEmpty
  let cur := (s.cur.filter fun k => wanted k.1 && !promoted k.1).map fun k => (k.1, k.2 + 1)
  let lost := b2n (!cur.isEmpty)
  match cur, s.later with
  | [], w :: ws => ⟨isl, w.map fun b => (b, 0), ws, s.frozen, s.defers⟩
  | _, ws => ⟨isl, cur, ws, s.frozen, s.defers + lost⟩

/-- The core cycles until every island access of an island cycle has been served: all but the first are frozen (R98). -/
def islandCycle : Nat → BankSt → BankSt
  | 0, s => s
  | fuel + 1, s =>
    let t := coreCycle s
    if t.isl.isEmpty then t else islandCycle fuel { t with frozen := t.frozen + 1 }

/-- The accesses that meet in one island cycle join what the stream port still waits for. -/
def bankMeet (s : BankSt) (acc : List PortAccess) : BankSt :=
  let isl := islandPorts.flatMap fun p => acc.filter fun m => m.port == p
  let strm := (acc.filter fun m => m.port == .stream).map fun m => banksOf m.off m.len
  let (cur, later) := match s.cur, s.later ++ strm with
    | [], w :: ws => (w.map fun b => (b, 0), ws)
    | k, ws => (k, ws)
  islandCycle (isl.length + 6) { s with
    isl := isl.map fun m => banksOf m.off m.len
    cur := cur
    later := later }

/-- The collisions that the environment brings to a command, in consecutive island cycles (R97–R99). -/
def bankMeets (c : CoreId) (env : IslandEnv) : Act Unit := do
  let s := env.meet.foldl bankMeet ⟨[], [], [], 0, 0⟩
  count .CORE_FREEZE_BANK c.val s.frozen
  count .SPAD_STREAM_DEFER c.val s.defers

/-- What stops a set of reads and a set of writes, each a port, a physical offset and bytes (R163, R164). -/
def portsMeet (d : Dev) (c : CoreId) (reads writes : List (Nat × Nat × Nat)) : Option Stop :=
  match reads.findSome? fun (_, a, n) => readMeets d c a n with
  | some s => some s
  | none => writes.findSome? fun (port, a, n) => writeMeets d c port a n

/-- What stops a set of reads (port, window offset, bytes) and a set of writes, before any of them is made (R163, R164); a stall keeps the
accesses that wait. -/
def blocked (d : Dev) (c : CoreId) (x : Slot) (reads writes : List (Nat × Nat × Nat)) : Option Stop :=
  let phys := fun (l : List (Nat × Nat × Nat)) => l.map fun (port, off, n) => (port, x.phys off, n)
  match portsMeet d c (phys reads) (phys writes) with
  | some (.stall s) => some (.stall { s with
      reads := phys reads
      writes := phys writes })
  | r => r

/-- Whether the accesses that an engine stands still for still have to wait (R94). -/
def stands (d : Dev) (c : CoreId) (s : Option Stall) : Bool :=
  match s with
  | none => false
  | some s => match portsMeet d c s.reads s.writes with
    | some (.stall _) => true
    | _ => false

/-! The governor and the histograms. -/

/-- What the governor does with a write or a resolving read (R142): the format code, the rounding that replaces the write's, and
which counter counts it. -/
structure Governed where
  fmt : Nat
  rnd : Option Nat
  ctr : Option CtrName
  deriving DecidableEq, Repr

/-- Quarter-bytes per element, scale share included (R142 step 2). -/
def elemCost (f : Fmt) : Nat := f.width * 4 + (if f.scaled then 1 else 0)

/-- The governor's substitution for a write of a tag in a named format with rows of `n` elements (R142). -/
def govern (d : Dev) (c : CoreId) (p : PartId) (tag named n : Nat) : Governed :=
  if tag = 0 ∨ !bitOf (regOf d .CORE_GOV_CTRL c.val p.val) 0 then ⟨named, none, none⟩
  else
    let e := if (runOf d p).govOff.contains c.val then 0 else (runOf d p).gov.getD (tag % 1024) 0
    if bitsOf e 31 16 = tag ∧ bitOf e 15 then
      let cand0 := bitsOf e 3 0
      let scaledNo := ((fmtOf cand0).map fun f => f.scaled && n % 32 != 0).getD false
      let cand := if scaledNo then bitsOf e 7 4 else cand0
      match fmtOf cand, fmtOf named with
      | some f, some g =>
        if f.isFloat ∧ elemCost f ≤ elemCost g ∧ ¬ (f.scaled ∧ n % 32 ≠ 0) then
          ⟨cand, if bitOf e 14 then none else some (bitsOf e 13 12), if cand = named then none else some .CORE_GOV_SUBST⟩
        else ⟨named, none, some .CORE_GOV_CEIL⟩
      | _, _ => ⟨named, none, some .CORE_GOV_CEIL⟩
    else ⟨named, none, some .CORE_GOV_MISS⟩

/-- The rounding mode of a write: its own code (R59) or the partition's default on the core (R33, R51). -/
def roundMode (d : Dev) (c : CoreId) (p : PartId) (code : Nat) : Nat :=
  if bitOf code 2 then bitsOf (regOf d .CORE_ARITH_CTRL c.val p.val) 1 0 else bitsOf code 1 0

/-- CORE_ARITH_CTRL.sat_wide of a partition on a core (R51). -/
def satWide (d : Dev) (c : CoreId) (p : PartId) : Bool := bitOf (regOf d .CORE_ARITH_CTRL c.val p.val) 2

/-- Arithmetic flags set in the partition's copy (R52). -/
def setFlags (c : CoreId) (p : PartId) (f : Flags) : Act Unit :=
  onlyIf (f != {}) (orReg .CORE_ARITH_STATUS c.val p.val f.bits)

/-- The step number whose writes a partition's histogram banks hold (R50). -/
def stepNum (d : Dev) (p : PartId) : Nat := ((partOf d p).step.map (·.num)).getD ((partOf d p).lastStep.getD 0)

/-- Whether a step is still to come for a partition: above the one that is open, or above the last that closed. -/
def stepAhead (y : Part) (step : Nat) : Bool :=
  match y.step, y.lastStep with
  | some s, _ => decide (s.num < step)
  | none, some l => decide (l < step)
  | none, none => true

/-- A 32-bit count of a histogram record after `n` more, saturating (R49, R50). -/
def satAdd32 (v n : Nat) : Nat := min (v + n) 0xFFFFFFFF

/-- A row of a tagged write counted into its record by atomics at the home pile (R48–R50). False: an atomic met a poisoned word and was
not performed (R501). A record that cannot be reached is not counted (R603). -/
def histogram (env : Env) (c : CoreId) (p : PartId) (tag : Nat) (vals : List Val) (fates : List WriteFate) : Act Bool := do
  let d ← look
  let area := latched d p .UPD_HIST_HI * 2 ^ 32 + latched d p .UPD_HIST_LO
  if tag = 0 ∨ area = 0 then pure true
  else do
    let va := area + 384 * (tag % 1024) + 192 * (stepNum d p % 2)
    match ← vaRead env p { die := some (c.val / 50) } va 192 with
    | .error _ => pure true
    | .ok (bs, bad) => do
      let base := signedOf 8 (fieldAt bs 0x8C 1)
      let bins := vals.map (histBin base)
      let amax := vals.foldl (fun a v => match v with
        | .num q => if a < ratAbs q then ratAbs q else a
        | _ => a) 0
      let code := if amax = 0 then 0 else codeOf .f32 (.num amax)
      let words : List (Nat × Nat) := ((List.range 32).map fun b => (4 * b, satAdd32 (fieldAt bs (4 * b) 4) (bins.filter (· == b)).length)) ++
        [(0x80, max (fieldAt bs 0x80 4) code),
         (0x84, satAdd32 (fieldAt bs 0x84 4) (fates.filter (·.saturated)).length),
         (0x88, satAdd32 (fieldAt bs 0x88 4) (fates.filter (·.flushed)).length)]
      let changed := words.filter fun (o, v) => fieldAt bs o 4 != v
      let (hit, good) := changed.partition fun (o, _) => bad.contains (o / 8)
      each good fun (o, v) => do
        let _ ← vaWrite env p { inner := true, die := some (c.val / 50) } (va + o) (leBytes 4 v) []
        pure ()
      pure hit.isEmpty

/-! The end of a task on its slot. -/

/-- The slots of the job's arena, or the window of the task, return when a task leaves the arena (R396); while a cancelled stream of
the task still has reads in flight, they stay with that stream (R172). -/
def leaveArena (p : PartId) (t : Task) : Act Unit := do
  let d ← look
  onSome t.arena fun a => do
    match d.streams.find? fun y => y.2.part == p && y.2.tid == t.tid && !y.2.desc.persist with
    | some y => setStream y.1.1 y.1.2 { y.2 with arena := some a }
    | none => giveBack 3 a.2.2
    emit (.task p t.tid (some { t with arena := none }))

/-- Whether a pass belongs to a task. -/
def PassRun.ofTask (r : PassRun) (p : PartId) (tid : Nat) : Bool := r.own.part == p && r.own.tid == tid

/-- The rows of a task's passes that are in the array finish, and their writes are discarded (R74). -/
def discardRows (a : Arr) (p : PartId) (tid : Nat) : Arr :=
  { a with
    wait := if (a.wait.map fun w => w.part == p && w.tid == tid).getD false then none else a.wait
    passes := a.passes.map fun r => if r.ofTask p tid then { r with
      feeding := false
      out := []
      discard := true } else r }

/-- Discard what an array holds for a slot and its task (R74): commands, rows in the array, operands, shadow and records. A shadow that
drains into the task's own pass is EMPTY too. -/
def arrDiscard (a : Arr) (k : SlotId) (p : PartId) (tid : Nat) : Arr :=
  let mine := fun (r : Option Run) => (r.map fun y => y.q.slot == k).getD false
  let head := (a.q.head?.map fun q => q.slot == k).getD false
  let drains := a.sh == .draining && ((a.passes.filter fun r => r.swap).getLast?.map fun r => r.ofTask p tid).getD false
  let own := a.shadow.map (·.slot) = some k
  { discardRows a p tid with
    q := a.q.filter fun q => q.slot ≠ k
    run := if mine a.run then none else a.run
    load := if mine a.load then none else a.load
    hold := a.hold && !head
    reload := a.reload && !head
    active := if a.active.map (·.slot) = some k then none else a.active
    shadow := if own then none else a.shadow
    sh := if own ∨ drains then .empty else a.sh
    recs := tabDel a.recs k }

/-- Discard what an engine holds for a slot (R93). -/
def engDiscard (e : Eng) (k : SlotId) : Eng :=
  ⟨e.q.filter fun q => q.slot ≠ k, if (e.run.map fun r => r.q.slot == k).getD false then none else e.run⟩

/-- The streams of a task that are not persistent are cancelled, and an SREARM or SDISARM of the task that waits is dropped
(R173, R184). -/
def cancelTaskStreams (c : CoreId) (p : PartId) (tid : Nat) : Act Unit :=
  each allStreams fun s => do
    let d ← look
    onSome (streamOf d c s) fun x =>
      if x.part = p ∧ x.tid = tid ∧ !x.desc.persist then cancelStream c s none
      else
        match x.mode with
        | .rearm _ _ t _ => onlyIf (x.part == p && t == tid) (cancelStream c s none)
        | .finish (some (t, _)) => onlyIf (x.part == p && t == tid) (cancelStream c s none)
        | _ => pure ()

/-- What the engines of a core hold for a slot and its task is discarded (R74, R93). -/
def discardSlot (c : CoreId) (k : SlotId) : Act Unit := do
  let d ← look
  let x := slotOf d c k
  emit (.arr c (arrDiscard (arrOf d c) k x.part x.tid))
  emit (.vec c (engDiscard (vecOf d c) k))
  emit (.lathe c (engDiscard (latheOf d c) k))
  onlyIf ((strmQ d c).any fun q => q.slot == k) (emit (.strmq c ((strmQ d c).filter fun q => q.slot ≠ k)))

/-- What a slot holds is discarded and the slot becomes FREE (R90, R93). -/
def freeSlot (c : CoreId) (k : SlotId) : Act Unit := do
  let d ← look
  discardSlot c k
  emit (.slot c k { Slot.empty with epoch := (slotOf d c k).epoch })

/-- Whether rows of an aborted task are still in the array of its core: the abort rules are not complete (R74, R90). -/
def rowsLeft (d : Dev) (c : CoreId) (k : SlotId) : Bool :=
  let x := slotOf d c k
  (arrOf d c).passes.any fun r => r.slot == k && r.ofTask x.part x.tid

/-- An ABORTING slot whose abort rules are complete becomes FREE (R90). -/
def abortDone (c : CoreId) (k : SlotId) : Act Unit := do
  let d ← look
  let x := slotOf d c k
  onlyIf (x.st == .aborting && !rowsLeft d c k) (emit (.slot c k { Slot.empty with epoch := x.epoch }))

/-- Whether a completion status is a fault, and so a contained error (R429, R502). -/
def isFault (status : Nat) : Bool := (0x10 ≤ status && status ≤ 0x18) || status == 0x1B

/-- A task ends with a status, to be taken up by the step builder (R93, R428). -/
def endTask (p : PartId) (tid status detail : Nat) : Act Unit := do
  let d ← look
  onSome (taskOf d p tid) fun t => do
    leaveArena p t
    let d ← look
    onSome (taskOf d p tid) fun t => do
      onSome t.image fun _ => giveBack 9 1
      emit (.part p { partOf d p with ctxUsed := ((partOf d p).ctxUsed.filter (fun r => some r != t.image.map (·.region))) })
      let t' : Task := { t with
        st := (if status = 0 then TaskSt.done else TaskSt.failed)
        image := none
        cause := none
        endst := some (status, detail) }
      emit (.task p tid (some t'))

/-- The task on a slot is aborted (R90, R92, R93): its commands, rows, streams and records go, and it ends with a status. The slot is
ABORTING until the task's rows have left the array; a second abort is dropped. -/
def abortSlot (c : CoreId) (k : SlotId) (status detail : Nat) : Act Unit := do
  let d ← look
  let x := slotOf d c k
  if x.st = .free ∨ x.st = .aborting then pure ()
  else do
    cancelTaskStreams c x.part x.tid
    discardSlot c k
    emit (.slot c k { Slot.empty with
      st := .aborting
      epoch := x.epoch
      part := x.part
      tid := x.tid
      base := x.base
      size := x.size })
    abortDone c k
    onlyIf (isFault status) (contained (some x.part))
    endTask x.part x.tid status detail

/-- A task is aborted wherever it is: on its slot, suspended, or not yet placed (R93, R411). -/
def abortTask (p : PartId) (tid status detail : Nat) : Act Unit := do
  let d ← look
  onSome (taskOf d p tid) fun t =>
    match t.st, t.core with
    | .done, _ | .failed, _ => pure ()
    | _, some (c, k) =>
      if (slotOf d c k).st ≠ .free ∧ (slotOf d c k).part = p ∧ (slotOf d c k).tid = tid then abortSlot c k status detail
      else endTask p tid status detail
    | _, none => do
      onSome t.image fun im => do
        cancelTaskStreams im.core p tid
        let d ← look
        onlyIf ((arrOf d im.core).passes.any fun r => r.ofTask p tid) (emit (.arr im.core (discardRows (arrOf d im.core) p tid)))
      endTask p tid status detail

/-- A deferred fault is raised by an island read: the chunk's fault is no longer one to discard (R174). -/
def raiseFault (c : CoreId) (s code addr : Nat) : Act Unit := do
  let d ← look
  onSome (streamOf d c (Fin.ofNat 16 s)) fun x =>
    setStream c (Fin.ofNat 16 s) { x with
      chunks := x.chunks.map fun k => if k.st = .faulted ∧ k.code = code ∧ k.addr = addr then { k with st := .raised } else k }

/-- The task of a slot stops for a reason found by an engine's access (R102, R163). -/
def stopAbort (c : CoreId) (k : SlotId) (status detail : Nat) (strm : Option (Nat × Nat × Nat)) : Act Unit := do
  onSome strm fun (s, code, addr) => do
    raiseFault c s code addr
    strmFault c k s 0 code addr
  abortSlot c k status detail

/-- A command of a slot completes and advances its event counter, when it names one (R126, R138, R259). -/
def finishCmd (c : CoreId) (k : SlotId) (seq : Nat) (ctr : Option Nat) : Act Unit := do
  let d ← look
  let x := slotOf d c k
  onSome ctr (bumpEvent c (x.part, x.tid))
  completeCmd x.part x.tid seq

end Sys2Proof.Machine
end

