-- ==== Sys2Proof/Machine/Operands.lean ====
section
/-! DEFINITION. The operand forms of the commands that a task's list carries (R86–R88) and how the issue stage finds the next
command of a slot (R87, R89). -/

namespace Sys2Proof.Machine

/-- The opcodes of R86. -/
inductive Op where
  | nop | end_ | wait | signal | fence | sdisarm
  | sload | vop | func | sarm | srearm | send | recv
  | pass | lathe | xdispatch | xcombine | update
  deriving DecidableEq, Repr

/-- The command of an opcode byte (R86). -/
def opOf : Nat → Option Op
  | 0x00 => some .nop | 0x01 => some .end_ | 0x02 => some .wait | 0x03 => some .signal | 0x04 => some .fence
  | 0x05 => some .sdisarm
  | 0x40 => some .sload | 0x41 => some .vop | 0x42 => some .func | 0x43 => some .sarm | 0x44 => some .srearm
  | 0x45 => some .send | 0x46 => some .recv
  | 0x80 => some .pass | 0x81 => some .lathe | 0x82 => some .xdispatch | 0x83 => some .xcombine | 0x84 => some .update
  | _ => none

/-- A command's bytes by bits 7:6 of its opcode (R86). -/
def cmdLen (opcode : Nat) : Nat := 8 * 2 ^ bitsOf opcode 7 6

/-- Whether an issue command keeps to the fields of R88. DESIGN CHOICE (log entry 106): R88's table has no row for NOP; a NOP with
non-zero bits 63:8 is refused like the others. -/
def issueFieldsOk (op : Op) (w : Nat) : Bool :=
  match op with
  | .nop | .end_ | .fence => bitsOf w 63 8 == 0
  | .wait => bitsOf w 47 45 == 0 && bitsOf w 39 8 == 0
  | .signal => decide (bitsOf w 47 45 ≤ 1) && bitsOf w 39 8 == 0
  | _ => true

/-- The next command of a slot (R87): a command, a fault (status and detail), or nothing while the buffer does not hold it. -/
inductive Next where
  | none
  | fault (status detail : Nat)
  | cmd (op : Op) (len bits : Nat) (again : Bool)
  deriving DecidableEq, Repr

/-- What stands at a slot's command position (R86, R87, R91). Withdrawn commands come first (R91). -/
def nextCmd (x : Slot) : Next :=
  match x.redo with
  | w :: _ =>
    match opOf (w % 256) with
    | some op => .cmd op (cmdLen (w % 256)) w true
    | none => .fault 0x12 (w % 256)
  | [] =>
    if x.bytes ≤ x.pos then .fault 0x1B 0
    else
      match x.buf with
      | [] => .none
      | b :: _ =>
        let len := cmdLen b.toNat
        if x.bad.any fun w => decide (x.pos ≤ 8 * w) && decide (8 * w < x.pos + 8) then .fault 0x18 0
        else
          match opOf b.toNat with
          | none => .fault 0x12 b.toNat
          | some op =>
            if x.pos % len ≠ 0 ∨ x.bytes < x.pos + len then .fault 0x12 b.toNat
            else if x.buf.length < len then .none
            else if x.bad.any fun w => decide (x.pos ≤ 8 * w) && decide (8 * w < x.pos + len) then .fault 0x18 0
            else
              let w := leNat (x.buf.take len)
              if issueFieldsOk op w then .cmd op len w false else .fault 0x12 b.toNat

/-- Whether a command in an engine's queue is a FUNC (the function unit has its own queue, file 04). -/
def isFunc (q : Queued) : Bool := q.cmd % 256 == 0x42

/-- Whether the stream of an SREARM or SDISARM finish has no earlier one still in progress: it waits for it in the stream engine's
queue. -/
def streamIdle (d : Dev) (c : CoreId) (w : Nat) : Bool :=
  match streamOf d c (Fin.ofNat 16 (bitsOf w 11 8)) with
  | some x => x.mode == .run
  | none => true

/-- SENDs of a core whose messages have not all been sent: each holds its place in the stream engine's queue (R355). -/
def sendsWaiting (d : Dev) (c : CoreId) : Nat :=
  let mine (j : SendJob) : Bool := match j.owner with
    | .task k _ _ _ _ _ => k == c
    | _ => false
  ((d.chans.flatMap fun ic => ic.2.jobs).filter mine).length

/-- Whether the engine of a command has a free queue entry (R89). -/
def queueFree (d : Dev) (c : CoreId) : Op → Bool
  | .sload | .pass => decide ((arrOf d c).q.length < 8)
  | .vop | .update => decide (((vecOf d c).q.filter fun q => !isFunc q).length < 8)
  | .func => decide (((vecOf d c).q.filter isFunc).length < 8)
  | .lathe => decide ((latheOf d c).q.length < 8)
  | .sarm | .srearm | .sdisarm | .send | .recv => decide ((strmQ d c).length + sendsWaiting d c < 8)
  | _ => true

/-- Whether the island is frozen under cause stream: an engine's next accesses have to wait (R94). -/
def frozenStream (d : Dev) (c : CoreId) : Bool :=
  stands d c ((arrOf d c).wait.map (·.stall)) || stands d c ((vecOf d c).run.bind (·.stall)) || stands d c ((latheOf d c).run.bind (·.stall))

/-- Whether the island is frozen under cause stream or array (R94, R72). -/
def frozen (d : Dev) (c : CoreId) : Bool := (arrOf d c).hold || frozenStream d c

/-- Whether a slot may issue in this island cycle (R89). -/
def eligible (d : Dev) (c : CoreId) (k : SlotId) : Bool :=
  let x := slotOf d c k
  x.st == .ready &&
    match nextCmd x with
    | .none => false
    | .fault _ _ => true
    | .cmd op _ _ _ => queueFree d c op

/-- The slot the issue stage takes: critical before deferred, then the lowest number (R89). -/
def issuer (d : Dev) (c : CoreId) : Option SlotId :=
  if frozen d c then none
  else
    let es := allSlots.filter (eligible d c)
    match es.find? fun k => (slotOf d c k).crit with
    | some k => some k
    | none => es.head?

/-- The first command of a task has issued: the step may enter FORWARD or BACKWARD (R14). DESIGN CHOICE (log entry 107): a backward
task that issues before any forward task takes the step from OPEN straight to BACKWARD. -/
def taskIssued (p : PartId) (tid : Nat) : Act Unit := do
  let d ← look
  onSome (taskOf d p tid) fun t => onlyIf (!t.started) do
    emit (.task p tid (some { t with started := true }))
    let y := partOf d p
    onSome y.step fun s =>
      let st' := match s.st with
        | .opened => if bitOf t.flags 3 ∧ !y.serving then .backward else .forward
        | .forward => if bitOf t.flags 3 ∧ !y.serving then .backward else .forward
        | st => st
      emit (.part p { y with step := some { s with st := st' } })

/-- A slot after a command left its position: the rest of the list, and the wait for the buffer when it runs empty (R90). -/
def advance (x : Slot) (len : Nat) (again : Bool) : Slot :=
  let y := if again then { x with redo := x.redo.drop 1 } else { x with pos := x.pos + len, buf := x.buf.drop len }
  if y.redo.isEmpty ∧ y.buf.isEmpty ∧ y.pos < y.bytes then { y with st := .waiting, wait := some .buffer } else y

/-- Issue of the next command of slot `k` when the issue stage takes that slot and the command is one that `want` names
(R86–R89): the slot advances, the command gets its sequence number, and `act` does the rest. `busy` tells whether the command
completes later. -/
def issue (c : CoreId) (k : SlotId) (want : Op → Nat → Bool) (busy : Bool) (act : Slot → Nat → Nat → Act Unit) : Act Unit := do
  let d ← look
  let x := slotOf d c k
  if issuer d c = some k then
    match nextCmd x with
    | .cmd op len w again =>
      if want op w then do
        let y := advance x len again
        emit (.slot c k { y with seq := x.seq + 1, busy := if busy then x.busy ++ [x.seq] else x.busy })
        count .CORE_ISSUE_COUNT c.val 1
        taskIssued x.part x.tid
        act x w x.seq
      else pure ()
    | _ => pure ()
  else pure ()

end Sys2Proof.Machine
end

