-- ==== Sys2Proof/Machine/Vector.lean ====
section
/-! DEFINITION. The vector engine and the function unit (file 05, R121–R131), as far as their running goes; their queue is kicked in
Engines.lean. -/

namespace Sys2Proof.Machine

/-- The fields of a VOP or FUNC (R122). -/
structure VopF where
  desc  : Nat
  ctr   : Option Nat
  fslot : Nat
  fmode : Nat
  func  : Bool
  deriving DecidableEq, Repr

/-- A VOP or FUNC decoded (R122). -/
def vopF (w : Nat) : VopF :=
  ⟨bitsOf w 85 64, if bitOf w 16 then some (bitsOf w 21 17) else none, bitsOf w 15 12, bitsOf w 11 8, w % 256 == 0x42⟩

/-- Whether the command word keeps to its fields (R122, R140). -/
def vopOk (w : Nat) : Bool :=
  let f := vopF w
  bitsOf w 127 86 == 0 && bitsOf w 63 22 == 0 && f.desc % 64 == 0 &&
    (if f.func then decide (f.fmode ≤ 1) else f.fslot == 0 && f.fmode == 0)

/-- An operand of a vector descriptor (R123). -/
structure VecOp where
  used  : Bool
  gov   : Bool
  rnd   : Nat
  fmt   : Nat
  off   : Nat
  pitch : Nat
  deriving DecidableEq, Repr

/-- A vector descriptor (R123). -/
structure VecDesc where
  ops   : List VecOp
  dst   : VecOp
  n     : Nat
  rows  : Nat
  htag  : Nat
  lanes : Nat
  chain : List Nat
  outr  : Nat
  s0    : Nat
  s1    : Nat
  deriving DecidableEq, Repr

/-- An operand word with its pitch (R123). -/
def vecOp (w pitch : Nat) : VecOp := ⟨bitOf w 26, bitOf w 27, bitsOf w 30 28, bitsOf w 25 22, bitsOf w 21 0, bitsOf pitch 21 0⟩

/-- A descriptor decoded (R123). -/
def vecDesc (bs : List Byte) : VecDesc :=
  let op (i : Nat) : VecOp := vecOp (fieldAt bs (4 * i) 4) (fieldAt bs (0x10 + 4 * i) 4)
  let shape := fieldAt bs 0x20 4
  let ctl := fieldAt bs 0x26 2
  ⟨[op 0, op 1, op 2], op 3, bitsOf shape 15 0 + 1, bitsOf shape 27 16 + 1, fieldAt bs 0x24 2, bitsOf ctl 1 0,
    (List.range (bitsOf ctl 4 2)).map fun i => fieldAt bs (0x28 + 4 * i) 4, bitsOf ctl 7 5, fieldAt bs 0x38 4, fieldAt bs 0x3C 4⟩

/-- The sources that a chain operation uses (R124); none for a reserved operation. -/
def chainArity : Nat → Option Nat
  | 0x00 => some 1 | 0x01 => some 2 | 0x02 => some 2 | 0x03 => some 2 | 0x04 => some 3 | 0x05 => some 2 | 0x06 => some 2
  | 0x07 => some 1 | 0x08 => some 1 | 0x09 => some 1 | 0x0A => some 1 | 0x0B => some 1 | 0x0C => some 1
  | 0x0D => some 3 | 0x0E => some 3 | 0x0F => some 2 | _ => none

/-- Whether a chain word keeps to its fields (R124). -/
def chainOk (w : Nat) : Bool :=
  bitsOf w 31 20 == 0 &&
    match chainArity (bitsOf w 4 0) with
    | none => false
    | some k =>
      let ss := [bitsOf w 11 8, bitsOf w 15 12, bitsOf w 19 16]
      (ss.take k).all (fun s => decide (s < 0xC)) && (ss.drop k).all (· == 0)

/-- Whether a descriptor keeps to its fields (R123, R140). -/
def vecDescOk (func : Bool) (bs : List Byte) : Bool :=
  let v := vecDesc bs
  let word (i : Nat) : Nat := fieldAt bs (4 * i) 4
  (List.range 4).all (fun i => !bitOf (word i) 31 && bitsOf (fieldAt bs (0x10 + 4 * i) 4) 31 22 == 0) &&
    v.ops.all (fun o => o.rnd == 0) &&
    (v.ops ++ [v.dst]).all (fun o => !o.used || (fmtOf o.fmt).isSome) &&
    bitsOf (fieldAt bs 0x20 4) 31 28 == 0 && bitsOf (fieldAt bs 0x26 2) 15 8 == 0 && v.lanes != 3 &&
    decide (v.chain.length ≤ 4) && v.chain.all chainOk &&
    (!func || (v.ops.head?.map (·.used)).getD false)

/-- The lane format of a lane code (R123). -/
def laneFmt : Nat → Fmt
  | 1 => .f16
  | 2 => .f16w
  | _ => .f32

/-- Lanes of a vector (R125). -/
def laneCount (lanes : Nat) : Nat := if lanes = 0 then 256 else 512

/-- The smaller of two values, −0 below +0 (R124). -/
def Val.lesser (x y : Val) : Val :=
  match x, y with
  | .zero a, .zero b => .zero (a || b)
  | _, _ => if y.lt x then y else x

/-- The larger of two values, −0 below +0 (R124). -/
def Val.greater (x y : Val) : Val :=
  match x, y with
  | .zero a, .zero b => .zero (a && b)
  | _, _ => if x.lt y then y else x

/-- rsqrt (R124, R39): within one unit in the last place; of a zero, what the spec leaves open. -/
def laneRsqrt (f : Fmt) (x : Val) : Val × Flags :=
  match x with
  | .nan => (.nan, { nanIn := true })
  | .inf false => (.zero false, {})
  | .inf true => (.nan, { invalid := true })
  | .zero _ => ((decodeElem f (Config.poleValue 0x0B (codeOf f x))).1, {})
  | .num q =>
    if q < 0 then (.nan, { invalid := true })
    else
      let e := sqrtApprox (1 / q)
      let (v, fl) := lane f (.num e, {})
      (ulpStep f (Config.ulpChoice 0x0B (codeOf f x)) v e, fl)

/-- recip (R124): within one unit in the last place; of a zero, what the spec leaves open. -/
def laneRecip (f : Fmt) (x : Val) : Val × Flags :=
  match x with
  | .nan => (.nan, { nanIn := true })
  | .inf s => (.zero s, {})
  | .zero _ => ((decodeElem f (Config.poleValue 0x0C (codeOf f x))).1, {})
  | .num q =>
    let (v, fl) := lane f (.num (1 / q), {})
    (ulpStep f (Config.ulpChoice 0x0C (codeOf f x)) v (1 / q), fl)

/-- One chain operation on one lane (R124, R38, R39, R47). -/
def chainOp (f : Fmt) (op : Nat) (s : List Val) : Val × Flags :=
  let a := s.getD 0 (.zero false)
  let b := s.getD 1 (.zero false)
  let c := s.getD 2 (.zero false)
  let one : Val := .num 1
  if s.contains .nan then (if op = 0x0F then .zero false else .nan, { nanIn := true })
  else
    match op with
    | 0x00 => (a, {})
    | 0x01 => laneAdd f a b
    | 0x02 => laneAdd f a b.neg
    | 0x03 => laneMul f a b
    | 0x04 => laneFma f a b c
    | 0x05 => (a.lesser b, {})
    | 0x06 => (a.greater b, {})
    | 0x07 => (if a.sign then a.neg else a, {})
    | 0x08 => (a.neg, {})
    | 0x09 => (match a with
        | .zero _ => .zero false
        | _ => if a.sign then .num (-1) else one, {})
    | 0x0A => laneSqrt f a
    | 0x0B => laneRsqrt f a
    | 0x0C => laneRecip f a
    | 0x0D => (match a with
        | .zero _ => c
        | _ => b, {})
    | 0x0E => ((a.greater b).lesser c, {})
    | _ => (if b.lt a then one else .zero false, {})

/-! The function tables (R127–R130). -/

/-- An F32 of a function image as an operand, with the flags of reading it (R35, R38). -/
def imgVal (img : List Byte) (off : Nat) : Val × Flags := decodeElem .f32 (fieldAt img off 4)

/-- An F32 of a function image. -/
def imgF32 (img : List Byte) (off : Nat) : Val := (imgVal img off).1

/-- Whether a function image is accepted (R127, R128). -/
def imageOk (img : List Byte) : Bool :=
  let integral (off : Nat) : Bool := match imgF32 img off with
    | .num q => q.den == 1
    | .zero _ => true
    | _ => false
  decide (img.length = 6208) && decide (fieldAt img 0 1 ≤ 3) && decide (fieldAt img 1 1 ≤ 3) &&
    (fieldAt img 0 1 != 3 || integral 0x0C) && (fieldAt img 1 1 != 3 || integral 0x30) && (imgF32 img 4).lt (imgF32 img 8)

/-- A side of a table (R128): linear a × x + b, or constant b; its F32 pair stands at `off` of the image. -/
def sideVal (lin : Bool) (img : List Byte) (off : Nat) (x : Val) : Val × Flags :=
  let (a, fa) := imgVal img off
  let (b, fb) := imgVal img (off + 4)
  if !lin then (b, fb)
  else
    match x, a with
    | .inf _, .zero _ => (b, fa.or fb)
    | .inf s, _ => if a = .nan then (.nan, fa) else (.inf (s != a.sign), fa)
    | _, _ =>
      let (p, f1) := a.mulExact x
      let (v, f2) := p.addExact b
      (v, fa.or (fb.or (f1.or f2)))

/-- c0 + t × (c1 + t × c2) of a segment (R128), exact. -/
def segPoly (img : List Byte) (base i : Nat) (t : Rat) : Val × Flags :=
  let (c0, g0) := imgVal img (base + 12 * i)
  let (c1, g1) := imgVal img (base + 12 * i + 4)
  let (c2, g2) := imgVal img (base + 12 * i + 8)
  let (a, f1) := (Val.ofRat t).mulExact c2
  let (b, f2) := c1.addExact a
  let (e, f3) := (Val.ofRat t).mulExact b
  let (v, f4) := c0.addExact e
  (v, [g0, g1, g2, f1, f2, f3, f4].foldl Flags.or {})

/-- A value times 2^q; exponents beyond every format's range are cut where the result overflows or flushes just the same. -/
def Val.scaleBy (v : Val) (q : Int) : Val :=
  match v with
  | .num r => .num (r * pow2 (max (-2000) (min 2000 q)))
  | w => w

/-- The kinds of the forward and derivative tables of a library function, and the constants that R130 gives with them: 0 where it gives
none. -/
def libraryHead : Fin 8 → Nat × Nat × Nat × Nat
  | 0 => (1, 1, 0x3FB8AA3B, 0)
  | 6 => (2, 3, 0x3F317218, 0xBF800000)
  | _ => (0, 0, 0, 0)

/-- The image of a library function (R127, R130): the kinds and the constants as the spec gives them, everything else free (log entry 2). -/
def libraryImage (i : Fin 8) : List Byte :=
  let (fk, dk, kf, kd) := libraryHead i
  (List.range 6208).map fun n =>
    if n = 0 then BitVec.ofNat 8 fk
    else if n = 1 then BitVec.ofNat 8 dk
    else if n = 2 then BitVec.ofNat 8 ((Config.libraryByte i n).toNat % 16)
    else if n = 3 ∨ (0x34 ≤ n ∧ n < 0x40) then 0#8
    else if 0x0C ≤ n ∧ n < 0x10 ∧ kf ≠ 0 then BitVec.ofNat 8 (kf / 256 ^ (n - 0x0C))
    else if 0x30 ≤ n ∧ n < 0x34 ∧ kd ≠ 0 then BitVec.ofNat 8 (kd / 256 ^ (n - 0x30))
    else Config.libraryByte i n

/-- A table evaluated (R128, R129): exact, to be rounded once to the lane format. -/
def tableVal (img : List Byte) (deriv : Bool) (x : Val) : Val × Flags :=
  let kind := fieldAt img (b2n deriv) 1
  let sides := fieldAt img 2 1 / (if deriv then 4 else 1)
  let (k, fk) := imgVal img (if deriv then 0x30 else 0x0C)
  let sb := if deriv then 0x20 else 0x10
  let base := if deriv then 0xC40 else 0x40
  let low := sideVal (bitOf sides 0) img sb x
  let high := sideVal (bitOf sides 1) img (sb + 8) x
  let lo := imgF32 img 4
  let hi := imgF32 img 8
  let open_ : Val × Flags := ((decodeElem .f32 (Config.poleValue (0x100 + kind) (codeOf .f32 x))).1, {})
  if x = .nan then (.nan, { nanIn := true })
  else if kind < 2 then
    let (z, fz) := if kind = 0 then (x, {}) else
      let (m, fm) := k.mulExact x
      (m, fk.or fm)
    if z = .nan then (.nan, fz)
    else if z.lt lo then low
    else if !z.lt hi then high
    else if !z.finite then open_
    else if kind = 0 then
      (if lo.finite ∧ hi.finite then
        let u := (z.rat - lo.rat) * 256 / (hi.rat - lo.rat)
        segPoly img base u.floor.toNat (u - (u.floor : Rat))
      else open_)
    else
      let q := z.rat.floor
      let u := (z.rat - (q : Rat)) * 256
      let (p, fp) := segPoly img base u.floor.toNat (u - (u.floor : Rat))
      (p.scaleBy q, fk.or fp)
  else
    match x with
    | .zero _ => imgVal img (sb + 4)
    | .inf false => imgVal img (sb + 12)
    | .num r =>
      if r < 0 then (.nan, { invalid := true })
      else
        let e := floorLog2 r
        let u := (r * pow2 (-e) - 1) * 256
        let (p, fp) := segPoly img base u.floor.toNat (u - (u.floor : Rat))
        if kind = 2 then
          let (ke, f1) := k.mulExact (Val.ofRat (e : Rat))
          let (v, f2) := p.addExact ke
          (v, fk.or (fp.or (f1.or f2)))
        else (p.scaleBy ((k.rat * (e : Rat)).floor), fk.or fp)
    | _ => (.nan, { invalid := true })

/-- A function slot evaluated on an F32 input and rounded to the lane format by nearest-even (R128). -/
def funcVal (img : List Byte) (deriv : Bool) (f : Fmt) (x : Val) : Val × Flags := lane f (tableVal img deriv x)

/-- A function slot evaluated on a decoded operand: the input is brought to F32 first, since a table evaluates it there (R128,
R36, R37). -/
def funcOf (sat : Bool) (img : List Byte) (deriv : Bool) (f : Fmt) (v : Val) : Val × Flags :=
  let (x, f1) := narrowTo sat .f32 v
  let (y, f2) := funcVal img deriv f x
  (y, f1.or f2)

/-! Running a descriptor (R125). -/

/-- Bytes of `cnt` elements from element `e0` of a row of `n` elements: the packed elements, then their scales (R28). -/
def sliceRanges (f : Fmt) (n off e0 cnt : Nat) : List (Nat × Nat) :=
  (off + e0 * f.width / 8, cnt * f.width / 8) :: (if f.scaled then [(off + n * f.width / 8 + e0 / 32, cnt / 32)] else [])

/-- The bytes of several ranges, read one after the other by a port; none when one is poisoned. -/
def getAll (c : CoreId) (x : Slot) (env : IslandEnv) (port : Nat) : List (Nat × Nat) → Act (Option (List Byte))
  | [] => pure (some [])
  | (o, n) :: rest => do
    match ← spadGet c x env port o n with
    | none => pure none
    | some bs => do
      match ← getAll c x env port rest with
      | none => pure none
      | some more => pure (some (bs ++ more))

/-- Bytes written to several ranges, one after the other. False: the re-read of a merge failed. -/
def putAll (c : CoreId) (x : Slot) (env : IslandEnv) (port : Nat) : List (Nat × Nat) → List Byte → Act Bool
  | [], _ => pure true
  | (o, n) :: rest, bs => do
    let a ← spadPut c x env port o (bs.take n)
    let b ← putAll c x env port rest (bs.drop n)
    pure (a && b)

/-- Whether a command goes on with its next step: one whose slot is being saved stops at its step boundary (R91). -/
def stepsOn (d : Dev) (c : CoreId) (r : Run) : Bool := (slotOf d c r.q.slot).st != .saving || r.stall.isSome

/-- The cycles that the island stood frozen for a command's accesses are counted as it goes on (R94). -/
def countThaw (c : CoreId) (r : Run) : Act Unit := onlyIf r.stall.isSome (count .CORE_FREEZE_STREAM c.val r.q.env.strm)

/-- The lanes of a vector register as operands, with the flags of reading each (R35, R121). -/
def laneReads (d : Dev) (c : CoreId) (k : SlotId) (f : Fmt) (r cnt : Nat) : List (Val × Flags) :=
  (unpackCodes f.width cnt (bytesOf d (.vreg c k) (1024 * r) (cnt * f.width / 8))).map (decodeElem f)

/-- The lanes of a vector register (R121). -/
def laneVals (d : Dev) (c : CoreId) (k : SlotId) (f : Fmt) (r cnt : Nat) : List Val := (laneReads d c k f r cnt).map (·.1)

/-- The low lanes of a vector register set: masked lanes keep their contents (R125). -/
def setLanes (c : CoreId) (k : SlotId) (f : Fmt) (r : Nat) (vs : List Val) : Act Unit :=
  emit (.write (.vreg c k) (1024 * r) (packCodes f.width (vs.map (codeOf f))))

/-- The format a read of an operand decodes in (R144). -/
def readFmt (d : Dev) (c : CoreId) (p : PartId) (htag n : Nat) (o : VecOp) : Fmt :=
  (fmtOf (if o.gov then (govern d c p htag o.fmt n).fmt else o.fmt)).getD .f32

/-- What the governor does with the D write (R123, R142). -/
def dstGov (d : Dev) (c : CoreId) (p : PartId) (v : VecDesc) : Governed :=
  if v.dst.gov then govern d c p v.htag v.dst.fmt v.n else ⟨v.dst.fmt, none, none⟩

/-- The refusal code of a VOP or FUNC with its descriptor, if it is one (R140). DESIGN CHOICE (log entry 103): the format the
governor resolves is held against the checks, beside the named one for X8. -/
def vecFault (d : Dev) (c : CoreId) (x : Slot) (w : Nat) (bs : List Byte) : Option Nat :=
  let f := vopF w
  let v := vecDesc bs
  if !vecDescOk f.func bs then some 1
  else
    let ops := (v.ops.filter (·.used)).map (fun o => (o, readFmt d c x.part v.htag v.n o)) ++
      (if v.dst.used then [(v.dst, (fmtOf (dstGov d c x.part v).fmt).getD .f32)] else [])
    if ops.any fun (o, m) => o.fmt == 10 || m == .x8 || (m.scaled && v.lanes == 1) then some 2
    else if ops.any fun (_, m) => m.scaled && v.n % 32 != 0 then some 3
    else if f.func && !(ftabOf d c f.fslot).valid then some 4
    else if ops.any fun (o, m) => !x.rowsIn o.off o.pitch (rowBytes m v.n) v.rows then some 5
    else none

/-- The vector engine refuses a command and aborts its task (R140). -/
def vecRefuse (c : CoreId) (k : SlotId) (code : Nat) : Act Unit := do
  faultReg .VEC_FAULT c k code
  abortSlot c k 0x14 code

/-- The running command of the vector engine set. -/
def setVecRun (c : CoreId) (r : Option Run) : Act Unit := do
  let d ← look
  emit (.vec c { vecOf d c with run := r })

/-- An F32 scalar of a descriptor in a lane format: read as an operand, then narrowed (R124, R35, R37). -/
def scalarVal (sat : Bool) (f : Fmt) (w : Nat) : Val × Flags :=
  let (x, f1) := decodeElem .f32 w
  let (y, f2) := narrowTo sat f x
  (y, f1.or f2)

/-- The value of a chain source for every lane of a vector, with the flags of reading it (R124). -/
def chainSrc (d : Dev) (c : CoreId) (x : Slot) (k : SlotId) (f : Fmt) (v : VecDesc) (cnt : Nat) : Nat → List (Val × Flags)
  | 0x8 => List.replicate cnt (scalarVal (satWide d c x.part) f v.s0)
  | 0x9 => List.replicate cnt (scalarVal (satWide d c x.part) f v.s1)
  | 0xA => List.replicate cnt (.zero false, {})
  | 0xB => List.replicate cnt (.num 1, {})
  | r => laneReads d c k f r cnt

/-- The flags of many results. -/
def allFlags (rs : List (Val × Flags)) : Flags := rs.foldl (fun a r => a.or r.2) {}

/-- One chain word over a vector's lanes (R124, R125 step 3). -/
def runChainWord (c : CoreId) (x : Slot) (k : SlotId) (f : Fmt) (v : VecDesc) (cnt w : Nat) : Act Unit := do
  let d ← look
  let ar := (chainArity (bitsOf w 4 0)).getD 1
  let reads := ([bitsOf w 11 8, bitsOf w 15 12, bitsOf w 19 16].take ar).map (chainSrc d c x k f v cnt)
  let srcs := reads.map fun s => s.map (·.1)
  let rs := (List.range cnt).map fun i => chainOp f (bitsOf w 4 0) (srcs.map fun s => s.getD i (.zero false))
  setFlags c x.part (allFlags (rs ++ reads.flatMap id))
  setLanes c k f (bitsOf w 7 5) (rs.map (·.1))

/-- The loads of a vector (R125 steps 1 and 2): A, B and C in order, A through the function unit for a FUNC. -/
def vecLoads (c : CoreId) (x : Slot) (q : Queued) (f : Fmt) (v : VecDesc) (row e0 cnt : Nat) : List (Nat × VecOp) → Act Bool
  | [] => pure true
  | (i, o) :: rest => do
    let d ← look
    if !o.used then vecLoads c x q f v row e0 cnt rest
    else do
      let m := readFmt d c x.part v.htag v.n o
      match ← getAll c x q.env 3 (sliceRanges m v.n (o.off + row * o.pitch) e0 cnt) with
      | none => pure false
      | some bs => do
        let (vals, f1) := decodeRow m cnt bs
        let cf := vopF q.cmd
        let d ← look
        let sat := satWide d c x.part
        let rs := if cf.func && i == 0 then vals.map (funcOf sat (ftabOf d c cf.fslot).image (cf.fmode == 1) f)
          else vals.map (narrowTo sat f)
        setFlags c x.part (f1.or (allFlags rs))
        setLanes c q.slot f i (rs.map (·.1))
        vecLoads c x q f v row e0 cnt rest

/-- The vectors of a VOP or FUNC from where it stands, as far as the data is there (R125, R163); `fuel` bounds them. -/
def vecSteps (env : PartId → Env) (c : CoreId) (x : Slot) (q : Queued) (v : VecDesc) : Nat → Act Unit
  | 0 => pure ()
  | fuel + 1 => do
    let d ← look
    match (vecOf d c).run with
    | none => pure ()
    | some r => do
      let f := laneFmt v.lanes
      let lanes := laneCount v.lanes
      let per := ceilDiv v.n lanes
      if v.rows * per ≤ r.row ∨ !stepsOn d c r then pure ()
      else do
        let row := r.row / per
        let e0 := r.row % per * lanes
        let cnt := min lanes (v.n - e0)
        let g := dstGov d c x.part v
        let dm := (fmtOf g.fmt).getD .f32
        let reads := (v.ops.filter (·.used)).flatMap fun o =>
          (sliceRanges (readFmt d c x.part v.htag v.n o) v.n (o.off + row * o.pitch) e0 cnt)
        let writes := if v.dst.used then sliceRanges dm v.n (v.dst.off + row * v.dst.pitch) e0 cnt else []
        match blocked d c x (reads.map fun (o, n) => (3, o, n)) (writes.map fun (o, n) => (4, o, n)) with
        | some (.stall s) => setVecRun c (some { r with stall := some s })
        | some (.abort st detail strm) => stopAbort c q.slot st detail strm
        | none => do
          countThaw c r
          let ok ← vecLoads c x q f v row e0 cnt ((List.range 3).zip v.ops)
          if !ok then abortSlot c q.slot 0x18 0
          else do
            each v.chain (runChainWord c x q.slot f v cnt)
            let d ← look
            let out := laneVals d c q.slot f v.outr cnt
            let w : WriteMode := ⟨g.rnd.getD (roundMode d c x.part v.dst.rnd), satWide d c x.part, x.seed⟩
            let (bs, fl, fates) := encodeRow dm w (row * v.n + e0) none out
            let hist ← if v.dst.used then histogram (env x.part) c x.part v.htag out fates else pure true
            if !hist then abortSlot c q.slot 0x18 0
            else do
              onlyIf v.dst.used do
                setFlags c x.part fl
                onlyIf (e0 == 0 && v.dst.gov && v.htag != 0) (onSome g.ctr fun n => count n c.val 1)
              let put ← if v.dst.used then putAll c x q.env 4 writes bs else pure true
              let bytes (rs : List (Nat × Nat)) : Nat := (rs.map (·.2)).foldl (· + ·) 0
              let t := max (max (ceilDiv (bytes reads) 256) (ceilDiv (bytes writes) 256)) (max (v.chain.length + b2n (vopF q.cmd).func) 1)
              count .VEC_VECTOR_COUNT c.val 1
              count .VEC_FUNC_COUNT c.val (b2n (vopF q.cmd).func)
              count .VEC_BUSY_CYCLES c.val t
              if !put then abortSlot c q.slot 0x18 0
              else do
                setVecRun c (some { r with row := r.row + 1, stall := none })
                vecSteps env c x q v fuel

/-- Vectors of a descriptor. -/
def VecDesc.steps (v : VecDesc) : Nat := v.rows * ceilDiv v.n (laneCount v.lanes)

/-- Whether a running VOP or FUNC has done its last vector. -/
def vecDone (r : Run) : Bool := !r.q.desc.isEmpty && decide ((vecDesc r.q.desc).steps ≤ r.row)

/-- A VOP or FUNC begins or goes on (R125, R126, R131): its descriptor is read in the first of its fixed cycles. -/
def runVec (env : PartId → Env) (c : CoreId) (r : Run) : Act Unit := do
  let d ← look
  let x := slotOf d c r.q.slot
  let f := vopF r.q.cmd
  if !r.q.desc.isEmpty then vecSteps env c x r.q (vecDesc r.q.desc) ((vecDesc r.q.desc).steps + 1)
  else if !vopOk r.q.cmd then vecRefuse c r.q.slot 1
  else if !x.inWindow f.desc 64 then vecRefuse c r.q.slot 5
  else
    match blocked d c x [(3, f.desc, 64)] [] with
    | some (.stall s) => setVecRun c (some { r with stall := some s })
    | some (.abort st detail strm) => stopAbort c r.q.slot st detail strm
    | none => do
      countThaw c r
      match ← spadGet c x r.q.env 3 f.desc 64 with
      | none => abortSlot c r.q.slot 0x18 0
      | some bs => do
        let d ← look
        match vecFault d c x r.q.cmd bs with
        | some code => vecRefuse c r.q.slot code
        | none => do
          let v := vecDesc bs
          bankMeets c r.q.env
          count .VEC_BUSY_CYCLES c.val (if f.func then 16 else 12)
          let q := { r.q with desc := bs }
          setVecRun c (some { r with q := q, stall := none })
          vecSteps env c x q v (v.steps + 1)

end Sys2Proof.Machine
end

