-- ==== Sys2Proof/Machine/Links.lean ====
section
/-! DEFINITION. The optical links (file 12, R327–R347): bring-up, data and link frames, replay, lane narrowing, classes and credits,
and routes. -/

namespace Sys2Proof.Machine

/-- Whether a link carries traffic (R330). -/
def Link.live (x : Link) : Bool := x.st == .up || x.st == .narrow

/-- The bits set in a mask. -/
def popcount (m : Nat) : Nat := ((List.range 32).filter fun i => bitOf m i).length

/-- The lanes of a link under its engine's bond, as engine lanes; none when the engine has no such link (R328). -/
def linkLanes (d : Dev) (l : LinkId) : Option (List Nat) :=
  let bond := bitsOf (regOf d .TYL_ENG_CTRL (l.val / 4)) 7 6
  let port := l.val % 4
  match bond with
  | 0 => some ((List.range 8).map (· + 8 * port))
  | 1 => if port % 2 = 0 then some ((List.range 16).map (· + 8 * port)) else none
  | 2 => if port = 0 then some (List.range 32) else none
  | _ => none

/-- The lanes of a link that trains or has trained: a later write of bond waits for the next training (R361). -/
def Link.trained (x : Link) (l : LinkId) : List Nat := (List.range x.lanes).map (· + 8 * (l.val % 4))

/-- A list of lanes as a mask. -/
def laneMask (ls : List Nat) : Nat := ls.foldl (fun m i => m ||| 2 ^ i) 0

/-- The fewest lanes a link may run on (R361). -/
def minLanes (d : Dev) (l : LinkId) : Nat := bitsOf (regOf d .TYL_LANE_CTRL (l.val / 4)) 11 6

/-- A link set. -/
def setLink (l : LinkId) (x : Link) : Act Unit := emit (.link l x)

/-- UP or NARROW by the lanes that carry traffic in both directions (R330). -/
def Link.widthSt (x : Link) : LinkSt := if popcount x.txMask = x.lanes ∧ popcount x.rxMask = x.lanes then .up else .narrow

/-- The words of a data frame (R333, R334). -/
def frameWords (f : Frame) : List Nat :=
  let m := f.bytes.length / 8
  let short := decide (m < 32)
  let head := f.seq % 4096 * 2 ^ 50 + f.cls % 8 * 2 ^ 47 + b2n f.tail * 2 ^ 46 + b2n short * 2 ^ 45 + f.dst % 4096 * 2 ^ 33 +
    b2n f.ctl * 2 ^ 32 + f.handle % 2 ^ 32
  head :: (if short then padTo 31 0 (dwords m f.bytes) ++ [m] else dwords 32 f.bytes)

/-- A data frame read from its words (R333, R334); none for a reserved class or short count. -/
def frameOf (ws : List Nat) : Option Frame :=
  let h := ws.getD 0 0
  let short := bitOf h 45
  let m := if short then bitsOf (ws.getD 32 0) 4 0 else 32
  if 4 < bitsOf h 49 47 ∨ m = 0 then none
  else some ⟨bitsOf h 61 50, bitsOf h 49 47, bitOf h 46, bitsOf h 44 33, bitOf h 32, bitsOf h 31 0,
    ((ws.drop 1).take m).flatMap (leBytes 8), false⟩

/-- The words of a link frame (R335): a confirmation pending goes before a request pending. -/
def linkFrameWords (x : Link) (nak : Bool) : List Nat :=
  let f (k : Nat) : Nat := x.freed.getD k 0 % 65536
  let w3 := match x.lcnf, x.lreq with
    | some (m, s), _ => 2 ^ 62 + s % 4096 * 2 ^ 50 + m
    | none, some m => 2 ^ 63 + m
    | none, none => 0
  [2 ^ 62 + x.rxSeq % 4096 * 2 ^ 50 + b2n nak * 2 ^ 49, f 1 * 2 ^ 48 + f 2 * 2 ^ 32 + f 3 * 2 ^ 16 + f 4, f 0, w3] ++ List.replicate 29 0

/-- A link frame is sent (R336): everything received is acknowledged by it. -/
def sendLinkFrame (l : LinkId) (nak : Bool) : Act Unit := do
  let d ← look
  let x := linkOf d l
  emit (.out (.frame l (linkFrameWords x nak) []))
  setLink l { x with got := 0, owe := false }

/-- The frames that a class may have outstanding (R343, R362). -/
def Link.allot (x : Link) (k : Nat) : Nat := if k = 0 then 8 else 16 * bitsOf x.crd (31 - 8 * (k - 1)) (24 - 8 * (k - 1))

/-- Frames of a class sent and not reported freed. -/
def Link.outst (x : Link) (k : Nat) : Nat := (x.sent.getD k 0 + 65536 - x.freedIn.getD k 0 % 65536) % 65536

/-- Whether a class has a frame ready and a credit for it (R343). -/
def Link.ready (x : Link) (k : Nat) : Bool := !(x.q.getD k []).isEmpty && decide (x.outst k < x.allot k)

/-- A data class's weight; 0 is taken as 1 (R362). -/
def Link.weight (x : Link) (k : Nat) : Nat := max 1 (bitsOf x.cls (15 - 4 * (k - 1)) (12 - 4 * (k - 1)))

/-- The class that sends next: C first, then deficit round robin; with the turn and the quantum after it (R343). -/
def Link.nextClass (x : Link) : Option (Nat × Nat × Nat) :=
  if x.ready 0 then some (0, x.turn, x.quantum)
  else if 0 < x.quantum ∧ x.ready (x.turn + 1) then some (x.turn + 1, x.turn, x.quantum - 1)
  else
    let cand := [1, 2, 3, 4].map fun i => (x.turn + i) % 4
    match cand.find? fun t => x.ready (t + 1) with
    | some t => some (t + 1, t, x.weight (t + 1) - 1)
    | none => none

/-- The frames of replay buffer that a link may hold (R337). -/
def Link.share (x : Link) : Nat := 2048 * x.lanes / 32

/-- A class's queue after its head participant sent one frame: at the end of a message the turn moves on when the participant has used
its weight or has nothing left (R344). -/
def queueNext (q : List TxQ) (served : Nat) : Option (Frame × Talker) × List TxQ × Nat :=
  match q with
  | [] => (none, [], 0)
  | t :: rest =>
    match t.msgs with
    | [] => (none, rest, 0)
    | [] :: ms => (none, (if ms.isEmpty then rest else rest ++ [{ t with msgs := ms, begun := false }]), 0)
    | (f :: []) :: ms =>
      if ms.isEmpty then (some (f, t.who), rest, 0)
      else if t.weight ≤ served + 1 then (some (f, t.who), rest ++ [{ t with msgs := ms, begun := false }], 0)
      else (some (f, t.who), { t with msgs := ms, begun := false } :: rest, served + 1)
    | (f :: fs) :: ms => (some (f, t.who), { t with msgs := fs :: ms, begun := true } :: rest, served)

/-- A received frame's credit reaches the sender by the next link frame (R343). -/
def freeNow (l : LinkId) (k : Nat) : Act Unit := do
  let d ← look
  let x := linkOf d l
  setLink l { x with freed := x.freed.set k ((x.freed.getD k 0 + 1) % 65536), owe := true }

/-- A received frame's credit is freed on the link it came over (R343), unless perturbation holds it (R544, R545). -/
def freeCredit (l : LinkId) (k : Nat) : Act Unit := creditBack (blockLink l.val) 3 k (freeNow l k)

/-- The word of a frame that carries an injected error (R331, R547): one that travels on the injection's lane; at which word of the stream a
unit begins is not known (log entry 2). -/
def injectFrame (l : LinkId) (x : Link) : Act (List Nat) := do
  let d ← look
  let b := dbgOf d (blockLink l.val)
  let lanes := (List.range 32).filter fun i => bitOf x.txMask i
  if b.pends 2 ∧ lanes.contains b.lane then do
    let u ← draw
    let n := lanes.length
    injected (blockLink l.val) 1
    pure [((List.range n).find? fun w => lanes.getD ((33 * u + w) % n) 0 == b.lane).getD 0]
  else pure []

/-- Frames leave a link while classes have credit and the replay buffer has room (R337, R343); `fuel` bounds them. -/
def pumpLink (l : LinkId) : Nat → Act Unit
  | 0 => pure ()
  | fuel + 1 => do
    let d ← look
    let x := linkOf d l
    if !x.live || decide (x.share ≤ x.kept.length) then pure ()
    else
      match x.nextClass with
      | none => pure ()
      | some (k, turn, quantum) => do
        let (out, q, served) := queueNext (x.q.getD k []) (x.served.getD k 0)
        match out with
        | none => do
          setLink l { x with q := x.q.set k q, served := x.served.set k served }
          pumpLink l fuel
        | some (f, who) => do
          let f := { f with seq := x.seq }
          setLink l { x with
            q := x.q.set k q, served := x.served.set k served, turn := turn, quantum := quantum,
            seq := (x.seq + 1) % 4096, kept := x.kept ++ [f], sent := x.sent.set k ((x.sent.getD k 0 + 1) % 65536) }
          let bad ← injectFrame l x
          emit (.out (.frame l (frameWords f) bad))
          grant 2 1
          count .TYL_TX_FRAMES l.val 1
          match who with
          | .transit i => freeCredit i k
          | .chan _ => pure ()
          pumpLink l fuel

/-- Frames enough for whatever waits on a link. -/
def pumpAll (l : LinkId) : Act Unit := do
  let d ← look
  let x := linkOf d l
  pumpLink l ((x.q.flatMap fun c => c.flatMap fun (t : TxQ) => t.msgs).foldl (fun n m => n + m.length + 1) 8)

/-- The link by which traffic to a module leaves (R346). -/
def routeOf (d : Dev) (dst : Nat) : Option LinkId :=
  let pa := bitsOf (regOf d .TYL_ROUTE_HI 0) 6 0 * 2 ^ 32 + regOf d .TYL_ROUTE_LO 0 / 16384 * 16384 + 4 * dst
  if !(badIn d .pile pa 4).isEmpty then none
  else
    let e := leNat (bytesOf d .pile pa 4)
    let prim : LinkId := Fin.ofNat 64 (bitsOf e 29 24)
    let alt : LinkId := Fin.ofNat 64 (bitsOf e 21 16)
    if bitOf e 31 && (linkOf d prim).live then some prim
    else if bitOf e 30 && (linkOf d alt).live then some alt
    else none

/-- A message of a participant queued on a link's class (R344). -/
def enqueue (l : LinkId) (who : Talker) (weight k : Nat) (fs : List Frame) : Act Unit := do
  let d ← look
  let x := linkOf d l
  let q := x.q.getD k []
  let q' := if q.any fun t => t.who == who then q.map fun t => if t.who = who then { t with msgs := t.msgs ++ [fs] } else t
    else q ++ [⟨who, weight, [fs], false⟩]
  setLink l { x with q := x.q.set k q' }
  pumpAll l

/-- A message cut into frames of 256 bytes (R334); `rma` notes one of remote memory access (R357). -/
def cutFrames (k dst handle : Nat) (ctl rma : Bool) : Nat → List Byte → List Frame
  | 0, _ => []
  | fuel + 1, bs =>
    if bs.length ≤ 256 then [⟨0, k, true, dst, ctl, handle, bs, rma⟩]
    else ⟨0, k, false, dst, ctl, handle, bs.take 256, rma⟩ :: cutFrames k dst handle ctl rma fuel (bs.drop 256)

/-- The module's own ID (R346): as it stood when a link last began to train (R361); before any has, the register's. -/
def ownId (d : Dev) : Nat := d.fw.tylId.getD (bitsOf (regOf d .TYL_ID 0) 11 0)

/-- A message sent: to the module itself through the fabric, else over its route; with no usable route its frames are discarded and
counted (R346). Answers the link taken. -/
def sendMsg (who : Talker) (weight k dst handle : Nat) (ctl tail : Bool) (bs : List Byte) (rma : Bool := false) : Act (Option LinkId) := do
  let d ← look
  if dst = ownId d then do
    emit (.out (.delivered handle ctl tail bs))
    pure none
  else
    let fs := cutFrames k dst handle ctl rma (bs.length / 256 + 1) bs
    match routeOf d dst with
    | none => do
      count .TYL_NOROUTE 0 fs.length
      pure none
    | some l => do
      enqueue l who weight k fs
      pure (some l)

/-- Every retained frame from ack onwards is sent again (R337). -/
def replay (l : LinkId) : Act Unit := do
  let d ← look
  let x := linkOf d l
  onlyIf (!x.kept.isEmpty) do
    each x.kept fun f => emit (.out (.frame l (frameWords f) []))
    count .TYL_REPLAY_FRAMES l.val x.kept.length
    setLink l { x with stuck := x.stuck + 1 }
    corrected

/-- The requests of remote memory access that an end has sent and that are not answered: those that still wait for their turn, or that are held
back, have not been sent (R347, R357). -/
def Chan.asked (c : Chan) : Nat :=
  c.reqs.length - c.wait.length - (c.back.filter fun fs => (fs.head?.map fun f => f.rma && (fieldAt f.bytes 0 1 == 1 || fieldAt f.bytes 0 1 == 3)).getD false).length

/-- Whether a message that an end has really sent has not landed, or a request is not answered (R347). -/
def Chan.flying (c : Chan) : Bool :=
  decide (c.pLanded + (c.back.filter fun fs => (fs.head?.map fun f => !f.rma).getD false).length < c.sent) || decide (0 < c.asked)

/-- A link leaves service: credits and sequence state are cleared, retained frames discarded, and the audit records every outstanding
credit of the link as returned (R330, R347). Channels that lost a frame fail through `chanFail`; another that used it and has messages in
flight holds what it has not sent until they have landed; what else waits is routed anew. -/
def dropLink (chanFail : ChanIdx → Act Unit) (l : LinkId) (st : LinkSt) : Act Unit := do
  let d ← look
  let x := linkOf d l
  if !x.live && x.st == st then pure ()
  else do
    let n := ((List.range 5).map x.outst).foldl (· + ·) 0
    let waiting := (List.range 5).flatMap fun k => (x.q.getD k []).map fun t => (k, t)
    setLink l { Link.empty with st := st, downs := x.downs }
    dropHeld (blockLink l.val) fun h => h.1 == 3
    giveBack 2 n
    onlyIf (st == .failed) (count .TYL_LINK_FAILS l.val 1)
    let hit (i : ChanIdx) (c : Chan) : Bool :=
      x.kept.any (fun f => f.dst == c.peer && f.handle == c.peerH) || waiting.any fun (_, t) => t.who == .chan i && t.begun
    each d.chans fun (i, c) =>
      if hit i c then chanFail i
      else
        let mine := (waiting.filter fun (_, t) => t.who == .chan i).flatMap fun (_, t) => t.msgs.filter fun fs => (fs.head?.map fun f => !f.ctl).getD false
        let y := { c with back := c.back ++ mine }
        onlyIf (c.link == some l && y.flying && (c.st == .opened || c.st == .closing)) (emit (.chan i (some { y with hold := true })))
    each waiting fun (k, t) =>
      each (if t.begun then t.msgs.drop 1 else t.msgs) fun fs =>
        onSome fs.head? fun f => do
          let d ← look
          let held : Bool := match t.who with
            | .chan i => !f.ctl && ((chanOf d i).map fun c => c.hold || c.st == .failed).getD false
            | _ => false
          if held then pure ()
          else match routeOf d f.dst with
          | some r => enqueue r t.who t.weight k fs
          | none => do
            count .TYL_NOROUTE 0 fs.length
            match t.who with
            | .transit i => each fs fun _ => freeCredit i k
            | .chan _ => pure ()

/-- A frame received intact and in order goes to its channel end or onward (R343, R346). A message for this module is handed to its end
when its last frame has come. -/
def takeFrame (l : LinkId) (f : Frame) : Act Unit := do
  let d ← look
  if f.dst = ownId d then do
    let key := f.handle * 2 + b2n f.ctl
    let sofar := (tabFind d.asm key).getD []
    if f.tail then do
      emit (.asm key none)
      emit (.out (.delivered f.handle f.ctl true (sofar ++ f.bytes)))
    else emit (.asm key (some (sofar ++ f.bytes)))
    freeCredit l f.cls
  else
    match routeOf d f.dst with
    | none => do
      count .TYL_NOROUTE 0 1
      freeCredit l f.cls
    | some r => do
      count .TYL_TRANSIT_FRAMES r.val 1
      enqueue r (.transit l) 16 f.cls [f]

/-- A data frame arrives (R338): accepted when it is the expected one and all its parity bits check, else discarded and NAKed. -/
def doDataFrame (l : LinkId) (words : List Nat) (bad : List Nat) : Act Unit := do
  let d ← look
  let x := linkOf d l
  if !x.live then pure ()
  else
    let good := bad.isEmpty && bitsOf (words.getD 0 0) 63 62 == 0
    match good, frameOf words with
    | true, some f =>
      if f.seq = x.rxSeq then do
        setLink l { x with rxSeq := (x.rxSeq + 1) % 4096, nak := false, got := x.got + 1, owe := true }
        takeFrame l f
      else if x.nak then pure ()
      else do
        setLink l { x with nak := true }
        count .TYL_NAK_SENT l.val 1
        sendLinkFrame l true
    | _, _ =>
      if x.nak then pure ()
      else do
        setLink l { x with nak := true }
        count .TYL_NAK_SENT l.val 1
        sendLinkFrame l true

/-- The expected frame has not arrived within the replay interval: the NAK is sent again (R338). -/
def doNakRepeat (l : LinkId) : Act Unit := do
  let d ← look
  onlyIf ((linkOf d l).live && (linkOf d l).nak) do
    count .TYL_NAK_SENT l.val 1
    sendLinkFrame l true

/-- Retained frames that an ack passes (R337). -/
def ackFrames (kept : List Frame) (next ack : Nat) : List Frame :=
  if ack = next then [] else if kept.any (fun f => f.seq == ack) then kept.dropWhile fun f => f.seq != ack else kept

/-- A link frame arrives (R335–R337, R341): acks, credits, NAK, lane requests and confirmations. With any parity error it is
discarded. A NAK whose oldest frame has been replayed 16 times fails the link. -/
def doLinkFrame (chanFail : ChanIdx → Act Unit) (l : LinkId) (words : List Nat) (bad : List Nat) : Act Unit := do
  let d ← look
  let x := linkOf d l
  let w (i : Nat) : Nat := words.getD i 0
  if !x.live || !bad.isEmpty || bitsOf (w 0) 63 62 != 1 then pure ()
  else do
    let ack := bitsOf (w 0) 61 50
    let kept := ackFrames x.kept x.seq ack
    let freedIn := [bitsOf (w 2) 15 0, bitsOf (w 1) 63 48, bitsOf (w 1) 47 32, bitsOf (w 1) 31 16, bitsOf (w 1) 15 0]
    let gain (k : Nat) : Nat := min (x.outst k) ((freedIn.getD k 0 + 65536 - x.freedIn.getD k 0 % 65536) % 65536)
    let mask := bitsOf (w 3) 31 0
    let lreq := bitOf (w 3) 63
    let lcnf := bitOf (w 3) 62
    let fresh := lreq && x.lcnf.map (·.1) != some mask
    let y : Link := { x with
      kept := kept,
      stuck := (if kept.length < x.kept.length then 0 else x.stuck),
      freedIn := freedIn,
      rxMask := (if lcnf then mask else x.rxMask),
      lreq := (if lcnf ∧ x.lreq = some mask then none else x.lreq),
      txMask := (if lreq then mask else x.txMask),
      lcnf := (if fresh then some (mask, x.seq) else if lreq then x.lcnf else none) }
    setLink l { y with st := y.widthSt }
    giveBack 2 (((List.range 5).map gain).foldl (· + ·) 0)
    onlyIf fresh (sendLinkFrame l false)
    onlyIf (bitOf (w 0) 49) (if 16 ≤ y.stuck then dropLink chanFail l .failed else replay l)
    pumpAll l

/-- 64 data frames have come with an ack or credit to return: a link frame goes (R336). -/
def doLinkFrameDue (l : LinkId) : Act Unit := do
  let d ← look
  let x := linkOf d l
  onlyIf (x.live && x.owe && decide (64 ≤ x.got)) (sendLinkFrame l false)

/-- ack has not advanced for 2 × RTT + 100 ns: the sender replays; after 16 replays of one oldest frame the link fails (R337). -/
def doReplayTimer (chanFail : ChanIdx → Act Unit) (l : LinkId) : Act Unit := do
  let d ← look
  let x := linkOf d l
  if !x.live || x.kept.isEmpty then pure ()
  else if 16 ≤ x.stuck then dropLink chanFail l .failed
  else replay l

/-- A lane is taken down (R340, R341): the receiver asks for the mask without it, or the link fails. -/
def laneDown (chanFail : ChanIdx → Act Unit) (l : LinkId) (lane : LaneId) : Act Unit := do
  let d ← look
  let x := linkOf d l
  let mask := x.lreq.getD x.rxMask
  if !x.live || !bitOf mask lane.val then pure ()
  else do
    count .TYL_LANE_DOWNS l.val 1
    let new := mask - 2 ^ lane.val
    let downs := tabPut x.downs lane (tabGet x.downs lane 0 + 1)
    if popcount new < minLanes d l then do
      setLink l { x with downs := downs }
      dropLink chanFail l .failed
    else do
      setLink l { x with downs := downs, lreq := some new }
      corrected
      logAt 2 2 none
      sendLinkFrame l false

/-- A down lane has shown no error for readmit_s: the receiver asks for the wider mask, unless the lane went down more than flap_max
times (R342). -/
def laneReadmit (l : LinkId) (lane : LaneId) (lnkRuns : Bool) : Act Unit := do
  let d ← look
  let x := linkOf d l
  let mask := x.lreq.getD x.rxMask
  let mine := (x.trained l).contains lane.val
  onlyIf (x.live && lnkRuns && mine && !bitOf mask lane.val &&
      decide (tabGet x.downs lane 0 ≤ bitsOf (regOf d .TYL_LANE_CTRL (l.val / 4)) 15 12)) do
    setLink l { x with lreq := some (mask ||| 2 ^ lane.val) }
    sendLinkFrame l false

/-- Training begins (R329): an enabled engine's links; at the basic level LNK first writes weights and allotments (R362). -/
def startTraining (l : LinkId) (basic : Bool) (retry : Bool) : Act Unit := do
  let d ← look
  let x := linkOf d l
  match linkLanes d l with
  | none => pure ()
  | some ls =>
    let from_ := if retry then x.st == .failed else x.st == .down || x.st == .failed
    onlyIf (from_ && bitOf (regOf d .TYL_ENG_CTRL (l.val / 4)) 5) do
      onlyIf basic do
        setReg .TYL_LINK_CLS l.val 0 0x8422
        setReg .TYL_LINK_CRD l.val 0 (if ls.length = 32 then 0x40201010 else if ls.length = 16 then 0x20100808 else 0x10080404)
      emit (.fw { d.fw with tylId := some (bitsOf (regOf d .TYL_ID 0) 11 0) })
      setLink l { Link.empty with st := .training, lanes := ls.length }

/-- Training ends (R329): the link carries traffic, or fails. -/
def endTraining (l : LinkId) (r : TrainResult) : Act Unit := do
  let d ← look
  let x := linkOf d l
  onlyIf (x.st == .training) do
    let mask := r.lanesOk.toNat &&& laneMask (x.trained l)
    if popcount mask < minLanes d l ∨ r.peerWidth ≠ x.lanes ∨ 4096 < r.rttNs then do
      setLink l { x with st := .failed }
      count .TYL_LINK_FAILS l.val 1
    else
      setLink l { x with
        st := (if popcount mask = x.lanes then .up else .narrow),
        peer := r.peer.toNat, peerEng := r.peerEng.toNat, peerPort := r.peerPort.toNat, rtt := r.rttNs,
        txMask := mask, rxMask := mask, crd := regOf d .TYL_LINK_CRD l.val, cls := regOf d .TYL_LINK_CLS l.val }

/-- A training step overruns its bound (R329). -/
def trainingOverrun (l : LinkId) : Act Unit := do
  let d ← look
  let x := linkOf d l
  onlyIf (x.st == .training) do
    setLink l { x with st := .failed }
    count .TYL_LINK_FAILS l.val 1

/-- An engine is disabled: its links are DOWN (R330). -/
def engineDown (chanFail : ChanIdx → Act Unit) (e : Nat) : Act Unit :=
  each ((allLinks).filter fun l => l.val / 4 == e) fun l => dropLink chanFail l .down

end Sys2Proof.Machine
end

