-- ==== Sys2Proof/Machine/ChanOps.lean ====
section
/-! DEFINITION. What every user of a channel shares (file 12, R348–R357): handles, maintenance messages, the sending of messages as
credit allows, the ring of received messages, and remote requests. -/

namespace Sys2Proof.Machine

/-- The handle of an end (R348). -/
def Chan.handle (c : Chan) (i : ChanIdx) : Nat := c.part.val * 2 ^ 28 + c.gen % 4096 * 2 ^ 16 + i.val

/-- The live end that a handle names (R348). -/
def chanBy (d : Dev) (h : Nat) : Option (ChanIdx × Chan) :=
  let i : ChanIdx := Fin.ofNat 65536 (bitsOf h 15 0)
  match chanOf d i with
  | some c => if c.handle i = h % 2 ^ 32 ∧ c.st ≠ .free then some (i, c) else none
  | none => none

/-- The OPEN end of a partition that a handle names. -/
def openChan (d : Dev) (p : PartId) (h : Nat) : Option (ChanIdx × Chan) :=
  match chanBy d h with
  | some (i, c) => if c.part = p ∧ c.st = .opened then some (i, c) else none
  | none => none

/-- What a partition's accesses depend on outside its tables: its generation's parity, and the channels with remote memory access that
its tier-2 records may name (R242, R315, R319). -/
def envOf (d : Dev) (p : PartId) : Env :=
  ⟨(escOf d p).gen % 2 == 1, fun h => ((openChan d p h).map fun ic => ic.2.rma).getD false⟩

/-- A channel set. -/
def setChan (i : ChanIdx) (c : Chan) : Act Unit := emit (.chan i (some c))

/-- Bytes of a ring slot (R349). -/
def Chan.slotBytes (c : Chan) : Nat := 256 * 2 ^ c.slotK

/-- Bytes of a ring with its status words (R349). -/
def Chan.ringBytes (c : Chan) : Nat := c.slots * c.slotBytes + 8 * c.slots

/-- A maintenance message of an end (R350). -/
def maintBytes (d : Dev) (i : ChanIdx) (c : Chan) (type : Nat) : List Byte :=
  leBytes 1 type ++ leBytes 1 (c.cls * 32 + c.kind * 8 + c.slotK) ++ leBytes 2 (ownId d) ++ leBytes 4 (c.handle i) ++ leBytes 4 c.slots ++
    leBytes 4 c.landed ++ leBytes 4 c.freed ++ leBytes 4 c.rmaDone ++ leBytes 8 0

/-- A maintenance message sent (R350). -/
def sendMaint (i : ChanIdx) (type : Nat) : Act Unit := do
  let d ← look
  onSome (chanOf d i) fun c => do
    let _ ← sendMsg (.chan i) c.weight 0 c.peer c.peerH true true (maintBytes d i c type)
    pure ()

/-- STATUS sent (R352): landed, freed and rma_done as they stand. -/
def sendStatus (i : ChanIdx) : Act Unit := do
  sendMaint i 3
  let d ← look
  onSome (chanOf d i) fun c => setChan i { c with said := (c.landed, c.freed), changed := false }

/-- An end is freed: its index goes to the end of the free list and its handle returns (R348, R351). -/
def freeChan (i : ChanIdx) : Act Unit := do
  let d ← look
  onSome (chanOf d i) fun _ => do
    emit (.chan i none)
    emit (.chanList d.chanNew (d.chanOld ++ [i.val]))
    giveBack 4 1

/-- A task's command that a channel carries cannot go on: its task is aborted and the fault recorded (R358). -/
def chanAbort (c : CoreId) (p : PartId) (tid source code addr : Nat) : Act Unit := do
  let d ← look
  onSome (taskOf d p tid) fun t => do
    onSome t.core fun ck => strmFault ck.1 ck.2 0 source code addr
    onlyIf t.core.isNone (strmFault c 0 0 source code addr)
    abortTask p tid 0x15 code

/-- The exchange engine of a die cannot carry out a command (R386): the first fault is recorded and the task aborted. Code 0x18 stands for a
poisoned word (R501) and 0x10B for the source timeout of a lost spill target (R206), which XCH_FAULT does not record. -/
def xchFault (die : DieId) (c : CoreId) (k : SlotId) (p : PartId) (tid code : Nat) : Act Unit := do
  if code = 0x18 then abortTask p tid 0x18 0
  else if code = 0x10B then abortTask p tid 0x15 0xB
  else do
    let d ← look
    onlyIf (!bitOf (regOf d .XCH_FAULT die.val) 31) (setReg .XCH_FAULT die.val 0 (2 ^ 31 + c.val * 2 ^ 16 + k.val * 16 + code))
    abortTask p tid 0x17 code

/-- A channel of a round fails before its messages are accepted (R385, R386): the command's task is aborted. -/
def roundFail (id : Nat) : Act Unit := do
  let d ← look
  each d.xchs fun (die, x) =>
    each (x.rounds.filter fun (r : Round) => r.id == id && !r.cmdDone) fun r => do
      let d ← look
      let y := xchOf d die
      emit (.xch die { y with rounds := y.rounds.map fun (z : Round) => if z.id = id then { z with cmdDone := true } else z })
      xchFault die r.c r.k r.p r.tid 8

/-- A task's command on a core completes and advances its event counter, wherever the task now is (R88, R91). -/
def doneCmd (c : CoreId) (p : PartId) (tid seq : Nat) (ctr : Option Nat) : Act Unit := do
  onSome ctr (bumpEvent c (p, tid))
  completeCmd p tid seq

/-- The bytes of a message when its turn comes (R355); none when a word is poisoned or a page faults. -/
def srcBytes (p : PartId) : Src → Act (Except Nat (List Byte))
  | .bytes bs => pure (.ok bs)
  | .spad c a n => do
    let d ← look
    if (badIn d (.spad c) a n).isEmpty then pure (.ok (bytesOf d (.spad c) a n)) else pure (.error 0)
  | .va va n => do
    let d ← look
    match ← vaRead (envOf d p) p { stream := true } va n with
    | .ok (bs, []) => pure (.ok bs)
    | .ok _ => pure (.error 0)
    | .error (code, _) => pure (.error code)
  | .contrib c va a n head fmt rnd seed => do
    let d ← look
    let r ← (if va then vaRead (envOf d p) p { stream := true } a (4 * n)
      else pure (.ok (bytesOf d (.spad c) a (4 * n), badIn d (.spad c) a (4 * n))))
    match r with
    | .error (code, _) => pure (.error code)
    | .ok (bs, bad) =>
    if bad.isEmpty then do
      let (vs, f1) := decodeRow .f32 n bs
      let (bs, f2, _) := encodeRow ((fmtOf fmt).getD .f32) ⟨rnd, satWide d c p, seed⟩ (fieldAt head 0x10 4) none vs
      setFlags c p (f1.or f2)
      let pay := head ++ bs
      pure (.ok (padTo ((pay.length + 7) / 8 * 8) 0#8 pay))
    else pure (.error 0)

/-- Where in memory a message's bytes lie, if they do. -/
def Src.from? : Src → Option Nat
  | .va at_ _ => some at_
  | .contrib _ true a _ _ _ _ _ => some a
  | _ => none

/-- Messages of an end leave while the peer has ring slots for them (R352); `fuel` bounds them. -/
def pumpChan (i : ChanIdx) : Nat → Act Unit
  | 0 => pure ()
  | fuel + 1 => do
    let d ← look
    match chanOf d i with
    | none => pure ()
    | some c =>
      if (c.st ≠ .opened ∧ c.st ≠ .closing) ∨ c.hold ∨ c.pFreed + c.pSlots ≤ c.sent then pure ()
      else
        match c.jobs with
        | [] => pure ()
        | j :: js =>
          match j.msgs with
          | [] => do
            setChan i { c with jobs := js, sents := c.sents ++ [⟨j.owner, c.sent - 1, j.bytes⟩] }
            pumpChan i fuel
          | m :: ms => do
            match ← srcBytes c.part m.src with
            | .error code => do
              setChan i { c with jobs := js }
              match j.owner with
              | .task co p tid _ _ _ =>
                if code = 0 then do
                  setHurt p tid m.src.from?
                  abortTask p tid 0x18 0
                else chanAbort co p tid 1 code 0
              | _ => pure ()
              pumpChan i fuel
            | .ok bs => do
              let l ← sendMsg (.chan i) c.weight c.cls c.peer c.peerH false m.tail bs
              let d ← look
              onSome (chanOf d i) fun c' => setChan i { c' with
                sent := c'.sent + 1,
                link := (if l.isSome then l else c'.link),
                jobs := (if ms.isEmpty then js else { j with msgs := ms, begun := true, bytes := j.bytes + bs.length } :: js),
                sents := (if ms.isEmpty then c'.sents ++ [⟨j.owner, c'.sent, j.bytes + bs.length⟩] else c'.sents) }
              pumpChan i fuel

/-- Messages enough for whatever waits on an end. -/
def pumpChanAll (i : ChanIdx) : Act Unit := do
  let d ← look
  onSome (chanOf d i) fun c => pumpChan i ((c.jobs.map fun j => j.msgs.length + 1).foldl (· + ·) 2)

/-- A sending given to an end. -/
def queueJob (i : ChanIdx) (owner : Owner) (msgs : List OutMsg) (cmd : Nat := 0) : Act Unit := do
  let d ← look
  onSome (chanOf d i) fun c => do
    setChan i { c with jobs := c.jobs ++ [⟨owner, msgs, false, 0, cmd⟩] }
    pumpChanAll i

/-- Whether an owner still has messages unsent or not landed on any end. -/
def ownerBusy (d : Dev) (o : Owner) : Bool :=
  d.chans.any fun ic => ic.2.jobs.any (fun j => j.owner == o) || ic.2.sents.any (fun s => s.owner == o)

/-- Whether a sending is done: its last message has landed (R352). The leader's RELEASE to the deputy is done once the deputy's engine has
taken it from its ring, which a RELEASE that has only landed has not met yet (R263). -/
def SentJob.done (c : Chan) (s : SentJob) : Bool :=
  match s.owner with
  | .engine _ 2 => decide (s.last < c.pFreed)
  | _ => decide (s.last < c.pLanded)

/-- An end that holds goes on over its present route once what it had sent has landed: what it held back leaves first, in order (R347). -/
def unhold (i : ChanIdx) : Act Unit := do
  let d ← look
  onSome (chanOf d i) fun c => onlyIf (c.hold && !c.flying) do
    setChan i { c with
      hold := false
      back := [] }
    each c.back fun fs => do
      let d ← look
      match routeOf d c.peer with
      | some r => do
        enqueue r (.chan i) c.weight c.cls fs
        let d ← look
        onSome (chanOf d i) fun y => setChan i { y with link := some r }
      | none => count .TYL_NOROUTE 0 fs.length

/-- Sendings that are done leave the end (R352, R355): a SEND writes its status and completes. -/
def chanLanded (i : ChanIdx) : Act Unit := do
  let d ← look
  onSome (chanOf d i) fun c => do
    let done := c.sents.filter fun s => s.done c
    setChan i { c with sents := c.sents.filter fun s => !s.done c }
    unhold i
    each done fun s =>
      match s.owner with
      | .task co p tid seq ctr status => do
        emit (.write (.spad co) status (leBytes 4 s.bytes))
        clearBad (.spad co) status 4
        doneCmd co p tid seq ctr
      | _ => pure ()
    pumpChanAll i

/-! The ring of received messages (R349). -/

/-- A message lands in the ring's next slot with its status word (R349, R352). False: the ring cannot take it. -/
def landInRing (i : ChanIdx) (bs : List Byte) (tail : Bool) : Act Bool := do
  let d ← look
  match chanOf d i with
  | none => pure false
  | some c => do
    let s := c.landed % c.slots
    let at_ := c.ring + s * c.slotBytes
    let st := c.ring + c.slots * c.slotBytes + 8 * s
    match ← vaRead (envOf d c.part) c.part { stream := true } st 8 with
    | .ok (_, []) => do
      match ← vaWrite (envOf d c.part) c.part { stream := true } at_ bs [] with
      | .error _ => pure false
      | .ok _ => do
        match ← vaWrite (envOf d c.part) c.part { stream := true } st (leBytes 8 (2 ^ 63 + b2n tail * 2 ^ 62 + bs.length)) [] with
        | .error _ => pure false
        | .ok _ => do
          let d ← look
          onSome (chanOf d i) fun c' => setChan i { c' with landed := c'.landed + 1, changed := true }
          pure true
    | _ => pure false

/-- The oldest message in a ring with its tail mark; none when the ring is empty or cannot be read. -/
def ringHead (i : ChanIdx) : Act (Option (List Byte × Bool)) := do
  let d ← look
  match chanOf d i with
  | none => pure none
  | some c =>
    if c.landed ≤ c.freed then pure none
    else do
      let s := c.freed % c.slots
      match ← vaBytes (envOf d c.part) c.part (c.ring + c.slots * c.slotBytes + 8 * s) 8 with
      | none => pure none
      | some w => do
        let v := leNat w
        match ← vaBytes (envOf d c.part) c.part (c.ring + s * c.slotBytes) (bitsOf v 12 0) with
        | none => pure none
        | some bs => pure (some (bs, bitOf v 62))

/-- The consumer frees the oldest message's slot: its status word is cleared, and STATUS goes early once a quarter of the slots
has been freed (R352). -/
def freeRingSlot (i : ChanIdx) : Act Unit := do
  let d ← look
  onSome (chanOf d i) fun c => onlyIf (decide (c.freed < c.landed)) do
    let st := c.ring + c.slots * c.slotBytes + 8 * (c.freed % c.slots)
    let _ ← vaWrite (envOf d c.part) c.part { stream := true } st (leBytes 8 0) []
    let d ← look
    onSome (chanOf d i) fun c' => do
      setChan i { c' with freed := c'.freed + 1, changed := true }
      onlyIf (decide (c'.slots ≤ 4 * (c'.freed + 1 - c'.said.2)) && c'.st == .opened) (sendStatus i)

/-- A message that an engine takes from a ring or from the fabric (R349, R371); with whether it lies in a ring. -/
def takeMsg (p : PartId) (kinds : List Nat) (src : MsgSrc) : Act (Option (List Byte)) := do
  match src with
  | .fabric bs => pure (some bs)
  | .ring i => do
    let d ← look
    match chanOf d i with
    | some c =>
      if c.part = p ∧ kinds.contains c.kind then do
        match ← ringHead i with
        | some (bs, _) => pure (some bs)
        | none => pure none
      else pure none
    | none => pure none

/-- The taken message's ring slot is freed. -/
def dropMsg (src : MsgSrc) : Act Unit :=
  match src with
  | .ring i => freeRingSlot i
  | .fabric _ => pure ()

/-! Remote memory access (R357). -/

/-- The 16 B header of a remote request (R357). -/
def rmaHead (op len tag va : Nat) : List Byte := leBytes 1 op ++ leBytes 1 0 ++ leBytes 2 len ++ leBytes 4 tag ++ leBytes 8 va

/-- A remote message sent over an end, or held back with what else its end holds (R347). -/
def sendRma (i : ChanIdx) (bs : List Byte) : Act Unit := do
  let d ← look
  onSome (chanOf d i) fun c => if c.hold then setChan i { c with back := c.back ++ [cutFrames c.cls c.peer c.peerH false true (bs.length / 256 + 1) bs] } else do
    let l ← sendMsg (.chan i) c.weight c.cls c.peer c.peerH false true bs true
    let d ← look
    onSome (chanOf d i) fun c' => setChan i { c' with link := if l.isSome then l else c'.link }

/-- A remote read or write of up to 4,096 B issued for a stream piece, a refresh or a spill write; while 64 are outstanding it waits in the end's
queue of remote messages (R357). Answers its tag. -/
def issueRma (i : ChanIdx) (write : Bool) (va len : Nat) (data : List Byte) (who : Option (CoreId × StreamId × Nat × Nat))
    (note : Option RmaNote := none) : Act Nat := do
  let d ← look
  match chanOf d i with
  | none => pure 0
  | some c => do
    let tag := c.tagNext % 2 ^ 32
    let req : RmaReq := ⟨tag, write, c.rmaSent, who, note⟩
    let msg := rmaHead (if write then 3 else 1) len tag va ++ data
    let full := decide (64 ≤ c.reqs.length - c.wait.length) || !c.wait.isEmpty
    setChan i { c with
      tagNext := c.tagNext + 1,
      reqs := c.reqs ++ [req],
      rmaSent := (if write then c.rmaSent + 1 else c.rmaSent),
      wait := (if full then c.wait ++ [msg] else c.wait) }
    onlyIf (!full) (sendRma i msg)
    pure tag

/-- Remote messages that waited go out as answers come (R357); `fuel` bounds them. -/
def pumpRma (i : ChanIdx) : Nat → Act Unit
  | 0 => pure ()
  | fuel + 1 => do
    let d ← look
    match chanOf d i with
    | none => pure ()
    | some c =>
      match c.wait with
      | [] => pure ()
      | m :: ms =>
        if 64 ≤ c.reqs.length - c.wait.length then pure ()
        else do
          setChan i { c with wait := ms }
          sendRma i m
          pumpRma i fuel

/-- A request answered: it leaves the outstanding ones. -/
def endRma (i : ChanIdx) (tag : Nat) : Act Unit := do
  let d ← look
  onSome (chanOf d i) fun c => do
    setChan i { c with reqs := c.reqs.filter fun r => r.tag ≠ tag }
    unhold i
    pumpRma i 64

end Sys2Proof.Machine
end

