-- ==== Sys2Proof/Machine/Barrel.lean ====
section
/-! DEFINITION. The barrel manager (file 07, R196–R210): the plan, entries from their first write to their freeing, the spill area and its
loss. -/

namespace Sys2Proof.Machine

/-- A barrel set. -/
def setBarrel (p : PartId) (b : Barrel) : Act Unit := emit (.barrel p b)

/-- Whether an address lies in a partition's aperture (R221). -/
def inAperture (d : Dev) (p : PartId) (va : Nat) : Bool :=
  let base := latched d p .BARL_APER_HI * 2 ^ 32 + latched d p .BARL_APER_LO
  let size := latched d p .BARL_APER_SIZE * 2 ^ 30
  decide (base ≤ va) && decide (va < base + size)

/-- The entry that covers an aperture address (R196, R202): none while the aperture is not served. -/
def entAt (d : Dev) (p : PartId) (va : Nat) : Option (Nat × Ent) :=
  let b := barrelOf d p
  if bitOf (latched d p .BARL_CTRL) 2 && b.active then
    ((List.range b.ents.length).zip b.ents).find? fun ie => decide (ie.2.va ≤ va) && decide (va < ie.2.va + ie.2.size)
  else none

/-- Bytes of a spill area (R204); 0 while it is unusable (R206). -/
def spillArea (d : Dev) (p : PartId) : Nat :=
  if bitsOf (latched d p .BARL_CTRL) 5 4 = 0 ∨ (barrelOf d p).lost ∨ (barrelOf d p).unusable then 0
  else latched d p .BARL_SPILL_SIZE * 2 ^ 20

/-- The barrel capacity quota in bytes, as it stands (R199, R405). -/
def barrelQuota (d : Dev) (p : PartId) : Nat := regOf d .SCHED_QUOTA_BARL p.val * 2 ^ 20

/-- Sectors of a number of bytes, the unit in which the audit counts barrel space (R508). -/
def sectors (n : Nat) : Nat := ceilDiv n 64

/-- The state code of an entry (R198). -/
def EntSt.code : EntSt → Nat
  | .empty => 0 | .wpool => 1 | .wspill => 2 | .held => 3 | .spilled => 4 | .absent => 5 | .freed => 6

/-- The gauges of the barrel after a change (R225). -/
def barrelGauges (p : PartId) : Act Unit := do
  let d ← look
  let b := barrelOf d p
  gauge .BARL_POOL_USE p.val b.pool
  gauge .BARL_SPILL_USE p.val b.spill
  onlyIf (decide (ctrOf d .BARL_PEAK_BYTES p.val < b.pool) && counting d .BARL_PEAK_BYTES p.val) (gauge .BARL_PEAK_BYTES p.val b.pool)

/-- An entry replaced; the manager writes its state and stored bytes into the plan record (R196). -/
def setEnt (p : PartId) (i : Nat) (e : Ent) : Act Unit := do
  let d ← look
  let b := barrelOf d p
  setBarrel p { b with ents := b.ents.set i e }
  let va := latched d p .BARL_PLAN_HI * 2 ^ 32 + latched d p .BARL_PLAN_LO + 64 * i
  let stored := if e.st = .held ∨ e.st = .spilled then e.res else 0
  let _ ← vaWrite (envOf d p) p { inner := true } (va + 0x30) (leBytes 1 e.st.code) []
  let _ ← vaWrite (envOf d p) p { inner := true } (va + 0x38) (leBytes 8 stored) []
  pure ()

/-- What an entry holds in pool or spill area changed, in use and in the audit (R199, R201, R208). -/
def entSpace (p : PartId) (spill : Bool) (old new : Nat) : Act Unit := do
  let d ← look
  let b := barrelOf d p
  setBarrel p (if spill then { b with spill := b.spill + new - old } else { b with pool := b.pool + new - old })
  if sectors old ≤ sectors new then grant 8 (sectors new - sectors old) else giveBack 8 (sectors old - sectors new)
  barrelGauges p

/-- Whether an entry's space lies in the spill area. -/
def Ent.spills (e : Ent) : Bool := e.st == .wspill || e.st == .spilled

/-- An entry replaced without a write of its plan record: what the record does not show has changed. -/
def keepEnt (p : PartId) (i : Nat) (e : Ent) : Act Unit := do
  let d ← look
  setBarrel p { barrelOf d p with ents := (barrelOf d p).ents.set i e }

/-- What an entry holds beside its bytes is gone. -/
def Ent.cleared (e : Ent) : Ent := { e with
  res := 0
  raw := 0
  segs := []
  writers := []
  frames := []
  fill := []
  recs := []
  base := none
  room := 0
  sent := 0
  tail := []
  tailBad := false
  closing := false }

/-- Where an entry of `size` bytes may begin in the spill area with the room that it asks for: the start of the area or the end of another
entry's part, clear of every other part (R204). Frames can exceed the raw bytes by their headers, for which room is asked
where there is any. Which place the manager takes is not laid down (log entry 2). -/
def spillPlace (p : PartId) (size : Nat) : Act (Option (Nat × Nat)) := do
  let d ← look
  let taken := (barrelOf d p).ents.filterMap fun (e : Ent) => e.base.map fun b => (b, e.room)
  let clear (need a : Nat) : Bool := decide (a + need ≤ spillArea d p) && taken.all fun t => decide (t.1 + t.2 ≤ a) || decide (a + need ≤ t.1)
  let starts := 0 :: taken.map fun t => t.1 + t.2
  let full := size + 8 * ceilDiv size 2048
  match ← pick (clear full) starts with
  | some a => pure (some (a, full))
  | none => pure ((starts.find? (clear size)).map fun a => (a, size))

/-- The first write to an EMPTY entry decides its place, for the whole entry (R199). -/
def decideEnt (p : PartId) (i : Nat) (e : Ent) : Act Unit := do
  let d ← look
  let b := barrelOf d p
  if e.size + b.pool ≤ barrelQuota d p then do
    entSpace p false 0 e.size
    setEnt p i { e with st := .wpool, res := e.size }
  else if e.size + b.spill ≤ spillArea d p then do
    let place ← spillPlace p e.size
    entSpace p true 0 e.size
    setEnt p i { e with st := .wspill, res := e.size, base := place.map (·.1), room := (place.map (·.2)).getD 0 }
    let d ← look
    setBarrel p { barrelOf d p with spilling := true }
  else do
    setEnt p i { e with st := .absent }
    count .BARL_ABSENT_COUNT p.val 1
    orReg .BARL_STATUS p.val 0 4

/-- The coding width of an entry's elements (R287). -/
def entWidth (fmt : Nat) : Nat :=
  match (fmtOf fmt).map Fmt.width with
  | some 16 => 1
  | some 32 => 2
  | _ => 0

/-- Whether an entry is encoded lossily (R203). -/
def entLossy (d : Dev) (p : PartId) (e : Ent) : Bool :=
  bitOf (latched d p .BARL_CTRL) 3 && (partOf d p).expert && e.lossy && decide (e.fmt ≤ 2) && e.rowlen != 0 && e.rowlen % 32 == 0

/-- An entry's rows encoded to F8a and decoded again (R203): the encoded bytes, and what a read gives. A batch record's 64 B header, at the
places `recs`, is no row and stays as it is (R380). -/
def lossyRows (f : Fmt) (n : Nat) (recs : List Nat) : Nat → Nat → List Byte → List Byte × List Byte
  | 0, _, bs => (bs, bs)
  | fuel + 1, pos, bs =>
    let rb := n * f.width / 8
    if recs.contains pos ∧ 64 ≤ bs.length then
      let (e, r) := lossyRows f n (recs.filter (· ≠ pos)) fuel (pos + 64) (bs.drop 64)
      (bs.take 64 ++ e, bs.take 64 ++ r)
    else if bs.length < rb ∨ rb = 0 then (bs, bs)
    else
      let (vs, _) := decodeRow f n (bs.take rb)
      let (enc, _, _) := encodeRow .f8a ⟨0, false, 0⟩ 0 none vs
      let (back, _, _) := encodeRow f ⟨0, false, 0⟩ 0 none (decodeRow .f8a n enc).1
      let (e, r) := lossyRows f n recs fuel (pos + rb) (bs.drop rb)
      (enc ++ e, back ++ r)

/-- The bytes of a segment of an entry. -/
def Ent.segLen (e : Ent) (seg : Nat) : Nat := min 2048 (e.size - 2048 * seg)

/-- A frame of an entry takes a new run of sectors in the pool, and only then frees the old one (R200, R285, R286). The pile is one that has
a run (log entry 2); barrel writes are not refused for want of one (R290). Poison makes the whole frame poisoned (R501). -/
def poolFrame (p : PartId) (i seg raw : Nat) (fr : List Byte) (hurt : Bool) : Act Unit := do
  let d ← look
  let n := sectors fr.length
  let piles := ((runOf d p).pool.map pileOfPa).dedup
  let place ← (if piles.isEmpty then pure none else do
    let pl ← pick (fun pl => (findRun d p pl n).isSome) piles
    pure (pl.bind fun x => findRun d p x n))
  onSome place fun a => do
    markSectors a n true
    emit (.write .pile a (padTo (64 * n) 0#8 fr))
    clearRun a n
    count .PILE_RAW_BYTES (pileOfPa a).val raw
    count .PILE_STORED_BYTES (pileOfPa a).val (64 * n)
    onlyIf hurt (poisonRun a n)
  let d ← look
  onSome ((barrelOf d p).ents[i]?) fun e => do
    each (e.frames.filter fun f => f.seg == seg) fun f => onSome f.place fun a => do
      clearRun a f.size
      markSectors a f.size false
    keepEnt p i { e with frames := e.frames.filter (fun f => f.seg != seg) ++ [⟨seg, place, n⟩] }

/-- Whether an entry holds poison in a range of its own bytes. -/
def entHurt (d : Dev) (p : PartId) (i off n : Nat) : Bool := !(badIn d (.barrel p i) off n).isEmpty

/-- A written segment of a WPOOL entry is compressed into its frame (R200). -/
def poolSegment (p : PartId) (i seg : Nat) : Act Unit := do
  let d ← look
  onSome ((barrelOf d p).ents[i]?) fun e =>
    poolFrame p i seg (e.segLen seg) (encodeFrame (entWidth e.fmt) false seg (bytesOf d (.barrel p i) (2048 * seg) (e.segLen seg)))
      (entHurt d p i (2048 * seg) (e.segLen seg))

/-- Consumers of entries that are lost, which are ready and not placed, wait again, for their twins (R206, R210). -/
def unready (p : PartId) (id : Nat) : Act Unit := do
  let d ← look
  onSome (taskOf d p id) fun t => onlyIf (t.st == .ready && t.core.isNone && t.image.isNone) do
    emit (.task p id (some { t with st := .waiting }))
    emit (.run p { runOf d p with
      crit := (runOf d p).crit.filter (· ≠ id)
      defer := (runOf d p).defer.filter (· ≠ id) })

/-- An entry's space returns and its bytes go (R208): its runs of sectors are free again. -/
def releaseEnt (p : PartId) (i : Nat) (st : EntSt) : Act Unit := do
  let d ← look
  onSome ((barrelOf d p).ents[i]?) fun e => do
    entSpace p e.spills e.res 0
    onlyIf (!e.spills) (each e.frames fun f => onSome f.place fun a => do
      clearBad .pile a (64 * f.size)
      markSectors a f.size false)
    emit (.drop (.barrel p i))
    setEnt p i { e.cleared with st := st }

/-- The indices of the entries that a condition picks. -/
def entsWhere (d : Dev) (p : PartId) (f : Ent → Bool) : List Nat :=
  let es := (barrelOf d p).ents
  (List.range es.length).filter fun i => (es[i]?.map f).getD false

/-- The spill target is lost (R206, R207). -/
def spillLost (p : PartId) : Act Unit := do
  let d ← look
  let b := barrelOf d p
  setBarrel p { b with lost := true, unusable := true }
  each (entsWhere d p Ent.spills) fun i => do
    releaseEnt p i .absent
    let d ← look
    onSome ((barrelOf d p).ents[i]?) fun e => do
      setEnt p i { e with lost := true }
      unready p e.consumer
    count .BARL_ABSENT_COUNT p.val 1
    orReg .BARL_STATUS p.val 0 4

/-- Whether a partition's spill area lies behind a target: the registers that the open step has latched, or those that the next would take. -/
def spillsTo (d : Dev) (p : PartId) (mode tgt mask : Nat) : Bool :=
  let f (n : RegName) : Nat := if (barrelOf d p).active then latched d p n else regOf d n p.val
  bitsOf (f .BARL_CTRL) 5 4 == mode && f .BARL_SPILL_TGT % mask == tgt

/-- The target of a spill area goes: in a step that loses the entries there, and between steps the area is unusable all the same (R206). -/
def spillTargetGone (p : PartId) : Act Unit := do
  let d ← look
  if (barrelOf d p).active then spillLost p else setBarrel p { barrelOf d p with unusable := true }

/-- The first address of the spill area (R204). -/
def spillBase (d : Dev) (p : PartId) : Nat := latched d p .BARL_SPILL_HI * 2 ^ 32 + latched d p .BARL_SPILL_LO

/-- One unit of packed frames leaves for the spill area (R204): a posted write, or a message over the channel, without which the target is
lost. -/
def sendSpill (p : PartId) (i at_ : Nat) (bs : List Byte) (hurt : Bool) : Act Unit := do
  let d ← look
  if bitsOf (latched d p .BARL_CTRL) 5 4 = 1 then
    emit (.out (.hostWrite (Fin.ofNat 16 (bitsOf (latched d p .BARL_SPILL_TGT) 3 0)) at_ bs hurt))
  else
    match openChan d p (latched d p .BARL_SPILL_TGT) with
    | none => spillLost p
    | some ic => do
      let _ ← issueRma ic.1 true at_ bs.length bs none (some (.spill i))
      pure ()

/-- Packed frames leave in the units of R166: 512 B as posted writes, 4 KiB as link messages; `all` sends what is left as well. `fuel` bounds
the units. -/
def flushSpill (p : PartId) (i : Nat) (all : Bool) : Nat → Act Unit
  | 0 => pure ()
  | fuel + 1 => do
    let d ← look
    onSome ((barrelOf d p).ents[i]?) fun e => do
      let unit := if bitsOf (latched d p .BARL_CTRL) 5 4 = 1 then 512 else 4096
      let n := min unit e.tail.length
      onlyIf (e.st == .wspill && n != 0 && (all || n == unit)) do
        keepEnt p i { e with sent := e.sent + n, tail := e.tail.drop n, tailBad := e.tailBad && decide (n < e.tail.length) }
        onSome e.base fun b => onlyIf (decide (e.sent + n ≤ e.room)) (sendSpill p i (spillBase d p + b + e.sent) (e.tail.take n) e.tailBad)
        count .BARL_SPILL_BYTES p.val n
        flushSpill p i all fuel

/-- A frame of a WSPILL entry joins the packed frames (R200, R287). -/
def spillFrame (p : PartId) (i seg : Nat) (fr : List Byte) (hurt : Bool) : Act Unit := do
  let d ← look
  onSome ((barrelOf d p).ents[i]?) fun e => onlyIf (e.st == .wspill) do
    keepEnt p i { e with
      frames := e.frames.filter (fun f => f.seg != seg) ++ [⟨seg, some (e.sent + e.tail.length), fr.length⟩]
      tail := e.tail ++ fr
      tailBad := e.tailBad || hurt }
    flushSpill p i false 16

/-- A segment of a WSPILL entry is compressed and leaves (R200). -/
def spillSegment (p : PartId) (i seg : Nat) : Act Unit := do
  let d ← look
  onSome ((barrelOf d p).ents[i]?) fun e =>
    spillFrame p i seg (encodeFrame (entWidth e.fmt) false seg (bytesOf d (.barrel p i) (2048 * seg) (e.segLen seg)))
      (entHurt d p i (2048 * seg) (e.segLen seg))

/-- The leading bytes of an entry that its close encodes lossily: up to the last segment written. -/
def writtenBytes (e : Ent) : Nat := min e.size (2048 * (e.segs.foldl max 0 + 1))

/-- The bytes that an entry's frames store: whole sectors in the pool (R201, R285), packed end to end in the spill area (R287). -/
def Ent.storedBytes (e : Ent) : Nat :=
  if e.spills then e.sent + e.tail.length else (e.frames.map fun (f : EntFrame) => 64 * f.size).foldl (· + ·) 0

/-- Whether a spill write of an entry is still to be accepted by the peer (R164, R205). -/
def spillOutstanding (d : Dev) (p : PartId) (i : Nat) : Bool :=
  d.chans.any fun ic => ic.2.part == p && ic.2.reqs.any fun r => r.note == some (.spill i)

/-- An entry closes (R201): its reservation is cut to the bytes stored. -/
def finishEnt (p : PartId) (i : Nat) : Act Unit := do
  let d ← look
  onSome ((barrelOf d p).ents[i]?) fun e => onlyIf (e.st == .wpool || e.st == .wspill) do
    let stored := e.storedBytes
    entSpace p e.spills e.res stored
    count .BARL_RAW_BYTES p.val e.raw
    count .BARL_STORED_BYTES p.val stored
    setEnt p i { e with
      st := (if e.st = .wspill then .spilled else .held)
      res := stored
      room := min e.room stored
      closing := false }

/-- The write with the close mark has been taken (R201): what an entry has not compressed yet becomes frames, lossily where R203 lays that down,
and it closes once the spill writes have been accepted (R205). How an entry's encoded rows are cut into frames is not laid
down: they are taken as one sequence of 2 KiB pieces (log entry 127). -/
def closeEnt (p : PartId) (i : Nat) : Act Unit := do
  let d ← look
  onSome ((barrelOf d p).ents[i]?) fun e => onlyIf ((e.st == .wpool || e.st == .wspill) && !e.closing) do
    if entLossy d p e then do
      let (enc, back) := lossyRows ((fmtOf e.fmt).getD .f32) e.rowlen e.recs (e.size / 32 + 1) 0 (bytesOf d (.barrel p i) 0 (writtenBytes e))
      emit (.write (.barrel p i) 0 back)
      each (List.range (ceilDiv enc.length 2048)) fun k => do
        let raw := (enc.drop (2048 * k)).take 2048
        let fr := encodeFrame 0 true k (padTo (ceilDiv raw.length 8 * 8) 0#8 raw)
        if e.st = .wpool then poolFrame p i k raw.length fr (entHurt d p i 0 e.size) else spillFrame p i k fr (entHurt d p i 0 e.size)
    else each (e.segs.filter fun g => e.st == .wspill && !(e.frames.any fun f => f.seg == g)) fun g => spillSegment p i g
    let d ← look
    flushSpill p i true ((((barrelOf d p).ents[i]?).map fun y => y.tail.length).getD 0 / 512 + 1)
    let d ← look
    if spillOutstanding d p i then onSome ((barrelOf d p).ents[i]?) fun y => keepEnt p i { y with closing := true }
    else finishEnt p i

/-- Spilled entries close whose writes the peer has accepted (R205). -/
def spillsDone (p : PartId) : Act Unit := do
  let d ← look
  each (entsWhere d p fun e => e.closing) fun i => onlyIf (!spillOutstanding d p i) (finishEnt p i)

/-- Whether the bytes of a write to an entry leave for the spill area: the entry is spilled, or this first write decides it so (R199). -/
def toSpill (d : Dev) (p : PartId) (e : Ent) : Bool :=
  e.st == .wspill || (e.st == .empty && decide (barrelQuota d p < e.size + (barrelOf d p).pool) &&
    decide (e.size + (barrelOf d p).spill ≤ spillArea d p))

/-- What a write leaves of an entry: its bytes counted, its segments, its writer, and where a batch record begins. -/
def Ent.wrote (e : Ent) (off n : Nat) (who : Option Nat) : Ent :=
  let touched := if n = 0 then [] else (List.range ((off + n - 1) / 2048 - off / 2048 + 1)).map (· + off / 2048)
  { e with
    raw := e.raw + n
    segs := touched.foldl setIns e.segs
    fill := touched.foldl (fun l g => tabPut l g (tabGet l g 0 + (min (off + n) (2048 * g + 2048) - max off (2048 * g)))) e.fill
    recs := (if e.kind = 1 ∧ n ≠ 0 then setIns e.recs off else e.recs)
    writers := (match who with
      | some t => if e.writers.contains t then e.writers else e.writers ++ [t]
      | none => e.writers) }

/-- A write to the aperture (R199–R202): done, or its fault code. `who` is the task that writes; a write that is accepted `late`, after its
task was aborted, places no entry and is discarded (R209). `bad` are the poisoned words among the bytes (R501). -/
def barrelWrite (p : PartId) (va : Nat) (bs : List Byte) (bad : List Nat) (close : Bool) (who : Option Nat) (late : Bool := false) :
    Act (Except Nat Unit) := do
  let d ← look
  match entAt d p va with
  | none => pure (.error 6)
  | some (i, e) =>
    if e.va + e.size < va + bs.length then pure (.error 6)
    else if e.st = .held ∨ e.st = .spilled ∨ e.st = .freed then pure (.error 7)
    else if late ∧ e.st = .empty then pure (.ok ())
    else do
      onlyIf (e.st == .empty) (decideEnt p i e)
      let d ← look
      onSome ((barrelOf d p).ents[i]?) fun e =>
        if e.st = .absent then count .BARL_ABSENT_BYTES p.val bs.length
        else do
          let off := va - e.va
          emit (.write (.barrel p i) off bs)
          clearBad (.barrel p i) off bs.length
          addBad (.barrel p i) (bad.map (· + off / 8))
          let e' := e.wrote off bs.length who
          setEnt p i e'
          onlyIf (!bs.isEmpty && !entLossy d p e) (each ((List.range ((off + bs.length - 1) / 2048 - off / 2048 + 1)).map (· + off / 2048)) fun g =>
            if e.st = .wpool then poolSegment p i g
            else onlyIf (decide (e.segLen g ≤ tabGet e'.fill g 0) || e'.frames.any fun f => f.seg == g) (spillSegment p i g))
      onlyIf close (closeEnt p i)
      pure (.ok ())

/-- What a read of the aperture meets (R202). -/
inductive BarrelRead where
  | data (bs : List Byte)
  | held
  | fault (code : Nat)
  deriving DecidableEq, Repr

/-- A read of the aperture (R202, R206). -/
def barrelRead (d : Dev) (p : PartId) (va n : Nat) : BarrelRead :=
  match entAt d p va with
  | none => .fault 6
  | some (i, e) =>
    if e.va + e.size < va + n then .fault 6
    else
      match e.st with
      | .held | .spilled => .data (bytesOf d (.barrel p i) (va - e.va) n)
      | .wpool | .wspill => .held
      | .absent => .fault (if e.lost then 0xB else 6)
      | _ => .fault 6

/-- A group's entries are freed (R208). -/
def freeGroup (p : PartId) (group : Nat) : Act Unit := do
  let d ← look
  each (entsWhere d p fun e => e.group == group && e.st != .freed) fun i => releaseEnt p i .freed

/-- The entries that an aborted task was writing return to EMPTY (R209). -/
def dropWriter (p : PartId) (tid : Nat) : Act Unit := do
  let d ← look
  each (entsWhere d p fun e => (e.st == .wpool || e.st == .wspill) && e.writers.contains tid) fun i => releaseEnt p i .empty

/-- The poisoned words of a range of an entry, counted from its first: those of its bytes, and whole segments whose frame in the pool
holds poison (R297, R501). -/
def entBad (d : Dev) (p : PartId) (i : Nat) (e : Ent) (off n : Nat) : List Nat :=
  let hurt := if e.spills then [] else e.frames.filter fun f => (f.place.map fun a => !(badIn d .pile a (64 * f.size)).isEmpty).getD false
  if !hurt.isEmpty ∧ entLossy d p e then List.range ((off + n + 7) / 8 - off / 8)
  else (hurt.flatMap fun f => (List.range ((off + n + 7) / 8 - off / 8)).filter fun w => decide ((off / 8 + w) / 256 = f.seg)).foldl setIns
    (relBad d (.barrel p i) off n)

/-- Where in the spill area the frame of an aperture address lies that a read of a SPILLED entry fetches (R202, R204): its address, its bytes and
its segment. An entry that is encoded lossily, whose frames do not follow its segments, is read from what was sent (log entry 127). -/
def spilledFrame (d : Dev) (p : PartId) (va : Nat) : Option (Nat × EntFrame) :=
  (entAt d p va).bind fun (_, e) =>
    if e.st ≠ .spilled ∨ entLossy d p e then none
    else e.base.bind fun b => (e.frames.find? fun f => f.seg == (va - e.va) / 2048).bind fun f =>
      f.place.bind fun a => if a + f.size ≤ e.room then some (spillBase d p + b + a, f) else none

/-- A record of the plan (R196), its state EMPTY. -/
def entOf (bs : List Byte) : Ent :=
  ⟨bitsOf (fieldAt bs 0 8) 47 0, bitsOf (fieldAt bs 8 8) 39 0, fieldAt bs 0x10 2, fieldAt bs 0x12 2, bitsOf (fieldAt bs 0x14 1) 3 0,
    bitsOf (fieldAt bs 0x15 1) 3 0, bitOf (fieldAt bs 0x16 2) 0, fieldAt bs 0x18 4, fieldAt bs 0x1C 4, fieldAt bs 0x20 4,
    fieldAt bs 0x24 4, fieldAt bs 0x28 4, .empty, 0, 0, [], [], false, [], [], [], none, 0, 0, [], false, false⟩

/-- The plan is read and its records set to EMPTY when a step opens (R196); a record that cannot be read describes no entry. -/
def openBarrel (p : PartId) : Act Unit := do
  let d ← look
  let n := latched d p .BARL_PLAN_COUNT
  let va := latched d p .BARL_PLAN_HI * 2 ^ 32 + latched d p .BARL_PLAN_LO
  setBarrel p { Barrel.empty with active := true, unusable := (barrelOf d p).unusable }
  each (List.range n) fun i => do
    let e ← vaBytes (envOf d p) p (va + 64 * i) 64
    let d ← look
    let b := barrelOf d p
    setBarrel p { b with ents := b.ents ++ [entOf (e.getD (List.replicate 64 0#8))] }
    setEnt p i (entOf (e.getD (List.replicate 64 0#8)))

/-- At CLOSED every entry that has not been freed is freed (R198). -/
def closeBarrel (p : PartId) : Act Unit := do
  let d ← look
  each (entsWhere d p fun e => e.st != .freed) fun i => releaseEnt p i .freed
  let d ← look
  setBarrel p { barrelOf d p with active := false, reruns := [] }

/-- The entries of a group (R210). -/
def groupEnts (d : Dev) (p : PartId) (group : Nat) : List Ent := (barrelOf d p).ents.filter fun e => e.group == group

/-- Whether every entry of a group is settled: HELD, SPILLED or ABSENT (R210). -/
def groupSettled (d : Dev) (p : PartId) (group : Nat) : Bool :=
  (groupEnts d p group).all fun e => e.st == .held || e.st == .spilled || e.st == .absent

/-- Whether a group has an ABSENT entry, so that its twin goes in place of its consumer (R210). -/
def groupAbsent (d : Dev) (p : PartId) (group : Nat) : Bool := (groupEnts d p group).any fun e => e.st == .absent

end Sys2Proof.Machine
end

