-- ==== Sys2Proof/Machine/Issue.lean ====
section
/-! DEFINITION. The commands of the issue stage, command fetch and pre-emption (R86–R92). -/

namespace Sys2Proof.Machine

/-- NOP (R86), and within it the faults of R87: a command position that breaks its conditions aborts the task. -/
def doNop (c : CoreId) (k : SlotId) : Act Unit := do
  let d ← look
  match decide (issuer d c = some k), nextCmd (slotOf d c k) with
  | true, .fault st detail => abortSlot c k st detail
  | _, _ => issue c k (fun op _ => op == .nop) false fun _ _ _ => pure ()

/-- END: the slot enters ENDING (R88, R90). -/
def doEnd (c : CoreId) (k : SlotId) : Act Unit :=
  issue c k (fun op _ => op == .end_) false fun _ _ _ => do
    let d ← look
    emit (.slot c k { slotOf d c k with st := .ending, wait := none })

/-- WAIT: the slot waits until the counter is at least the threshold (R88). -/
def doWait (c : CoreId) (k : SlotId) : Act Unit :=
  issue c k (fun op _ => op == .wait) false fun x w _ => do
    let d ← look
    let ctr := bitsOf w 44 40
    let thr := bitsOf w 63 48
    onlyIf (decide (evOf d c x.part ctr < thr))
      (emit (.slot c k { slotOf d c k with st := .waiting, wait := some (.counter ctr thr) }))

/-- SIGNAL: applied once every earlier command of the slot has completed (R88). -/
def doSignal (set : Bool) (c : CoreId) (k : SlotId) : Act Unit :=
  issue c k (fun op w => op == .signal && bitsOf w 47 45 == b2n set) false fun _ w seq => do
    let d ← look
    let y := slotOf d c k
    emit (.slot c k { y with sigs := y.sigs ++ [⟨seq, bitsOf w 44 40, set, bitsOf w 63 48⟩] })
    slotProgress c k

/-- FENCE: the slot waits until every earlier command of the slot has completed (R88). -/
def doFence (c : CoreId) (k : SlotId) : Act Unit :=
  issue c k (fun op _ => op == .fence) false fun _ _ _ => do
    let d ← look
    let y := slotOf d c k
    onlyIf (!y.idle) (emit (.slot c k { y with st := .waiting, wait := some .fence }))

/-- The streams of an ending task are disarmed once its commands have completed: landings by cancel, drains by finish (R173). -/
def endStreams (finish : CoreId → StreamId → Act Unit) (c : CoreId) (k : SlotId) : Act Unit := do
  let d ← look
  let x := slotOf d c k
  onlyIf (x.st == .ending && x.idle) do
    each allStreams fun s => do
      let d ← look
      onSome (streamOf d c s) fun y =>
        if y.part = x.part ∧ y.tid = x.tid ∧ !y.desc.persist then
          (if y.desc.drain then (match y.mode with
            | .run => finish c s
            | _ => pure ())
          else (match y.mode with
            | .cancel _ => pure ()
            | _ => cancelStream c s none))
        else pure ()

/-- The last command of an ENDING slot has completed and its drains are accepted: the slot becomes FREE and the task's end goes to the
step builder, which posts its completion (R90, R173, R428). -/
def doTaskEnd (c : CoreId) (k : SlotId) : Act Unit := do
  let d ← look
  let x := slotOf d c k
  let drains := d.streams.any fun y => y.1.1 == c && y.2.part == x.part && y.2.tid == x.tid && y.2.desc.drain && !y.2.desc.persist
  onlyIf (x.st == .ending && x.idle && !drains) do
    freeSlot c k
    endTask x.part x.tid 0 0

/-- Whether what a restored slot waited for has come about while it was suspended (R90, R94). -/
def waitMet (d : Dev) (c : CoreId) (x : Slot) : WaitOn → Bool
  | .buffer => true
  | .counter ctr thr => decide (thr ≤ evOf d c x.part ctr)
  | .fence => x.idle
  | .recv => false

/-- The command fetcher lands the list into the slot's buffer of 2 KiB, or meets a fault (R86). A slot stays PLACED until its core's domain is
ON (R480). -/
def doRefill (env : PartId → Env) (c : CoreId) (k : SlotId) : Act Unit := do
  let d ← look
  let x := slotOf d c k
  let at_ := x.pos + x.buf.length
  let n := min (2048 - x.buf.length) (x.bytes - at_)
  let live := (x.st == .placed || x.st == .ready || x.st == .waiting) && domOf d (c.val / 25) == .on
  if !live || (n == 0 && x.st != .placed) then pure ()
  else do
    let r ← vaRead (env x.part) x.part { die := some (c.val / 50) } (x.list + 64 + at_) n
    match r with
    | .error (code, addr) => do
      strmFault c k 0 3 code addr
      abortSlot c k 0x15 code
    | .ok (bs, bad) => do
      let d ← look
      let x := slotOf d c k
      let y := { x with buf := x.buf ++ bs, bad := x.bad.filter (fun w => decide (x.pos ≤ 8 * w)) ++ bad.map (· + at_ / 8) }
      let z := match x.st, x.wait with
        | .placed, none => { y with st := .ready }
        | .placed, some w => if waitMet d c x w then { y with st := .ready, wait := none } else { y with st := .waiting }
        | .waiting, some .buffer => { y with st := .ready, wait := none }
        | _, _ => y
      emit (.slot c k z)

/-- The seq numbers and bits of a slot's commands that wait in queues and have not started, in list order (R91). -/
def unstarted (d : Dev) (c : CoreId) (k : SlotId) : List (Nat × Nat) :=
  let qs := (((arrOf d c).q ++ (vecOf d c).q ++ (latheOf d c).q ++ strmQ d c).filter fun q => q.slot == k).map fun q => (q.seq, q.cmd)
  qs.mergeSort fun a b => a.1 ≤ b.1

/-- The command word of a SIGNAL that has not applied (R86, R88). -/
def signalWord (g : Sig) : Nat := 3 + g.ctr * 2 ^ 40 + b2n g.set * 2 ^ 45 + g.value * 2 ^ 48

/-- The command word of the FENCE or WAIT that a slot waits at (R86, R88). -/
def waitWord : WaitOn → Option Nat
  | .fence => some 4
  | .counter ctr thr => some (2 + ctr * 2 ^ 40 + thr * 2 ^ 48)
  | _ => none

/-- Pre-emption reaches a slot (R91): its commands that have not started are withdrawn, with what waits behind them (a SIGNAL that has
not applied, the FENCE or WAIT that the slot stands at), and it begins SAVING. A PASS that has started feeds to its end, a shadow load
in progress or FULL is given up (R73). A slot in SAVING, ENDING
or ABORTING is never chosen (R92, R399). `more` are the commands withdrawn from engines outside the core. -/
def preempt (c : CoreId) (k : SlotId) (cause : SuspCause) (more : List (Nat × Nat)) : Act Unit := do
  let d ← look
  let x := slotOf d c k
  if x.st = .placed ∨ x.st = .ready ∨ x.st = .waiting then do
    let early := unstarted d c k ++ more
    let late := fun (g : Sig) => early.any fun b => decide (b.1 < g.seq)
    let back := (early ++ (x.sigs.filter late).map fun g => (g.seq, signalWord g)).mergeSort fun a b => a.1 ≤ b.1
    let again := if early.isEmpty then none else x.wait.bind waitWord
    let arr := arrOf d c
    let head := (arr.q.head?.map fun q => q.slot == k).getD false
    let loading := (arr.load.map fun r => r.q.slot == k).getD false
    let own := arr.shadow.map (·.slot) = some k
    emit (.arr c { arr with
      q := arr.q.filter (fun q => q.slot ≠ k)
      load := if loading then none else arr.load
      hold := arr.hold && !head
      reload := arr.reload && !head
      wait := none
      shadow := if own then none else arr.shadow
      sh := if own then .empty else arr.sh })
    emit (.vec c { vecOf d c with q := (vecOf d c).q.filter (fun q => q.slot ≠ k) })
    emit (.lathe c { latheOf d c with q := (latheOf d c).q.filter (fun q => q.slot ≠ k) })
    onlyIf ((strmQ d c).any fun q => q.slot == k) (emit (.strmq c ((strmQ d c).filter fun q => q.slot ≠ k)))
    let doneLoad := match arr.load with
      | some r => if loading ∧ !arr.reload then [r.q.seq] else []
      | none => []
    emit (.slot c k { x with
      st := .saving, redo := back.map (·.2) ++ again.toList ++ x.redo, sigs := x.sigs.filter fun g => !late g,
      busy := x.busy.filter fun q => !(back.any fun b => b.1 == q) && !doneLoad.contains q,
      wait := (if again.isSome ∨ x.wait = some .buffer then none else x.wait) })
    onSome (taskOf d x.part x.tid) fun t => emit (.task x.part x.tid (some { t with cause := some cause }))
    count .SCHED_PREEMPT x.part.val 1
  else pure ()

/-- The state image of a pre-empted task is written to its context region and the slot becomes FREE (R91, R401): commands that had
started and stopped at a step boundary go into the image with their position (R139); a PASS that has started feeds to its end first
(R73), and its rows in the array are written as ever. The image's layout is not the spec's: the model holds what it holds (log entry
113). -/
def doSaved (c : CoreId) (k : SlotId) (cycles : Nat) : Act Unit := do
  let d ← look
  let x := slotOf d c k
  let runs := [(vecOf d c).run, (latheOf d c).run].filterMap fun r => r.bind fun y => if y.q.slot = k then some y else none
  if x.st ≠ .saving ∨ runs.any (fun r => r.stall.isSome) ∨ ((arrOf d c).run.map fun r => r.q.slot) = some k then pure ()
  else do
    let y := partOf d x.part
    let region := (y.ctx.find? fun r => !y.ctxUsed.contains r).getD 0
    grant 9 1
    emit (.part x.part { y with ctxUsed := y.ctxUsed ++ [region] })
    let recs := tabGet (arrOf d c).recs k ⟨none, none⟩
    emit (.arr c { arrOf d c with
      recs := tabDel (arrOf d c).recs k,
      active := (if (arrOf d c).active.map (·.slot) = some k then none else (arrOf d c).active) })
    emit (.vec c ⟨(vecOf d c).q, if ((vecOf d c).run.map (·.q.slot)) = some k then none else (vecOf d c).run⟩)
    emit (.lathe c ⟨(latheOf d c).q, if ((latheOf d c).run.map (·.q.slot)) = some k then none else (latheOf d c).run⟩)
    let im : Image := ⟨c, { x with resume := runs.map fun r => { r.q with row := r.row } }, memOf d (.vreg c k), recs, region⟩
    emit (.drop (.vreg c k))
    emit (.slot c k { Slot.empty with epoch := x.epoch })
    onSome (taskOf d x.part x.tid) fun t =>
      emit (.task x.part x.tid (some { t with st := TaskSt.suspended, core := none, image := some im }))
    onlyIf (decide (ctrOf d .SCHED_PREEMPT_MAX x.part.val < cycles) && counting d .SCHED_PREEMPT_MAX x.part.val)
      (gauge .SCHED_PREEMPT_MAX x.part.val cycles)

end Sys2Proof.Machine
end

