-- ==== Sys2Proof/Machine/Streams.lean ====
section
/-! DEFINITION. The stream engine (file 06, R151–R184): arming, run-ahead and landing, draining, the end of a stream, faults, the
watchdog, and streams across eviction. -/

namespace Sys2Proof.Machine

/-! Arming (R153–R159). -/

/-- A stream descriptor as its 64 bytes lie in the window (R153), its ring made a physical offset. -/
def streamDescOf (bs : List Byte) (phys : Nat → Nat) : StreamDesc :=
  let f (o : Nat) : Nat := fieldAt bs o 4
  let s (o : Nat) : Int := signedOf 48 (fieldAt bs o 8)
  ⟨bitsOf (fieldAt bs 0 8) 47 0, bitsOf (f 8) 23 0 + 1, bitsOf (f 0xC) 23 0 + 1, bitsOf (f 0x10) 23 0 + 1, bitsOf (f 0x14) 23 0 + 1,
    s 0x18, s 0x20, s 0x28, phys (bitsOf (f 0x30) 21 0), 64 * bitsOf (f 0x34) 15 0, bitsOf (f 0x34) 31 24 + 1, f 0x38⟩

/-- Whether a descriptor keeps to its fields (R153, R154, R159 code 0x1). -/
def descFieldsOk (bs : List Byte) (expert : Bool) : Bool :=
  let f (o : Nat) : Nat := fieldAt bs o 4
  let g (o : Nat) : Nat := fieldAt bs o 8
  let ctl := f 0x38
  let port := bitsOf ctl 11 9
  let wports := [2, 4, 6]
  g 0 / 2 ^ 48 == 0 && g 0 % 8 == 0 && (f 8 / 2 ^ 24 == 0) && (f 8 + 1) % 8 == 0 && f 0xC / 2 ^ 24 == 0 && f 0x10 / 2 ^ 24 == 0 &&
    f 0x14 / 2 ^ 24 == 0 && ([0x18, 0x20, 0x28].all fun o => g o / 2 ^ 48 == 0 && g o % 8 == 0) && f 0x30 / 2 ^ 22 == 0 &&
    f 0x30 % 64 == 0 && bitsOf (f 0x34) 23 16 == 0 && f 0x3C == 0 && !bitOf ctl 31 && !bitOf ctl 21 && bitsOf ctl 8 0 == 0 &&
    bitsOf ctl 23 22 != 3 && bitsOf ctl 20 19 != 3 && port != 7 && wports.contains port == bitOf ctl 16 &&
    (bitsOf ctl 23 22 == 0 || expert)

/-- Whether a ring meets the ring of another armed stream (R159 code 0x3). -/
def ringClash (d : Dev) (c : CoreId) (s : StreamId) (y : StreamDesc) : Bool :=
  allStreams.any fun t => t != s && ((streamOf d c t).map fun x =>
    decide (x.desc.ring < y.ring + y.ringBytes) && decide (y.ring < x.desc.ring + x.desc.ringBytes)).getD false

/-- Whether a transposing descriptor meets R32 and R168. -/
def transposeOk (y : StreamDesc) : Bool :=
  !bitOf y.ctl 17 && !y.drain && y.run % y.tbytes == 0 && y.elems % 32 == 0 && y.n1 % y.strip == 0 && y.stripBytes % y.csize == 0 &&
    decide (y.stripBytes ≤ y.ringBytes)

/-- What SARM finds in a descriptor, in the order of the codes of R159: a fault code, or the descriptor to arm. -/
def sarmCheck (d : Dev) (c : CoreId) (x : Slot) (s : StreamId) (bs : List Byte) : Except Nat StreamDesc :=
  let y := streamDescOf bs x.phys
  if !descFieldsOk bs (partOf d x.part).expert then .error 1
  else if !x.inWindow (bitsOf (fieldAt bs 0x30 4) 21 0) y.ringBytes then .error 2
  else if y.csize < 2048 ∨ ringClash d c s y then .error 3
  else if (streamOf d c s).isSome then .error 4
  else if y.transpose && !transposeOk y then .error 5
  else .ok y

/-- A stream command is refused: its task is aborted and the fault recorded (R159). -/
def refuseStream (c : CoreId) (k : SlotId) (s : StreamId) (code : Nat) : Act Unit := do
  strmFault c k s.val 0 code 0
  abortSlot c k 0x15 code

/-- The stream number of a stream command. -/
def streamNo (w : Nat) : StreamId := Fin.ofNat 16 (bitsOf w 11 8)

/-- The done counter of SARM and SREARM (R156, R157). -/
def doneCtr (w : Nat) : Option Nat := if bitOf w 16 then some (bitsOf w 21 17) else none

/-- A stream armed by a slot with a descriptor (R156, R160, R164). -/
def armed (d : Dev) (c : CoreId) (x : Slot) (k : SlotId) (w : Nat) (y : StreamDesc) : Stream where
  desc := y
  part := x.part
  tid := x.tid
  slot := k
  epoch := x.epoch
  ctr := doneCtr w
  v := evOf d c x.part y.relCtr
  rel := 0
  next := 0
  acc := 0
  flt := 0
  cursor := 0
  relBy := (x.part, x.tid)
  chunks := []
  done := false
  mode := .run
  paused := false
  moved := 0
  map := x.maps.stream
  arena := none

/-- SARM: the descriptor is copied, the ring's credits reserved and the stream armed; it completes then (R156). -/
def actSarm (c : CoreId) (k : SlotId) (parity : List ParityHit) (w seq : Nat) : Act Unit := do
  let d ← look
  let x := slotOf d c k
  let s := streamNo w
  let off := bitsOf w 85 64
  portParity c parity (x.phys off) 64
  let d ← look
  if bitsOf w 127 86 ≠ 0 ∨ off % 64 ≠ 0 ∨ bitsOf w 63 22 ≠ 0 ∨ bitsOf w 15 12 ≠ 0 then refuseStream c k s 1
  else if !x.inWindow off 64 then refuseStream c k s 2
  else if !(badIn d (.spad c) (x.phys off) 64).isEmpty then abortSlot c k 0x18 0
  else
    match sarmCheck d c x s (bytesOf d (.spad c) (x.phys off) 64) with
    | .error code => refuseStream c k s code
    | .ok y => do
      offMapStream c x.maps.stream (x.phys off) 64
      grant 0 y.ccount
      setStream c s (armed d c x k w y)
      completeCmd x.part x.tid seq

/-! Progress of a stream. -/

/-- Whether every chunk of the extent has settled: FULL or FAULTED with nothing in flight, or accepted (R169). -/
def Stream.settled (x : Stream) : Bool :=
  if x.desc.drain then decide (x.desc.chunks ≤ x.acc) else decide (x.desc.chunks ≤ x.acc + x.flt) && !x.flying

/-- The extent is done: the done counter advances once (R165). -/
def extentDone (c : CoreId) (s : StreamId) : Act Unit := do
  let d ← look
  onSome (streamOf d c s) fun x =>
    let cancelled := match x.mode with
      | .cancel _ => true
      | _ => false
    onlyIf (!x.done && x.extentDone && !cancelled) do
      setStream c s { x with done := true }
      onSome x.ctr (bumpEvent c (x.part, x.tid))

/-- Deferred faults of a stream discarded unraised (R169, R171, R172). -/
def discardFaults (c : CoreId) (x : Stream) : Act Unit :=
  count .STRM_FAULT_DISCARD c.val (x.chunks.filter fun k => k.st == .faulted && decide (x.rel ≤ k.j)).length

/-- What waits for a stream goes on: a new extent begins (R169), or the stream ends (R171, R172). -/
def streamProgress (c : CoreId) (s : StreamId) : Act Unit := do
  extentDone c s
  let d ← look
  onSome (streamOf d c s) fun x =>
    match x.mode with
    | .run => pure ()
    | .rearm base ctr tid seq => onlyIf x.settled do
        onlyIf (!x.desc.drain) (discardFaults c x)
        setStream c s { x with
          desc := { x.desc with base := base }, ctr := ctr, v := evOf d c x.part x.desc.relCtr, rel := 0, next := 0, acc := 0, flt := 0,
          cursor := 0, chunks := [], done := false, mode := .run }
        completeCmd x.part tid seq
    | .finish _ =>
      if x.desc.drain then onlyIf (!x.chunks.any fun k => decide (k.j < x.rel)) (unarm c s)
      else onlyIf (!x.flying) do
        discardFaults c x
        unarm c s
    | .cancel _ => onlyIf (!x.flying) (unarm c s)

/-- Why an SREARM or SDISARM is refused for the state of its stream (R152, R159 code 0x4). -/
def streamStateBad (d : Dev) (c : CoreId) (x : Slot) (s : StreamId) : Bool :=
  match streamOf d c s with
  | none => true
  | some y => y.part != x.part ||
      (if y.desc.persist then
        !(decide (x.base * 65536 ≤ y.desc.ring) && decide (y.desc.ring + y.desc.ringBytes ≤ x.base * 65536 + x.bytesIn))
      else y.tid != x.tid)

/-- SREARM: a new base once the current extent has settled; a drain first releases what is not yet released (R157, R169). -/
def actSrearm (c : CoreId) (k : SlotId) (w seq : Nat) : Act Unit := do
  let d ← look
  let x := slotOf d c k
  let s := streamNo w
  if bitsOf w 127 112 ≠ 0 ∨ bitsOf w 111 64 % 8 ≠ 0 ∨ bitsOf w 63 22 ≠ 0 ∨ bitsOf w 15 12 ≠ 0 then refuseStream c k s 1
  else if streamStateBad d c x s then refuseStream c k s 4
  else onSome (streamOf d c s) fun y => do
    onlyIf y.desc.drain (releaseUpTo c s y.desc.chunks (x.part, x.tid))
    let d ← look
    onSome (streamOf d c s) fun z => do
      setStream c s { z with mode := .rearm (bitsOf w 111 64) (doneCtr w) x.tid seq }
      streamProgress c s

/-- A stream finishes (R171): under cursor release a drain releases the cursor's chunk too. `who` is the SDISARM that waits. -/
def finishStream (c : CoreId) (s : StreamId) (who : Option (Nat × Nat)) : Act Unit := do
  let d ← look
  onSome (streamOf d c s) fun x => do
    onlyIf (x.desc.drain && !x.desc.byCounter) (releaseUpTo c s (x.cursor + 1) x.relBy)
    let d ← look
    onSome (streamOf d c s) fun y => do
      setStream c s { y with mode := .finish who }
      streamProgress c s

/-- SDISARM, by its mode (R158, R171, R172). -/
def actSdisarm (c : CoreId) (k : SlotId) (w seq : Nat) : Act Unit := do
  let d ← look
  let x := slotOf d c k
  let s := streamNo w
  if bitsOf w 63 13 ≠ 0 then refuseStream c k s 1
  else if streamStateBad d c x s then refuseStream c k s 4
  else if bitOf w 12 then cancelStream c s (some (x.tid, seq))
  else finishStream c s (some (x.tid, seq))

/-! Where the pieces of a chunk go (R166). -/

/-- The target of a piece. -/
inductive Target where
  | pile (seg : Nat)
  | host (f : FnId) (addr : Nat)
  | peer (h va : Nat)
  | barrel
  | fault (code : Nat)
  deriving DecidableEq, Repr

/-- The access of a stream; a drain of an update task writes the next view (R242). -/
def streamAcc (d : Dev) (c : CoreId) (x : Stream) : Acc :=
  { stream := true, next := x.desc.drain && ((taskOf d x.part x.tid).bind (·.slice)).isSome, die := some (c.val / 50) }

/-- The target of an address of a stream: the aperture first, then the partition's tables (R221, R282). -/
def targetOf (d : Dev) (c : CoreId) (x : Stream) (va : Nat) : Target :=
  if inAperture d x.part va then .barrel
  else
    let e := envOf d x.part
    match (locate d x.part e.odd e.chanOk (streamAcc d c x) x.desc.drain va).1 with
    | .plain pa => .pile (pa / 2048)
    | .comp dir off _ => .pile (2 ^ 40 + dir + 8 * (off / 2048))
    | .view fr off _ _ => .pile ((fr + off) / 2048)
    | .host f a => .host f a
    | .peer h a => .peer h a
    | .fault code => .fault code

/-- A span put into a request of its segment that a chunk already makes, or into one of its own (R166: one request for each segment that
the chunk touches). -/
def joinSeg : List (Nat × List Span) → Nat → Span → List (Nat × List Span)
  | [], seg, q => [(seg, [q])]
  | (s, qs) :: rest, seg, q => if s = seg then (s, qs ++ [q]) :: rest else (s, qs) :: joinSeg rest seg q

/-- The requests of a chunk in the units of their targets (R166), numbered: pile and barrel segments of 2 KiB, host requests cut at 4 KiB
boundaries (512 B for a posted write), peer messages of 4 KiB. -/
def piecesOf (d : Dev) (c : CoreId) (x : Stream) (j : Nat) : List Piece :=
  let big := (chunkRuns x.desc j).flatMap fun q => cutSpan 4096 q.va q
  let cut : List (List Span) := (big.foldl (fun (acc : List (List Span) × List (Nat × List Span)) (q : Span) =>
    match targetOf d c x q.va with
    | .host _ _ => (acc.1 ++ (if x.desc.drain then cutSpan 512 q.va q else [q]).map fun y => [y], acc.2)
    | .peer _ _ => (acc.1 ++ [[q]], acc.2)
    | _ => (acc.1, (cutSpan 2048 q.va q).foldl (fun g y => joinSeg g (y.va / 2048) y) acc.2)) ([], [])) |> fun acc =>
      acc.1 ++ acc.2.map (·.2)
  (List.range cut.length).zip cut |>.map fun (i, qs) => ⟨i, qs, 0, 0, none⟩

/-- The physical scratchpad offset of a chunk's slot (R155). -/
def StreamDesc.slotAt (y : StreamDesc) (j : Nat) : Nat := y.ring + j % max 1 y.ccount * y.csize

/-! Landing (R160, R161, R174). -/

/-- Watch registrations in use on a pile (R179). -/
def watchesOn (d : Dev) (pl : PileId) : Nat :=
  (d.streams.flatMap fun y => y.2.chunks.flatMap fun (k : Chunk) => k.watched.filter fun w =>
    pileOfPa (if 2 ^ 40 ≤ w then w - 2 ^ 40 else w * 2048) == pl).length

/-- The source segments of an address of a stream: of a transpose view, those of the whole tile (R178, R291). -/
def sourceSegs (d : Dev) (c : CoreId) (x : Stream) (va : Nat) : List Nat :=
  if inAperture d x.part va then []
  else
    let e := envOf d x.part
    match (locate d x.part e.odd e.chanOk (streamAcc d c x) false va).1 with
    | .plain pa => [pa / 2048]
    | .comp dir off _ => [2 ^ 40 + dir + 8 * (off / 2048)]
    | .view fr off w comp =>
      let tile := tileBytes w
      (List.range (tile / 2048)).map fun i =>
        if comp then 2 ^ 40 + fr + 8 * (off / tile * (tile / 2048) + i) else (fr + off / tile * tile) / 2048 + i
    | _ => []

/-- The segments that a watched chunk registers (R178). -/
def watchesOf (d : Dev) (c : CoreId) (x : Stream) (qs : List Piece) : List Nat :=
  if x.desc.watch = 0 then [] else (qs.flatMap fun q => sourceSegs d c x q.va).foldl setIns []

/-- A read of a SPILLED entry fetches its frame from the spill area (R202, R204): host memory in requests that do not cross 4 KiB, or the
peer's pile. -/
def fetchSpilled (c : CoreId) (s : StreamId) (j : Nat) (q : Piece) : Act Unit := do
  let d ← look
  onSome (streamOf d c s) fun x => onSome (chunkOf x j) fun k => onSome (spilledFrame d x.part q.va) fun (a, f) => do
    let keep (tgt : Nat) (tag : Option Nat) : Act Unit := do
      let q' : Piece := { q with
        tier := 4
        tgt := tgt
        tag := tag }
      setStream c s (setChunk x { k with left := k.left.map fun y => if y.id = q.id then q' else y })
    if bitsOf (latched d x.part .BARL_CTRL) 5 4 = 1 then do
      let fn := bitsOf (latched d x.part .BARL_SPILL_TGT) 3 0
      keep fn none
      let n := min f.size (4096 - a % 4096)
      emit (.out (.hostRead (Fin.ofNat 16 fn) a n))
      onlyIf (decide (n < f.size)) (emit (.out (.hostRead (Fin.ofNat 16 fn) (a + n) (f.size - n))))
    else onSome (openChan d x.part (latched d x.part .BARL_SPILL_TGT)) fun ic => do
      let tag ← issueRma ic.1 false a f.size [] (some (c, s, j, q.id))
      keep (latched d x.part .BARL_SPILL_TGT) (some tag)

/-- A piece of a chunk issues as a read (R161, R166). A fault marks the chunk (R174); a watched page outside tier 1 takes code 0x8
(R178). -/
def issueRead (c : CoreId) (s : StreamId) (j : Nat) (q : Piece) : Act Unit := do
  let d ← look
  onSome (streamOf d c s) fun x => onSome (chunkOf x j) fun k => do
    let t := targetOf d c x q.va
    let bad (code : Nat) : Act Unit := do
      if k.st = .faulted ∨ k.st = .raised then pure ()
      else setStream c s { setChunk x { k with st := .faulted, code := code, addr := q.va } with flt := x.flt + 1 }
    let keep (q : Piece) : Act Unit := do
      setStream c s (setChunk x { k with left := k.left ++ [q] })
      grant 1 1
    match t with
    | .fault code => bad code
    | .pile _ => keep { q with tier := 1 }
    | .barrel =>
      if x.desc.watch ≠ 0 then bad 8
      else do
        keep { q with tier := 3 }
        fetchSpilled c s j { q with tier := 3 }
    | .host f a =>
      if x.desc.watch ≠ 0 then bad 8
      else do
        keep { q with tier := 2, tgt := f.val }
        emit (.out (.hostRead f a q.len))
    | .peer h a =>
      if x.desc.watch ≠ 0 then bad 8
      else onSome (chanBy d h) fun ic => do
        let tag ← issueRma ic.1 false a q.len [] (some (c, s, j, q.id))
        keep { q with tier := 2, tgt := h, tag := some tag }

/-- The chunks that become FULL with a chunk: itself, or for a transposing stream its whole strip (R168). -/
def fillGroup (x : Stream) (j : Nat) : List Nat :=
  if x.desc.transpose then
    let n := max 1 (x.desc.stripBytes / max 1 x.desc.csize)
    ((List.range n).map (· + j / n * n)).filter fun i => decide (i < x.desc.chunks)
  else [j]

/-- A chunk whose reads have all landed is FULL, its words with the parity they came with (R160, R176). -/
def fillChunk (c : CoreId) (s : StreamId) (j : Nat) : Act Unit := do
  let d ← look
  onSome (streamOf d c s) fun x => do
    let g := fillGroup x j
    let ready := g.all fun i => match chunkOf x i with
      | some k => k.left.isEmpty
      | none => decide (i < x.next)
    let cancelled := match x.mode with
      | .cancel _ => true
      | _ => false
    onlyIf (ready && !cancelled) do
      each g fun i => do
        let d ← look
        onSome (streamOf d c s) fun y => onSome (chunkOf y i) fun k => onlyIf (k.st == .fetching) do
          onlyIf y.desc.transpose do
            clearBad (.spad c) (y.desc.slotAt i) (y.desc.chunkLen i)
            addBad (.spad c) k.poison
            offMapStream c y.map (y.desc.slotAt i) (y.desc.chunkLen i)
          setStream c s { setChunk y { k with st := .full } with acc := y.acc + 1 }
      let d ← look
      onSome (streamOf d c s) fun y =>
        setStream c s { y with chunks := y.chunks.filter fun k => !(decide (k.j < y.rel) && k.left.isEmpty && k.st != .fetching) }
    streamProgress c s

/-- STREAM_CHUNK_FETCH: the next chunk of a landing stream issues its reads when its slot has been released (R161) and its watches find
room (R179). -/
def doFetch (c : CoreId) (s : StreamId) : Act Unit := do
  let d ← look
  onSome (streamOf d c s) fun x => do
    let j := x.next
    let live := !x.desc.drain && !x.paused && (match x.mode with
      | .run | .rearm _ _ _ _ => true
      | _ => false)
    onlyIf (live && decide (j < x.desc.chunks) && decide (j + heldCredits d c s < x.rel + x.desc.ccount)) do
      let qs := piecesOf d c x j
      let ws := watchesOf d c x qs
      let room := allPiles.all fun pl =>
        decide (watchesOn d pl + (ws.filter fun w => pileOfPa (if 2 ^ 40 ≤ w then w - 2 ^ 40 else w * 2048) == pl).length ≤ 8192)
      onlyIf room do
        setStream c s { x with next := j + 1, chunks := x.chunks ++ [⟨j, .fetching, [], 0, 0, false, ws, [], none⟩] }
        each qs (issueRead c s j)
        fillChunk c s j

/-- A piece leaves its chunk (R160); its fabric credit returns (R508). -/
def dropPiece (c : CoreId) (s : StreamId) (j id : Nat) : Act Unit := do
  let d ← look
  onSome (streamOf d c s) fun x => onSome (chunkOf x j) fun k => do
    setStream c s (setChunk x { k with left := k.left.filter fun q => q.id ≠ id })
    creditBack c.val 2 0 (giveBack 1 1)

/-- A span lands at its place in the chunk's slot: whole words get fresh parity, and a poisoned word lands poisoned (R101, R160, R176). -/
def landSpan (c : CoreId) (s : StreamId) (j : Nat) (q : Span) (bs : List Byte) (bad : List Nat) : Act Unit := do
  let d ← look
  onSome (streamOf d c s) fun x => do
    let base := x.desc.slotAt j + q.dst
    each (List.range q.n) fun i => emit (.write (.spad c) (base + i * q.step) ((bs.drop (i * q.elt)).take q.elt))
    let hurt := (List.range q.n).flatMap fun i =>
      let lo := (q.va % 8 + i * q.elt) / 8
      let hi := (q.va % 8 + i * q.elt + q.elt - 1) / 8
      (bad.filter fun w => decide (lo ≤ w) && decide (w ≤ hi)).map fun w => (base + i * q.step) / 8 + (w - lo)
    onlyIf (q.n == 1) do
      clearBad (.spad c) base q.elt
      offMapStream c x.map base q.elt
    addBad (.spad c) hurt
    onSome (chunkOf x j) fun k => setStream c s { setChunk x { k with poison := hurt.foldl setIns k.poison } with moved := x.moved + 1 }

/-- The bytes and poisoned words of a piece cut into its spans. -/
def cutParts : List Span → List Byte → List Nat → List (Span × List Byte × List Nat)
  | [], _, _ => []
  | q :: qs, bs, bad =>
    (q, bs.take q.len, bad.filter fun w => decide (8 * w < q.va % 8 + q.len)) :: cutParts qs (bs.drop q.len) ((bad.filter fun w => decide (q.len ≤ 8 * w)).map
      (· - q.len / 8))

/-- A piece lands (R160, R176). Bytes after a cancel are counted apart (R172). -/
def landPiece (c : CoreId) (s : StreamId) (j : Nat) (q : Piece) (bs : List Byte) (bad : List Nat) : Act Unit := do
  let d ← look
  onSome (streamOf d c s) fun x => do
    each (cutParts q.spans bs bad) fun (y, b, w) => landSpan c s j y b w
    match x.mode with
    | .cancel _ => count .STRM_CANCEL_BYTES c.val q.len
    | _ => count .STRM_LAND_BYTES c.val q.len
    onlyIf (q.tier == 2) (count .PILE_T2_RD_BYTES x.part.val q.len)
    dropPiece c s j q.id
    fillChunk c s j

/-- A read of a chunk faults: the chunk is FAULTED and its other reads still land (R174). The fault of a chunk already released, or of a
cancelled stream, is discarded at once. -/
def faultPiece (c : CoreId) (s : StreamId) (j : Nat) (q : Piece) (code addr : Nat) : Act Unit := do
  let d ← look
  onSome (streamOf d c s) fun x => onSome (chunkOf x j) fun k => do
    let late := decide (j < x.rel) || (match x.mode with
      | .cancel _ => true
      | _ => false)
    onlyIf (k.st == .fetching) do
      count .STRM_FAULT_DISCARD c.val (b2n late)
      setStream c s { setChunk x { k with
        st := (if late then .raised else .faulted)
        code := code
        addr := addr } with flt := x.flt + 1 }
    dropPiece c s j q.id
    fillChunk c s j

/-- An outstanding piece of a stream. -/
def pieceOf (d : Dev) (c : CoreId) (s : StreamId) (j id : Nat) : Option (Stream × Chunk × Piece) := do
  let x ← streamOf d c s
  let k ← chunkOf x j
  let q ← k.left.find? fun q => q.id == id
  pure (x, k, q)

/-- A read of the aperture lands with the poison that its entry's words carry (R202, R501). -/
def apertureBad (d : Dev) (p : PartId) (va n : Nat) : List Nat :=
  match entAt d p va with
  | some (i, e) => entBad d p i e (va - e.va) n
  | none => []

/-- The bytes of a pile request's spans, one after the other, with the poisoned words among them; or its fault. -/
def pileSpans (env : Env) (p : PartId) (a : Acc) : List Span → Act (Except (Nat × Nat) (List Byte × List Nat))
  | [] => pure (.ok ([], []))
  | q :: qs => do
    match ← vaRead env p a q.va q.len with
    | .error e => pure (.error e)
    | .ok (bs, bad) => do
      match ← pileSpans env p a qs with
      | .error e => pure (.error e)
      | .ok (bs', bad') => pure (.ok (bs ++ bs', bad ++ bad'.map (· + q.len / 8)))

/-- The same of a read of the aperture: none while the barrel manager holds it (R202). -/
def barrelSpans (d : Dev) (p : PartId) : List Span → Except (Nat × Nat) (Option (List Byte × List Nat))
  | [] => .ok (some ([], []))
  | q :: qs =>
    match barrelRead d p q.va q.len with
    | .fault code => .error (code, q.va)
    | .held => .ok none
    | .data bs =>
      match barrelSpans d p qs with
      | .ok (some (bs', bad')) => .ok (some (bs ++ bs', apertureBad d p q.va q.len ++ bad'.map (· + q.len / 8)))
      | r => r

/-- The frame of a spilled segment lands (R202): decoded, or poisoned where it fails a check (R600) or came poisoned; one that comes after its
entry was lost is a source timeout (R206). -/
def landFrame (c : CoreId) (s : StreamId) (j : Nat) (q : Piece) (bs : List Byte) (poisoned : Bool) : Act Unit := do
  let d ← look
  onSome (streamOf d c s) fun x =>
    match entAt d x.part q.va with
    | none => faultPiece c s j q 6 q.va
    | some (_, e) =>
      if e.st = .absent then faultPiece c s j q (if e.lost then 0xB else 6) q.va
      else do
        let seg := (q.va - e.va) / 2048
        let size := ((e.frames.find? fun f => f.seg == seg).map (·.size)).getD 0
        match (if poisoned then none else decodeFrame size seg (bs.take size)) with
        | some (raw, _) => landPiece c s j q (q.spans.flatMap fun y => padTo y.len 0#8 ((raw.drop ((y.va - e.va) % 2048)).take y.len)) []
        | none => landPiece c s j q (List.replicate q.len 0#8) (allWords q.va q.len)

/-- STREAM_READ_LANDED: a read returns. A pile read brings what the pile holds now; a host read what the completion brings; a read of an
open barrel entry is held, and one that was held goes to the spill area when the entry has closed there (R202). Answers of a peer come by
RMA_READ_RESPONSE. -/
def doLanded (c : CoreId) (s : StreamId) (j id : Nat) (ext : ExtData) : Act Unit := do
  let d ← look
  onSome (pieceOf d c s j id) fun (x, _, q) =>
    match q.tier, q.tag with
    | 1, _ => do
      match ← pileSpans (envOf d x.part) x.part (streamAcc d c x) q.spans with
      | .ok (bs, bad) => landPiece c s j q bs bad
      | .error (code, addr) => faultPiece c s j q code addr
    | 3, _ =>
      if (spilledFrame d x.part q.va).isSome then fetchSpilled c s j q
      else
      match barrelSpans d x.part q.spans with
      | .ok (some (bs, bad)) => landPiece c s j q bs bad
      | .ok none => pure ()
      | .error (code, addr) => faultPiece c s j q code addr
    | _, some _ => pure ()
    | 4, none => landFrame c s j q ext.bytes ext.poisoned
    | _, none => landPiece c s j q (padTo q.len 0#8 (ext.bytes.take q.len)) (if ext.poisoned then allWords q.va q.len else [])

/-- SOURCE_TIMEOUT: a tier-2 read is not answered in time (R176). -/
def doSourceTimeout (c : CoreId) (s : StreamId) (j id : Nat) : Act Unit := do
  let d ← look
  onSome (pieceOf d c s j id) fun (x, _, q) =>
    onlyIf ((q.tier == 2 || q.tier == 4) && !x.desc.drain) (faultPiece c s j q 0xB q.va)

/-! Draining (R164, R165, R175). -/

/-- A write of a drain faults (R175): the owner of the stream, or the task that released the chunk, is aborted and the stream cancelled. -/
def drainFault (c : CoreId) (s : StreamId) (j code addr status : Nat) : Act Unit := do
  let d ← look
  onSome (streamOf d c s) fun x => do
    let who := if x.desc.persist then (((chunkOf x j).bind (·.rel)).getD x.relBy) else (x.part, x.tid)
    onlyIf (status == 0x15) (strmFault c (((taskOf d who.1 who.2).bind (·.core)).map (·.2) |>.getD x.slot) s.val 0 code addr)
    abortTask who.1 who.2 status (if status = 0x15 then code else 0)
    cancelStream c s none

/-- The pieces of a chunk issue as writes, up to the first that faults (R164, R166, R175). -/
def issueWrites (c : CoreId) (s : StreamId) (j : Nat) : List Piece → Act Unit
  | [] => pure ()
  | q :: qs => do
    let d ← look
    match streamOf d c s with
    | none => pure ()
    | some x =>
      match chunkOf x j with
      | none => pure ()
      | some k => do
        let at_ := x.desc.slotAt j + ((q.spans.head?.map (·.dst)).getD 0)
        let keep (q : Piece) : Act Unit := do
          setStream c s (setChunk x { k with st := .draining, left := k.left ++ [q] })
          grant 1 1
        match targetOf d c x q.va with
        | .fault code => drainFault c s j code q.va 0x15
        | .pile seg => do
          injectSend c.val (Fin.ofNat 8 (seg / 2 ^ 25)) (ceilDiv q.len 8)
          keep { q with tier := 1 }
          issueWrites c s j qs
        | .barrel => do
          keep { q with tier := 3 }
          issueWrites c s j qs
        | .host f _ => do
          keep { q with tier := 2, tgt := f.val }
          issueWrites c s j qs
        | .peer h a =>
          if !(badIn d (.spad c) at_ q.len).isEmpty then drainFault c s j 0 0 0x18
          else
            match chanBy d h with
            | none => drainFault c s j 6 q.va 0x15
            | some ic => do
              let tag ← issueRma ic.1 true a q.len (bytesOf d (.spad c) at_ q.len) (some (c, s, j, q.id))
              keep { q with tier := 2, tgt := h, tag := some tag }
              issueWrites c s j qs

/-- DRAIN_CHUNK_WRITE: the first released chunk issues its writes (R164). -/
def doDrain (c : CoreId) (s : StreamId) (parity : List ParityHit) : Act Unit := do
  let d ← look
  onSome (streamOf d c s) fun x => do
    let live := x.desc.drain && !x.paused && (match x.mode with
      | .cancel _ => false
      | _ => true)
    onlyIf live (onSome (x.chunks.find? fun k => k.st == .released) fun k => do
      portParity c parity (x.desc.slotAt k.j) (x.desc.chunkLen k.j)
      offMapStream c x.map (x.desc.slotAt k.j) (x.desc.chunkLen k.j)
      issueWrites c s k.j (piecesOf d c x k.j))

/-- A chunk whose writes are all accepted is FREE (R164). -/
def freeChunk (c : CoreId) (s : StreamId) (j : Nat) : Act Unit := do
  let d ← look
  onSome (streamOf d c s) fun x => onSome (chunkOf x j) fun k =>
    onlyIf (k.left.isEmpty && k.st == .draining) do
      setStream c s { x with chunks := x.chunks.filter (fun y => y.j ≠ j), acc := x.acc + 1, next := max x.next (j + 1) }
      streamProgress c s

/-- A write of a chunk is accepted: counted, and the chunk FREE with its last (R164). -/
def acceptPiece (c : CoreId) (s : StreamId) (j : Nat) (q : Piece) : Act Unit := do
  let d ← look
  onSome (streamOf d c s) fun x => do
    setStream c s { x with moved := x.moved + 1 }
    count .STRM_DRAIN_BYTES c.val q.len
    onlyIf (q.tier == 2) (count .PILE_T2_WR_BYTES x.part.val q.len)
    dropPiece c s j q.id
    match x.mode with
    | .cancel _ => streamProgress c s
    | _ => freeChunk c s j

/-- Whether the piece is the last write of its extent, which carries the close mark (R201). -/
def lastWrite (x : Stream) (j : Nat) : Bool :=
  decide (x.acc + 1 = x.desc.chunks) && decide (((chunkOf x j).map fun k => k.left.length).getD 0 = 1)

/-- The spans of a pile write taken by the base die, with the poison that travels with them (R102). -/
def pilePuts (env : Env) (p : PartId) (a : Acc) (c : CoreId) (base : Nat) : List Span → Act (Except (Nat × Nat) Unit)
  | [] => pure (.ok ())
  | q :: qs => do
    let d ← look
    match ← vaWrite env p a q.va (bytesOf d (.spad c) (base + q.dst) q.len) (relBad d (.spad c) (base + q.dst) q.len) with
    | .error e => pure (.error e)
    | .ok _ => pilePuts env p a c base qs

/-- The spans of a write of the aperture taken by the barrel manager (R200); the last of an extent carries the close mark (R201). -/
def barrelPuts (p : PartId) (c : CoreId) (base : Nat) (last : Bool) (who : Option Nat) (late : Bool) : List Span → Act (Except (Nat × Nat) Unit)
  | [] => pure (.ok ())
  | q :: qs => do
    let d ← look
    match ← barrelWrite p q.va (bytesOf d (.spad c) (base + q.dst) q.len) (relBad d (.spad c) (base + q.dst) q.len) (last && qs.isEmpty) who late with
    | .error code => pure (.error (code, q.va))
    | .ok _ => barrelPuts p c base last who late qs

/-- DRAIN_WRITE_ACCEPTED: the target takes a write: the base die orders it, the posted write leaves, the barrel stores it, or the peer has
reported it done (R164, R200, R352). -/
def doAccepted (c : CoreId) (s : StreamId) (j id : Nat) : Act Unit := do
  let d ← look
  onSome (pieceOf d c s j id) fun (x, _, q) => onlyIf x.desc.drain do
    let base := x.desc.slotAt j
    let at_ := base + ((q.spans.head?.map (·.dst)).getD 0)
    let bs := bytesOf d (.spad c) at_ q.len
    let bad := relBad d (.spad c) at_ q.len
    match q.tier, q.tag with
    | 1, _ => do
      match ← pilePuts (envOf d x.part) x.part (streamAcc d c x) c base q.spans with
      | .ok _ => acceptPiece c s j q
      | .error (code, addr) => do
        dropPiece c s j q.id
        drainFault c s j code addr 0x15
    | 3, _ => do
      let spills := ((entAt d x.part q.va).map fun ie => toSpill d x.part ie.2).getD false && bitsOf (latched d x.part .BARL_CTRL) 5 4 == 2
      let hurt := q.spans.any fun (y : Span) => !(badIn d (.spad c) (base + y.dst) y.len).isEmpty
      let who := if x.desc.persist then ((((chunkOf x j).bind (·.rel)).getD x.relBy).2) else x.tid
      let gone := (taskOf d x.part who).all Task.over
      if spills && hurt then do
        dropPiece c s j q.id
        drainFault c s j 0 0 0x18
      else do
        match ← barrelPuts x.part c base (lastWrite x j) (if gone then none else some who) gone q.spans with
        | .ok _ => acceptPiece c s j q
        | .error (code, addr) => do
          dropPiece c s j q.id
          drainFault c s j code addr 0x15
    | _, some tag =>
      let waits := ((chanBy d q.tgt).map fun ic => ic.2.reqs.any fun r => r.tag == tag).getD true
      onlyIf (!waits) (acceptPiece c s j q)
    | _, none => do
      match targetOf d c x q.va with
      | .host f a => do
        emit (.out (.hostWrite f a bs (!bad.isEmpty)))
        acceptPiece c s j q
      | _ => do
        dropPiece c s j q.id
        drainFault c s j 6 q.va 0x15

/-! Loss of a target, the watchdog, and cancellation (R173, R180, R319). -/

/-- A tier-2 target of a partition is lost (R319): reads in flight to it are discarded and fault their chunks, writes in flight are
discarded. `hit` picks the pieces. -/
def targetLost (hit : Stream → Piece → Bool) : Act Unit := do
  let d ← look
  each d.streams fun ((c, s), x) =>
    each (x.chunks.flatMap fun k => (k.left.filter fun q => (q.tier == 2 || q.tier == 4) && hit x q).map fun q => (k.j, q)) fun (j, q) => do
      count .PILE_T2_LOST x.part.val (b2n (q.tier == 2))
      if x.desc.drain then do
        dropPiece c s j q.id
        match x.mode with
        | .cancel _ => streamProgress c s
        | _ => freeChunk c s j
      else faultPiece c s j q 0xB q.va

/-- Every stream that a condition picks is cancelled (R173). -/
def cancelStreams (pick : CoreId → Stream → Bool) : Act Unit := do
  let d ← look
  each d.streams fun ((c, s), x) => onlyIf (pick c x) (cancelStream c s none)

/-- What the island of a core stands still for, with the task whose access is held: array, vector engine, lathe (R94). -/
def standing (d : Dev) (c : CoreId) : Option ArrWait :=
  let eng (r : Option Run) : Option ArrWait := r.bind fun y => y.stall.map fun s =>
    ⟨(slotOf d c y.q.slot).part, (slotOf d c y.q.slot).tid, y.q.slot, s⟩
  [(arrOf d c).wait, eng (vecOf d c).run, eng (latheOf d c).run].findSome? fun w => w.filter fun y => stands d c (some y.stall)

/-- Whether the stream that an access waits for has moved since the access began to wait: landed a byte, had a write accepted or released a
chunk (R180). -/
def movedSince (d : Dev) (c : CoreId) (s : Stall) : Bool := ((streamOf d c s.stream).map fun x => x.moved != s.moved).getD true

/-- PROGRESS_WATCHDOG_FIRE: the island has been frozen for the limit, and over the same cycles the awaited stream has not moved, so the
task whose access is held is aborted (R180). `held` are the core cycles it was frozen, `still` those since the stream last moved. -/
def doWatchdog (c : CoreId) (held still : Nat) : Act Unit := do
  let d ← look
  let limit := bitsOf (regOf d .STRM_CTRL c.val) 31 16
  onSome (standing d c) fun w =>
    onlyIf (limit != 0 && decide (limit * 1024 ≤ held) && (!movedSince d c w.stall || decide (limit * 1024 ≤ still))) do
      count .CORE_FREEZE_STREAM c.val held
      count .STRM_WDOG_FIRES c.val 1
      strmFault c w.slot w.stall.stream.val 0 0xA 0
      abortTask w.part w.tid 0x15 0xA

/-! Eviction (R108, R109, R183). -/

/-- Whether a stream's ring lies in a range of a core's scratchpad. -/
def Stream.ringIn (x : Stream) (a n : Nat) : Bool := decide (a ≤ x.desc.ring) && decide (x.desc.ring < a + n)

/-- The streams of a window stop issuing (R183). -/
def pauseStreams (c : CoreId) (a n : Nat) : Act Unit := do
  let d ← look
  each d.streams fun ((k, s), x) => onlyIf (k == c && x.ringIn a n) (setStream k s { x with paused := true })

/-- Whether a stream of a window still has reads or writes in flight (R183). -/
def windowFlying (d : Dev) (c : CoreId) (a n : Nat) : Bool :=
  d.streams.any fun y => y.1.1 == c && y.2.ringIn a n && y.2.flying

/-- The chunks of an evicted stream (R183): those FETCHING are as if they had not been issued, with the reads they have lost; the others
keep their state, and their watches. -/
def unfetch (x : Stream) : Stream := { x with chunks := x.chunks.filter fun k => k.st != .fetching }

/-- The streams of an evicted window leave the core's table with it (R108, R152, R183): they are armed again by the restore. -/
def takeStreams (c : CoreId) (a n : Nat) : Act (Tab StreamId Stream) := do
  let d ← look
  let mine := d.streams.filter fun ((k, _), x) => k == c && x.ringIn a n
  each mine fun ((k, s), _) => emit (.stream k s none)
  pure (mine.map fun ((_, s), x) => (s, unfetch x))

/-- The streams of a restored window are armed on its core with their rings shifted, and go on (R109, R183). -/
def putStreams (c : CoreId) (a a' : Nat) (xs : Tab StreamId Stream) : Act Unit :=
  each xs fun (s, x) => setStream c s { x with
    desc := { x.desc with ring := x.desc.ring - a + a' }
    paused := false }

end Sys2Proof.Machine
end

