-- ==== Sys2Proof/Machine/Channels.lean ====
section
/-! DEFINITION. Channel ends (file 12, R348–R358): creation and destruction, maintenance messages and timers, messages that arrive, SEND and
RECV, and remote memory access. -/

namespace Sys2Proof.Machine

/-- The shape byte of an end (R350). -/
def Chan.shape (c : Chan) : Nat := c.cls * 32 + c.kind * 8 + c.slotK

/-- Frames of a message (R334). -/
def framesOf (n : Nat) : Nat := max 1 (ceilDiv n 256)

/-- Frames discarded at a channel end (R351, R364). -/
def staleFrames (n : Nat) : Act Unit := count .TYL_STALE_FRAMES 0 (framesOf n)

/-- A sending whose channel is gone: its task is aborted (R358, R360); a leader's RELEASE to the deputy (key 2) is lost (R263). -/
def ownerAbort (o : Owner) : Act Unit :=
  match o with
  | .task c p tid _ _ _ => chanAbort c p tid 1 0xD 0
  | .round id => roundFail id
  | .engine p key => do
    let d ← look
    onlyIf (key == 2) (emit (.esc p { escOf d p with relLost := true }))

/-- What a partition loses with a channel: reads in flight to it and writes (R319), and a spill area behind it (R206). -/
def channelGone (p : PartId) (h : Nat) : Act Unit := do
  targetLost fun x q => x.part == p && q.tag.isSome && q.tgt == h
  let d ← look
  onlyIf (spillsTo d p 2 h (2 ^ 32)) (spillTargetGone p)

/-- Refresh sends that were outstanding on an end that is lost: the refresh of their slices never completes in this step (R252, R262). -/
def refreshLost (p : PartId) (reqs : List RmaReq) : Act Unit := do
  let d ← look
  let e := escOf d p
  let lost := ((List.range e.slices.length).zip e.slices).map fun (i, s) =>
    if (reqs.any fun r => r.note == some (.refresh e.step i)) && s.ref == .sending then { s with ref := .lost } else s
  emit (.esc p { e with slices := lost })

/-- An end enters FAILED (R351): commands whose messages have not landed abort, and what went through it is lost. -/
def chanFail (i : ChanIdx) : Act Unit := do
  let d ← look
  onSome (chanOf d i) fun c => onlyIf (c.st != .failed && c.st != .free) do
    setChan i { c with st := .failed, jobs := [], sents := [], reqs := [], wait := [], hold := false, back := [] }
    count .TYL_CHAN_FAILS 0 1
    each ((c.jobs.map (·.owner) ++ c.sents.map (·.owner)).dedup) ownerAbort
    refreshLost c.part c.reqs
    channelGone c.part (c.handle i)

/-- BYE_ABORT is sent and the end enters FAILED (R352). -/
def chanGiveUp (i : ChanIdx) : Act Unit := do
  sendMaint i 5
  chanFail i

/-- An end is freed with whatever still used it (R351, R360). -/
def chanRelease (i : ChanIdx) : Act Unit := do
  let d ← look
  onSome (chanOf d i) fun c => do
    freeChan i
    each ((c.jobs.map (·.owner) ++ c.sents.map (·.owner)).dedup) ownerAbort
    each c.recvs fun r => chanAbort r.c r.p r.tid 2 0xD 0
    refreshLost c.part c.reqs
    channelGone c.part (c.handle i)

/-- An end that is killed (R351): BYE_ABORT unless it listens, and it is freed at once. -/
def chanKill (i : ChanIdx) : Act Unit := do
  let d ← look
  onSome (chanOf d i) fun c => do
    onlyIf (c.st != .listen) (sendMaint i 5)
    chanRelease i

/-- A CLOSING end whose messages have all landed and whose peer has said BYE is freed (R351). -/
def closeCheck (i : ChanIdx) : Act Unit := do
  let d ← look
  onSome (chanOf d i) fun c =>
    onlyIf (c.st == .closing && c.byeIn && c.jobs.isEmpty && decide (c.sent ≤ c.pLanded)) (chanRelease i)

/-- An OPEN end goes to CLOSING and sends BYE (R351). -/
def startClosing (i : ChanIdx) : Act Unit := do
  let d ← look
  onSome (chanOf d i) fun c => do
    setChan i { c with st := .closing }
    sendMaint i 4

/-! RECV (R356). -/

/-- A RECV ends: its slot waits no longer; it writes its status word and completes. -/
def endRecv (i : ChanIdx) (r : RecvJob) (tail : Bool) : Act Unit := do
  let d ← look
  onSome (chanOf d i) fun c => setChan i { c with recvs := c.recvs.drop 1 }
  emit (.write (.spad r.c) r.status (leBytes 4 (r.got + b2n tail * 2 ^ 31)))
  clearBad (.spad r.c) r.status 4
  doneCmd r.c r.p r.tid r.seq r.ctr

/-- The slot of a RECV parks while nothing it can take has arrived, or goes on (R94, R356). -/
def parkRecv (r : RecvJob) (on : Bool) : Act Unit := do
  let d ← look
  onSome (taskOf d r.p r.tid) fun t => onSome t.core fun (c, k) =>
    let x := slotOf d c k
    if on then onlyIf (x.st == .ready) (emit (.slot c k { x with st := .waiting, wait := some .recv }))
    else onlyIf (x.st == .waiting && x.wait == some .recv) (emit (.slot c k { x with st := .ready, wait := none }))

/-- One message delivered to a RECV's destination (R356). -/
def deliver (r : RecvJob) (bs : List Byte) : Act (Except (Nat × Nat) Unit) := do
  let d ← look
  if r.va then vaWrite (envOf d r.p) r.p { stream := true, die := some (r.c.val / 50) } (r.dst + r.got) bs []
  else do
    emit (.write (.spad r.c) (r.dst + r.got) bs)
    clearBad (.spad r.c) (r.dst + r.got) bs.length
    pure (.ok ())

/-- Whether a RECV can go on: its task is on its slot; that of a suspended task is parked and continues on resume (R400). -/
def RecvJob.goes (d : Dev) (r : RecvJob) : Bool :=
  (((taskOf d r.p r.tid).bind (·.core)).map fun ck => (slotOf d ck.1 ck.2).st != .saving).getD false

/-- RECVs of an end move messages from its ring, in order, as far as they can (R356); `fuel` bounds the messages. -/
def pumpRecv (i : ChanIdx) : Nat → Act Unit
  | 0 => pure ()
  | fuel + 1 => do
    let d ← look
    match chanOf d i with
    | none => pure ()
    | some c =>
      match c.recvs with
      | [] => pure ()
      | r :: rest =>
        if !r.goes d then each (c.recvs.filter fun (y : RecvJob) => y.goes d) fun y => parkRecv y true
        else if c.landed ≤ c.freed then
          if c.st = .failed then do
            setChan i { c with recvs := rest }
            chanAbort r.c r.p r.tid 2 0xD 0
            pumpRecv i fuel
          else each c.recvs fun y => parkRecv y true
        else do
          match ← ringHead i with
          | none => do
            setChan i { c with recvs := rest }
            abortTask r.p r.tid 0x18 0
            pumpRecv i fuel
          | some (bs, tail) =>
            if r.len < r.got + bs.length then do
              parkRecv r false
              endRecv i r false
              pumpRecv i fuel
            else do
              match ← deliver r bs with
              | .error (code, addr) => do
                setChan i { c with recvs := rest }
                chanAbort r.c r.p r.tid 2 code addr
                pumpRecv i fuel
              | .ok _ => do
                freeRingSlot i
                parkRecv r false
                let r' := { r with got := r.got + bs.length }
                let d ← look
                onSome (chanOf d i) fun c' => setChan i { c' with recvs := r' :: c'.recvs.drop 1 }
                if tail ∨ r'.got = r'.len then endRecv i r' tail else pure ()
                pumpRecv i fuel

/-- RECVs of an end with messages enough for its ring. -/
def pumpRecvAll (i : ChanIdx) : Act Unit := do
  let d ← look
  onSome (chanOf d i) fun c => onlyIf (!c.recvs.isEmpty) (pumpRecv i (c.landed - c.freed + 2 * c.recvs.length + 1))

/-- What an aborted or ended task has not sent is not sent, and its RECVs go with it (R93). -/
def dropTaskChans (p : PartId) (tid : Nat) : Act Unit := do
  let d ← look
  let mine (o : Owner) : Bool := match o with
    | .task _ q t _ _ _ => q == p && t == tid
    | _ => false
  each d.chans fun ic =>
    if ic.2.jobs.any (fun (j : SendJob) => mine j.owner) ∨ ic.2.recvs.any (fun (r : RecvJob) => r.p == p && r.tid == tid) then do
      setChan ic.1 { ic.2 with
        jobs := ic.2.jobs.filter fun (j : SendJob) => !mine j.owner
        recvs := ic.2.recvs.filter fun (r : RecvJob) => !(r.p == p && r.tid == tid) }
      pumpChanAll ic.1
    else pure ()

/-- SENDs of a task with no message sent are withdrawn by a pre-emption (R91, R400): their sequence numbers and bits. -/
def withdrawSends (p : PartId) (tid : Nat) : Act (List (Nat × Nat)) := do
  let d ← look
  let mine (j : SendJob) : Option (Nat × Nat) := match j.owner with
    | .task _ q t seq _ _ => if q = p ∧ t = tid ∧ !j.begun then some (seq, j.cmd) else none
    | _ => none
  let back := d.chans.flatMap fun ic => ic.2.jobs.filterMap mine
  each d.chans fun ic =>
    onlyIf (ic.2.jobs.any fun j => (mine j).isSome) (setChan ic.1 { ic.2 with jobs := ic.2.jobs.filter fun (j : SendJob) => (mine j).isNone })
  pure back

/-! Messages that arrive at an end (R349–R352). -/

/-- A cumulative count that a message carries in 32 bits, as it stands here. -/
def later (old v : Nat) : Nat :=
  let up := (v + 2 ^ 32 - old % 2 ^ 32) % 2 ^ 32
  if up < 2 ^ 31 then old + up else old

/-- The end that a maintenance message names; frames for a handle that is not live are discarded and counted (R351). -/
def withEnd (h : Nat) (n : Nat) (f : ChanIdx → Chan → Act Unit) : Act Unit := do
  let d ← look
  match chanBy d h with
  | none => staleFrames n
  | some ic => f ic.1 ic.2

/-- An end opens with the slots that its peer grants (R351). -/
def openEnd (i : ChanIdx) (peerH slots : Nat) : Act Unit := do
  let d ← look
  onSome (chanOf d i) fun c => setChan i { c with st := .opened, peerH := peerH, pSlots := slots }

/-- HELLO (R351, R360). A HELLO that an OPEN end has answered already is answered again. -/
def doHello (h : Nat) (msg : List Byte) : Act Unit :=
  withEnd h msg.length fun i c =>
    if fieldAt msg 2 2 ≠ c.peer then staleFrames msg.length
    else
      match c.st with
      | .listen | .connecting | .opened =>
        if fieldAt msg 1 1 ≠ c.shape then chanFail i
        else
          match c.st with
          | .listen => do
            openEnd i (fieldAt msg 4 4) (fieldAt msg 8 4)
            sendMaint i 2
          | .connecting => do
            openEnd i c.peerH (fieldAt msg 8 4)
            pumpChanAll i
          | _ => sendMaint i 2
      | _ => pure ()

/-- HELLO_ACK (R351). -/
def doHelloAck (h : Nat) (msg : List Byte) : Act Unit :=
  withEnd h msg.length fun i c => onlyIf (c.st == .connecting) do
    openEnd i c.peerH (fieldAt msg 8 4)
    pumpChanAll i

/-- STATUS (R352). -/
def doChanStatus (h : Nat) (msg : List Byte) : Act Unit :=
  withEnd h msg.length fun i c => onlyIf (c.st == .opened || c.st == .closing) do
    let done := later c.pRma (fieldAt msg 0x14 4)
    setChan i { c with
      pSlots := fieldAt msg 8 4, pLanded := later c.pLanded (fieldAt msg 0xC 4), pFreed := later c.pFreed (fieldAt msg 0x10 4), pRma := done }
    each (c.reqs.filter fun r => r.write && decide (r.num < done)) fun r => endRma i r.tag
    chanLanded i
    closeCheck i

/-- BYE (R351). -/
def doBye (h : Nat) (msg : List Byte) : Act Unit :=
  withEnd h msg.length fun i c => onlyIf (c.st == .opened || c.st == .closing) do
    onlyIf (c.st == .opened) (startClosing i)
    let d ← look
    onSome (chanOf d i) fun y => setChan i { y with byeIn := true }
    closeCheck i

/-- BYE_ABORT (R351). -/
def doByeAbort (h : Nat) (msg : List Byte) : Act Unit := withEnd h msg.length fun i _ => chanFail i

/-- A connecting end repeats HELLO every tmo, and fails after eight unanswered (R351). -/
def doHelloRepeat (i : ChanIdx) : Act Unit := do
  let d ← look
  onSome (chanOf d i) fun c => onlyIf (c.st == .connecting) do
    if 8 ≤ c.hellos then chanFail i
    else do
      setChan i { c with hellos := c.hellos + 1 }
      sendMaint i 1

/-- A message stays unlanded, or a remote read unanswered, for tmo (R352). -/
def doChanTimeout (i : ChanIdx) : Act Unit := do
  let d ← look
  onSome (chanOf d i) fun c =>
    onlyIf (c.st == .opened && (decide (c.pLanded < c.sent) || !c.reqs.isEmpty)) (chanGiveUp i)

/-- A CLOSING end reaches tmo (R351). -/
def doClosingTimeout (i : ChanIdx) : Act Unit := do
  let d ← look
  onSome (chanOf d i) fun c => onlyIf (c.st == .closing) do
    count .TYL_CHAN_FAILS 0 1
    chanRelease i

/-- 0.5 µs after landed or freed changed, STATUS goes (R352). -/
def doStatusTimer (i : ChanIdx) : Act Unit := do
  let d ← look
  onSome (chanOf d i) fun c => onlyIf (c.changed && (c.st == .opened || c.st == .closing)) (sendStatus i)

/-- A channel message arrives (R351, R352, R356). -/
def doArrival (h : Nat) (bs : List Byte) (tail : Bool) : Act Unit :=
  withEnd h bs.length fun i c =>
    if c.st ≠ .opened ∧ c.st ≠ .closing then staleFrames bs.length
    else if c.said.2 + c.slots ≤ c.landed then do
      staleFrames bs.length
      chanGiveUp i
    else if c.slotBytes < bs.length then chanGiveUp i
    else do
      let ok ← landInRing i bs tail
      if !ok then chanGiveUp i
      else do
        let b := fieldAt bs 0 1
        if c.kind = 3 ∧ (b = 0 ∨ 0x20 ≤ b) then do
          staleFrames bs.length
          freeRingSlot i
        else pumpRecvAll i

/-! SEND and RECV (R353–R358). -/

/-- Whether a SEND or RECV keeps to the fields of R353. -/
def sendFieldsOk (w : Nat) : Bool :=
  bitsOf w 127 86 == 0 && bitsOf w 85 64 % 64 == 0 && bitsOf w 63 22 == 0 && bitsOf w 15 8 == 0

/-- A SEND (source 0x1) or RECV (0x2) is refused (R358). -/
def sendAbort (c : CoreId) (k : SlotId) (source code : Nat) : Act Unit := do
  strmFault c k 0 source code 0
  abortSlot c k 0x15 code

/-- The messages of a SEND in bytes mode (R355). -/
def byteMsgs (slot : Nat) (va : Bool) (c : CoreId) (a : Nat) (tail : Bool) : Nat → Nat → Nat → List OutMsg
  | 0, _, _ => []
  | fuel + 1, off, len =>
    if len ≤ off then []
    else
      let n := min slot (len - off)
      ⟨if va then .va (a + off) n else .spad c (a + off) n, tail && decide (len ≤ off + n)⟩ :: byteMsgs slot va c a tail fuel (off + n) len

/-- The contribution header (R247) of `n` elements from element `off` of a SEND. -/
def contribHead (job slice step off n ci fmt : Nat) (first last : Bool) : List Byte :=
  leBytes 4 job ++ leBytes 4 slice ++ leBytes 8 step ++ leBytes 4 off ++ leBytes 4 n ++ leBytes 2 ci ++ leBytes 1 fmt ++
    leBytes 1 (b2n first + 2 * b2n last) ++ leBytes 4 0

/-- The messages of a SEND in contribution mode (R355): whole blocks of 32, as many as fit the slot behind the header. -/
def contribMsgs (mk : Nat → Nat → Bool → Bool → Src) (per : Nat) (tail : Bool) : Nat → Nat → Nat → List OutMsg
  | 0, _, _ => []
  | fuel + 1, off, len =>
    if len ≤ off ∨ per = 0 then []
    else
      let n := min per (len - off)
      let last := decide (len ≤ off + n)
      ⟨mk off n (decide (off = 0)) last, tail && last⟩ :: contribMsgs mk per tail fuel (off + n) len

/-- The messages of a contribution SEND, its tag resolved as by a reader whose named format is F32 (R250, R355). -/
def contribOf (d : Dev) (c : CoreId) (x : Slot) (ch : Chan) (bs : List Byte) (va : Bool) (a len : Nat) : List OutMsg :=
  let g := govern d c x.part (fieldAt bs 0x1E 2) 0 len
  let rb := rowBytes ((fmtOf g.fmt).getD .f32) 32
  let per := (ch.slotBytes - 32) / max 1 rb * 32
  let base := fieldAt bs 0x18 4
  let mk (off n : Nat) (first last : Bool) : Src :=
    .contrib c va (a + 4 * off) n
      (contribHead (partOf d x.part).job (fieldAt bs 0x14 4) (stepNum d x.part) (base + off) n (fieldAt bs 0x1C 2) g.fmt first last)
      g.fmt (g.rnd.getD 0) x.seed
  contribMsgs mk per (bitOf (fieldAt bs 5 1) 0) (len / 32 + 1) 0 len

/-- Whether the SEND at a slot's position is one of contribution mode: its descriptor says so, as far as it can be read. -/
def isContrib (d : Dev) (c : CoreId) (x : Slot) (w : Nat) : Bool :=
  let off := bitsOf w 85 64
  x.inWindow off 64 && fieldAt (bytesOf d (.spad c) (x.phys off) 64) 4 1 == 1

/-- SEND (R353–R355, R358). -/
def actSend (c : CoreId) (k : SlotId) (parity : List ParityHit) (w seq : Nat) : Act Unit := do
  let d ← look
  let x := slotOf d c k
  portParity c parity (x.phys (bitsOf w 85 64)) 64
  let d ← look
  let off := bitsOf w 85 64
  let bs := bytesOf d (.spad c) (x.phys off) 64
  let mode := fieldAt bs 4 1
  let flags := fieldAt bs 5 1
  let src := fieldAt bs 8 8
  let len := fieldAt bs 0x10 4
  let va := bitOf flags 1
  let n := if mode = 1 then 4 * len else len
  if !sendFieldsOk w then sendAbort c k 1 1
  else if !x.inWindow off 64 then sendAbort c k 1 2
  else if !(badIn d (.spad c) (x.phys off) 64).isEmpty then abortSlot c k 0x18 0
  else if 1 < mode ∨ 3 < flags ∨ src % 8 ≠ 0 ∨ src / 2 ^ (if va then 48 else 22) ≠ 0 ∨ (bs.drop 0x24).any (· != 0#8) ∨
      (mode = 1 ∧ fieldAt bs 0x18 4 % 32 ≠ 0) then sendAbort c k 1 1
  else if !va && !x.inWindow src n then sendAbort c k 1 2
  else
    match openChan d x.part (fieldAt bs 0 4) with
    | none => sendAbort c k 1 0xC
    | some (i, ch) =>
      let kindOk := if mode = 1 then ch.kind == 1 else ch.kind == 0 || ch.kind == 3
      let lenOk := if mode = 1 then len != 0 && len % 32 == 0
        else decide (8 ≤ len) && decide (len ≤ 2 ^ 24) && len % 8 == 0
      if !kindOk || !lenOk then sendAbort c k 1 0xC
      else
        let a := if va then src else x.phys src
        let msgs := if mode = 1 then contribOf d c x ch bs va a len
          else byteMsgs ch.slotBytes va c a (bitOf flags 0) (len / ch.slotBytes + 1) 0 len
        queueJob i (.task c x.part x.tid seq (if bitOf w 16 then some (bitsOf w 21 17) else none) (x.phys off + 0x20)) msgs w

/-- RECV (R353, R354, R356, R358). It is taken on a FAILED end too, to deliver what its ring holds. -/
def actRecv (c : CoreId) (k : SlotId) (parity : List ParityHit) (w seq : Nat) : Act Unit := do
  let d ← look
  let x := slotOf d c k
  portParity c parity (x.phys (bitsOf w 85 64)) 64
  let d ← look
  let off := bitsOf w 85 64
  let bs := bytesOf d (.spad c) (x.phys off) 64
  let flags := fieldAt bs 5 1
  let dst := fieldAt bs 8 8
  let len := fieldAt bs 0x10 4
  let va := bitOf flags 1
  if !sendFieldsOk w then sendAbort c k 2 1
  else if !x.inWindow off 64 then sendAbort c k 2 2
  else if !(badIn d (.spad c) (x.phys off) 64).isEmpty then abortSlot c k 0x18 0
  else if fieldAt bs 4 1 ≠ 0 ∨ (flags ≠ 0 ∧ flags ≠ 2) ∨ dst % 8 ≠ 0 ∨ dst / 2 ^ (if va then 48 else 22) ≠ 0 ∨
      (bs.drop 0x24).any (· != 0#8) then sendAbort c k 2 1
  else if !va && !x.inWindow dst len then sendAbort c k 2 2
  else
    match chanBy d (fieldAt bs 0 4) with
    | none => sendAbort c k 2 0xC
    | some (i, ch) =>
      if ch.part ≠ x.part ∨ ch.kind ≠ 0 ∨ (ch.st ≠ .opened ∧ ch.st ≠ .failed) ∨ len = 0 ∨ len % ch.slotBytes ≠ 0 then sendAbort c k 2 0xC
      else do
        let r : RecvJob := ⟨c, x.part, x.tid, seq, if bitOf w 16 then some (bitsOf w 21 17) else none, x.phys off + 0x20, va,
          if va then dst else x.phys dst, len, 0⟩
        setChan i { ch with recvs := ch.recvs ++ [r] }
        pumpRecvAll i

/-! Remote memory access (R318, R357). -/

/-- The address, length and tag of a remote message (R357). -/
def rmaVa (msg : List Byte) : Nat := bitsOf (fieldAt msg 8 8) 47 0
def rmaLen (msg : List Byte) : Nat := fieldAt msg 2 2
def rmaTag (msg : List Byte) : Nat := fieldAt msg 4 4

/-- Whether a remote request is one the serving end answers with data (R357). -/
def rmaOk (c : Chan) (msg : List Byte) : Bool :=
  c.rma && decide (8 ≤ rmaLen msg) && decide (rmaLen msg ≤ 4096) && rmaLen msg % 8 == 0

/-- A remote read request at the serving end (R318): a response, or an error. A poisoned word is never sent (R501). -/
def doRmaRead (h : Nat) (msg : List Byte) : Act Unit :=
  withEnd h msg.length fun i c =>
    if c.st ≠ .opened ∧ c.st ≠ .closing then staleFrames msg.length
    else do
      let d ← look
      let err : Act Unit := sendRma i (rmaHead 4 (rmaLen msg) (rmaTag msg) (rmaVa msg))
      if !rmaOk c msg then err
      else do
        match ← vaRead (envOf d c.part) c.part { stream := true } (rmaVa msg) (rmaLen msg) with
        | .ok (bs, []) => sendRma i (rmaHead 2 (rmaLen msg) (rmaTag msg) (rmaVa msg) ++ bs)
        | _ => err

/-- The outstanding request that an answer names. -/
def reqOf (c : Chan) (tag : Nat) : Option RmaReq := c.reqs.find? fun r => r.tag == tag

/-- A read response lands in the stream ring of its request (R357); one that nothing waits for is discarded (R319). -/
def doRmaResponse (h : Nat) (msg : List Byte) : Act Unit :=
  withEnd h msg.length fun i c => onSome (reqOf c (rmaTag msg)) fun r => onlyIf (!r.write) do
    endRma i r.tag
    onSome r.stream fun (co, s, j, id) => do
      let d ← look
      onSome (pieceOf d co s j id) fun (_, _, q) =>
        onlyIf (q.tag == some r.tag) (if q.tier = 4 then landFrame co s j q (msg.drop 16) false
          else landPiece co s j q (padTo q.len 0#8 ((msg.drop 16).take q.len)) [])

/-- Whether an address lies in a bank, or a working-copy bank, of a shard that the partition owns in its open step (R240, R241). -/
def inOwnBank (d : Dev) (p : PartId) (va : Nat) : Bool :=
  (escOf d p).shards.any fun s =>
    let within (b n : Nat) : Bool := b != 0 && decide (b ≤ va) && decide (va < b + n)
    let kn := s.elems / 2048 * rowBytes ((fmtOf s.kfmt).getD .f32) 2048
    within s.bank0 (0x800 + 4 * s.elems + 2 * (33 * s.elems / 32)) || within s.bank1 (0x800 + 4 * s.elems + 2 * (33 * s.elems / 32)) ||
      within s.kbank0 kn || within s.kbank1 kn

/-- A remote write at the serving end: performed and counted in rma_done, or an error (R318, R357). In an open step only an arriving refresh
send reaches the next view (R242): a write into a working copy that the partition does not own; one into a bank of a shard that
it owns is none (log entry 121). -/
def doRmaWrite (h : Nat) (msg : List Byte) : Act Unit :=
  withEnd h msg.length fun i c =>
    if c.st ≠ .opened ∧ c.st ≠ .closing then staleFrames msg.length
    else do
      let d ← look
      let err : Act Unit := sendRma i (rmaHead 4 (rmaLen msg) (rmaTag msg) (rmaVa msg))
      if !rmaOk c msg then err
      else do
        match ← vaWrite (envOf d c.part) c.part { stream := true, next := !inOwnBank d c.part (rmaVa msg) } (rmaVa msg) (padTo (rmaLen msg) 0#8 ((msg.drop 16).take (rmaLen msg))) [] with
        | .error _ => err
        | .ok _ => do
          let d ← look
          onSome (chanOf d i) fun y => setChan i { y with rmaDone := y.rmaDone + 1, changed := true }

/-- An error answers a request (R318): the chunk of a read is faulted, the write of a drain faults. The header does not say whether the code
is 0x6 or 0x7, so that is a free value (log entry 2). -/
def doRmaError (h : Nat) (msg : List Byte) : Act Unit :=
  withEnd h msg.length fun i c => onSome (reqOf c (rmaTag msg)) fun r => do
    let n ← draw
    let code := 6 + n % 2
    setChan i { c with
      reqs := c.reqs.map fun y => if y.write && decide (r.num < y.num) && r.write then { y with num := y.num - 1 } else y
      rmaSent := (if r.write then c.rmaSent - 1 else c.rmaSent) }
    endRma i r.tag
    refreshLost c.part [r]
    onSome r.stream fun (co, s, j, id) => do
      let d ← look
      onSome (pieceOf d co s j id) fun (_, _, q) => onlyIf (q.tag == some r.tag) do
        if r.write then do
          dropPiece co s j q.id
          drainFault co s j code q.va 0x15
        else faultPiece co s j q code q.va

/-! Creation and destruction (R348, R349, R351, R601). -/

/-- What CHANNEL_CREATE asks for (R349). -/
structure ChanParams where
  peer : Nat
  peerH : Nat
  kind : Nat
  cls : Nat
  weight : Nat
  slotK : Nat
  slots : Nat
  ring : Nat
  rma : Nat
  tmo : Nat
  deriving DecidableEq, Repr

/-- The class that R345 gives a kind. -/
def kindClass (kind rma : Nat) : Nat :=
  match kind with
  | 3 => 0
  | 2 => 1
  | 1 => 2
  | _ => if rma = 1 then 3 else 4

/-- Whether a ring lies wholly in 64 KiB tier-1 pages that are writable and streamable (R349). -/
def ringPagesOk (d : Dev) (p : PartId) (ring n : Nat) : Bool :=
  (List.range (ceilDiv n 65536)).all fun i =>
    let va := ring + 65536 * i
    match (walk d p va).1 with
    | some (_, 4) =>
      match (locate d p (envOf d p).odd (envOf d p).chanOk { stream := true } true va).1 with
      | .plain _ => true
      | _ => false
    | _ => false

/-- The next free index, in the order of release (R348). -/
def takeIndex : Act (Option ChanIdx) := do
  let d ← look
  if d.chanNew < 65536 then do
    emit (.chanList (d.chanNew + 1) d.chanOld)
    pure (some (Fin.ofNat 65536 d.chanNew))
  else
    match d.chanOld with
    | [] => pure none
    | i :: rest => do
      emit (.chanList d.chanNew rest)
      pure (some (Fin.ofNat 65536 i))

/-- Channel ends of a partition, and the weight they hold. -/
def chansUsed (d : Dev) (p : PartId) : Nat := (d.chans.filter fun ic => ic.2.part == p).length
def weightUsed (d : Dev) (p : PartId) : Nat := ((d.chans.filter fun ic => ic.2.part == p).map fun ic => ic.2.weight).foldl (· + ·) 0

/-- An end created (R348, R349): its handle, or the status of the refusal. -/
def createChan (p : PartId) (q : ChanParams) : Act (Except Nat Nat) := do
  let d ← look
  let own := kindClass q.kind q.rma
  let cls := if q.cls = 0xFF then own else q.cls
  let tmo := if q.tmo = 0 then 4000 else q.tmo
  let bytes := q.slots * (256 * 2 ^ q.slotK + 8)
  if 3 < q.kind ∨ 4 < cls ∨ (q.kind = 3 ∧ cls ≠ 0) ∨ q.weight = 0 ∨ 16 < q.weight ∨ 4 < q.slotK ∨ (cls = 0 ∧ q.slotK ≠ 0) ∨
      q.slots = 0 ∨ 4096 < q.slots ∨ q.ring % 65536 ≠ 0 ∨ 1 < q.rma ∨ tmo < 100 ∨ 1000000 < tmo ∨ 4095 < q.peer then pure (.error 1)
  else if !(partOf d p).expert && q.cls != 0xFF && q.cls != own then pure (.error 2)
  else if !ringPagesOk d p q.ring bytes then pure (.error 2)
  else if regOf d .SCHED_QUOTA_CHAN p.val ≤ chansUsed d p ∨ regOf d .SCHED_QUOTA_LINK p.val < weightUsed d p + q.weight then pure (.error 4)
  else do
    match ← takeIndex with
    | none => pure (.error 4)
    | some i => do
      let d ← look
      let gen := tabGet d.chanGen i.val 0 % 4095 + 1
      emit (.chanGen i.val gen)
      let c : Chan := ⟨if q.peerH = 0 then .listen else .connecting, p, gen, q.peer, q.peerH, q.kind, cls, q.weight, q.slotK, q.slots, q.ring,
        q.rma = 1, tmo, q.peerH = 0, (if q.peerH = 0 then 0 else 1), 0, 0, 0, 0, 0, 0, 0, 0, (0, 0), false, false, [], [], [], [], 0, 0, [], none, false, []⟩
      setChan i c
      grant 4 1
      onlyIf (q.peerH != 0) (sendMaint i 1)
      pure (.ok (c.handle i))

/-- CHANNEL_DESTROY on an end (R351, R360). -/
def destroyChan (i : ChanIdx) : Act Unit := do
  let d ← look
  onSome (chanOf d i) fun c =>
    match c.st with
    | .opened => do
      setChan i { c with jobs := [] }
      startClosing i
      each (c.jobs.map (·.owner)).dedup ownerAbort
      closeCheck i
    | .connecting => do
      sendMaint i 5
      chanRelease i
    | .closing | .free => pure ()
    | _ => chanRelease i

end Sys2Proof.Machine
end

