-- ==== Sys2Proof/Machine/StreamQueue.lean ====
section
/-! DEFINITION. The queue of the stream engine (file 04, R89): SARM, SREARM, SDISARM, SEND and RECV stand in it between their issue and the
moment the engine takes them. -/

namespace Sys2Proof.Machine

/-- Whether an issue of a stream command only ends an earlier one: SDISARM with cancel (R172). -/
def isCancel (w : Nat) : Bool := opOf (w % 256) == some .sdisarm && bitOf w 12

/-- Whether a command names a stream, and which (R156, R169, R170); SEND and RECV name none. -/
def namesStream (w : Nat) : Option StreamId :=
  match opOf (w % 256) with
  | some .sarm | some .srearm | some .sdisarm => some (streamNo w)
  | _ => none

/-- Whether the engine can take a command that stands behind `before` in its queue. SREARM and SDISARM finish wait for an earlier one of
their stream; a cancel, SARM, SEND and RECV wait for nothing. DESIGN CHOICE (log entry 115): a command that waits holds back only those that
name its own stream. -/
def canTake (d : Dev) (c : CoreId) (before : List Queued) (w : Nat) : Bool :=
  isCancel w ||
    ((namesStream w).all fun s => before.all fun q => namesStream q.cmd != some s) &&
      (opOf (w % 256) == some .sarm || (namesStream w).isNone || streamIdle d c w)

/-- The first command of the queue that the engine can take. -/
def firstTaken (d : Dev) (c : CoreId) : List Queued → List Queued → Option Queued
  | _, [] => none
  | before, q :: rest => if canTake d c before q.cmd then some q else firstTaken d c (before ++ [q]) rest

/-- What the engine does with a command it has taken (R156, R169–R172, R355, R356). -/
def actStrm (c : CoreId) (q : Queued) : Act Unit :=
  match opOf (q.cmd % 256) with
  | some .sarm => actSarm c q.slot q.env.parity q.cmd q.seq
  | some .srearm => actSrearm c q.slot q.cmd q.seq
  | some .sdisarm => actSdisarm c q.slot q.cmd q.seq
  | some .send => actSend c q.slot q.env.parity q.cmd q.seq
  | some .recv => actRecv c q.slot q.env.parity q.cmd q.seq
  | _ => pure ()

/-- The stream engine of a core takes what it can from its queue (R89); `fuel` bounds the commands. -/
def kickStrm (c : CoreId) : Nat → Act Unit
  | 0 => pure ()
  | fuel + 1 => do
    let d ← look
    onSome (firstTaken d c [] (strmQ d c)) fun q => do
      emit (.strmq c ((strmQ d c).erase q))
      actStrm c q
      kickStrm c fuel

/-- A command of the stream engine issues into its queue (R89), and the engine takes what it can. -/
def strmIssue (want : Op → Nat → Bool) (parity : List ParityHit) (c : CoreId) (k : SlotId) : Act Unit := do
  issue c k want true fun _ w seq => do
    let d ← look
    emit (.strmq c (strmQ d c ++ [{ slot := k, seq := seq, cmd := w, env := { held := 0, strm := 0, meet := [], parity := parity } }]))
  kickStrm c 8

/-- SARM (R156). -/
def doSarm (c : CoreId) (k : SlotId) (parity : List ParityHit) : Act Unit := strmIssue (fun op _ => op == .sarm) parity c k

/-- SREARM (R169). -/
def doSrearm (c : CoreId) (k : SlotId) : Act Unit := strmIssue (fun op _ => op == .srearm) [] c k

/-- SDISARM, finish or cancel (R170–R172). -/
def doSdisarm (cancel : Bool) (c : CoreId) (k : SlotId) : Act Unit := strmIssue (fun op w => op == .sdisarm && bitOf w 12 == cancel) [] c k

/-- SEND in bytes mode or in contribution mode (R354, R355). -/
def doSend (contrib : Bool) (c : CoreId) (k : SlotId) (parity : List ParityHit) : Act Unit := do
  let d ← look
  let x := slotOf d c k
  strmIssue (fun op w => op == .send && isContrib d c x w == contrib) parity c k

/-- RECV (R356). -/
def doRecv (c : CoreId) (k : SlotId) (parity : List ParityHit) : Act Unit := strmIssue (fun op _ => op == .recv) parity c k

end Sys2Proof.Machine
end

