-- ==== Sys2Proof/Machine/Exchange.lean ====
section
/-! DEFINITION. The exchange engines (file 13, R366–R386): dispatch, receive areas, return, restore, combine, and the messages that
arrive. -/

namespace Sys2Proof.Machine

/-- A die's exchange engine set. -/
def setXch (die : DieId) (x : Xch) : Act Unit := emit (.xch die x)

/-- The die of a core (R2). -/
def dieOf (c : CoreId) : DieId := Fin.ofNat 16 (c.val / 50)

/-- A round's record replaced. -/
def setRound (die : DieId) (r : Round) : Act Unit := do
  let d ← look
  let x := xchOf d die
  setXch die { x with rounds := x.rounds.map fun (y : Round) => if y.id = r.id then r else y }

/-- A round of a die. -/
def roundOf (d : Dev) (die : DieId) (id : Nat) : Option Round := (xchOf d die).rounds.find? fun r => r.id == id

/-- Whether a round counts among the sixteen (R366). -/
def Round.isOpen (r : Round) : Bool :=
  match r.kind with
  | .return => !r.cmdDone
  | _ => r.batches.any fun b => !b.done

/-- The identity of a round (file 13): job, step, micro-batch, layer, part, backward, re-run. -/
def Round.ident (r : Round) : List Nat :=
  [r.job, r.step, r.desc.mb, r.desc.layer, r.desc.part, b2n (bitOf r.desc.flags 0), b2n (bitOf r.desc.flags 1)]

/-! The command and its descriptor (R368, R369). -/

/-- Who issued a command, and the range of its task. -/
structure XCtx where
  die  : DieId
  c    : CoreId
  k    : SlotId
  p    : PartId
  tid  : Nat
  seq  : Nat
  base : Nat
  size : Nat
  seed : Nat
  deriving DecidableEq, Repr

/-- The descriptor as its 128 bytes lie in the window (R369). -/
def xdescOf (bs : List Byte) : XDesc :=
  let f (o n : Nat) : Nat := fieldAt bs o n
  ⟨f 0 2, f 2 2, f 4 4, f 8 1, f 9 1, bitsOf (f 0xA 1) 3 0, f 0xB 1, f 0xC 4, f 0x10 4, f 0x14 2, f 0x16 1, f 0x18 8, f 0x20 8, f 0x28 8,
    f 0x30 8, f 0x38 8, f 0x40 8, f 0x48 8, f 0x50 2, f 0x54 4, f 0x58 8, f 0x60 8⟩

/-- The row format of a descriptor. -/
def XDesc.rowFmt (y : XDesc) : Fmt := (fmtOf y.fmt).getD .f32

/-- Bytes of a row. -/
def XDesc.rowBytes (y : XDesc) : Nat := Sys2Proof.Machine.rowBytes y.rowFmt y.rowlen

/-- Whether a code names a row format (R56; X8 is the format of scales). -/
def rowFmtOk (code : Nat) : Bool := code < 10

/-- Whether command and descriptor keep to their fields, as far as the mode uses them (R368, R369, R386 code 0x1). -/
def xdescOk (w : Nat) (bs : List Byte) (combine : Bool) : Bool :=
  let y := xdescOf bs
  let mode := bitsOf w 9 8
  let routed := combine || mode == 0
  fieldAt bs 0xA 1 / 16 == 0 && y.flags / 32 == 0 && !bitOf y.flags 4 && !bitOf y.dfmt 7 && fieldAt bs 0x17 1 == 0 && fieldAt bs 0x52 2 == 0 &&
    (bs.drop 0x68).all (· == 0#8) && rowFmtOk y.fmt && (!combine || rowFmtOk (bitsOf y.dfmt 3 0)) &&
    y.rowlen % 32 == 0 && decide (32 ≤ y.rowlen) && decide (y.rowlen ≤ 65536) && y.rowBytes % 8 == 0 &&
    decide (1 ≤ y.nloc) && decide (y.nloc ≤ 16) &&
    (if routed then decide (1 ≤ y.k) && decide (y.k ≤ 8) && decide (1 ≤ y.nexp) && decide (y.nexp ≤ 32767) && decide (y.tokens ≤ 2 ^ 20)
      else decide (1 ≤ y.nsend) && decide (y.nsend ≤ 4096))

/-- What stops a command: a code of R386, 0x18 for a poisoned word, 0x100 for a read that the barrel holds (R202), 0x10B for one of an entry
whose spill target is lost (R206). -/
abbrev XErr := Nat

/-- Where an address field points (R369): the core's scratchpad or the partition's address space. -/
structure XLoc where
  win : Bool
  a   : Nat
  deriving DecidableEq, Repr

/-- An address field and the bytes that it must cover (R369, R386 codes 0x1, 0x2). -/
def xloc (x : XCtx) (word n : Nat) : Except XErr XLoc :=
  if word % 64 ≠ 0 then .error 1
  else if bitOf word 63 then (if bitsOf word 21 0 + n ≤ x.size then .ok ⟨true, x.base + bitsOf word 21 0⟩ else .error 2)
  else .ok ⟨false, bitsOf word 47 0⟩

/-- Bytes that the engine reads (R367): never from tier 2. -/
def xget (x : XCtx) (l : XLoc) (off n : Nat) : Act (Except XErr (List Byte)) := do
  let d ← look
  if n = 0 then pure (.ok [])
  else if l.win then
    if (badIn d (.spad x.c) (l.a + off) n).isEmpty then pure (.ok (bytesOf d (.spad x.c) (l.a + off) n)) else pure (.error 0x18)
  else if inAperture d x.p (l.a + off) then
    match barrelRead d x.p (l.a + off) n with
    | .data bs =>
      if (apertureBad d x.p (l.a + off) n).isEmpty then pure (.ok bs)
      else do
        setHurt x.p x.tid (some (l.a + off))
        pure (.error 0x18)
    | .held => pure (.error 0x100)
    | .fault code => pure (.error (if code = 0xB then 0x10B else if code = 7 then 7 else 6))
  else do
    match ← vaRead (envOf d x.p) x.p { inner := true, die := some x.die.val } (l.a + off) n with
    | .ok (bs, []) => pure (.ok bs)
    | .ok _ => do
      setHurt x.p x.tid (some (l.a + off))
      pure (.error 0x18)
    | .error (code, _) => pure (.error code)

/-- Bytes that the engine writes (R367). `who` is the task whose stash entry it writes. -/
def xput (x : XCtx) (l : XLoc) (off : Nat) (bs : List Byte) (close : Bool) : Act (Except XErr Unit) := do
  let d ← look
  if l.win then do
    emit (.write (.spad x.c) (l.a + off) bs)
    clearBad (.spad x.c) (l.a + off) bs.length
    pure (.ok ())
  else if inAperture d x.p (l.a + off) then do
    match ← barrelWrite x.p (l.a + off) bs [] close (some x.tid) with
    | .ok _ => pure (.ok ())
    | .error code => pure (.error code)
  else if bs.isEmpty then pure (.ok ())
  else do
    match ← vaWrite (envOf d x.p) x.p { inner := true, die := some x.die.val } (l.a + off) bs [] with
    | .ok _ => pure (.ok ())
    | .error (code, _) => pure (.error code)

/-- Fabric cycles of data moved are counted (R367, R390). -/
def xbusy (die : DieId) (n : Nat) : Act Unit := count .XCH_BUSY_CYCLES die.val (ceilDiv n 512)

/-! Routing (R370–R374). -/

/-- An entry of the expert map (R371). -/
structure MapEnt where
  handle : Nat
  local_ : Nat
  cap    : Nat
  deriving DecidableEq, Repr

/-- The entries of a map; none when a reserved byte is set. -/
def mapOf_ (bs : List Byte) (n : Nat) : Option (List MapEnt) :=
  (List.range n).mapM fun e => if fieldAt bs (8 * e + 5) 1 = 0 then some ⟨fieldAt bs (8 * e) 4, fieldAt bs (8 * e + 4) 1, fieldAt bs (8 * e + 6) 2⟩ else none

/-- The destinations: handles in ascending order of the lowest expert they own (R371). -/
def destsOf (m : List MapEnt) : List Nat := m.foldl (fun hs e => if hs.contains e.handle then hs else hs ++ [e.handle]) []

/-- The fields of a route entry (R370). -/
def routeExpert (e : Nat) : Nat := bitsOf e 14 0
def routeOvf (e : Nat) : Bool := bitOf e 15
def routeGate (e : Nat) : Nat := bitsOf e 31 16

/-- Capacity decided (R372): choices in ascending order of j, then of token; the marked list and the overflow choices. -/
def markCaps (m : List MapEnt) (k tokens : Nat) (route : List Nat) : List Nat × Nat :=
  let visit := (List.range k).flatMap fun j => (List.range tokens).map fun t => k * t + j
  let r := visit.foldl (fun (s : List Nat × List Nat × Nat) i =>
    let (rt, cnt, ovf) := s
    let e := rt.getD i 0
    let x := routeExpert e
    if x = 0x7FFF then s
    else
      let cap := (m.getD x ⟨0, 0, 0⟩).cap
      let n := cnt.getD x 0
      if cap = 0xFFFF ∨ n < cap then (rt.set i (setBit e 15 false), cnt.set x (n + 1), ovf)
      else (rt.set i (setBit e 15 true), cnt, ovf + 1)) (route, List.replicate m.length 0, 0)
  (r.1, r.2.2)

/-- Whether a choice is sent (R372, R373). -/
def sentChoice (e : Nat) : Bool := routeExpert e != 0x7FFF && !routeOvf e

/-- The choices sent to a destination, in the order of R374: local expert, token, j; as places in the route list. -/
def batchOrder (m : List MapEnt) (route : List Nat) (h : Nat) : List Nat :=
  (List.range 16).flatMap fun x => (List.range route.length).filter fun i =>
    let e := route.getD i 0
    let y := m.getD (routeExpert e) ⟨0, 0, 0⟩
    sentChoice e && y.handle == h && y.local_ == x

/-- Rows of a batch for local experts 0–15. -/
def batchCounts (m : List MapEnt) (route : List Nat) (order : List Nat) : List Nat :=
  (List.range 16).map fun x => (order.filter fun i => (m.getD (routeExpert (route.getD i 0)) ⟨0, 0, 0⟩).local_ == x).length

/-- Route list and map of a dispatch or combine, with their checks (R370, R371, R386 code 0x3). -/
def readRouting (x : XCtx) (y : XDesc) : Act (Except XErr (XLoc × List Nat × List MapEnt)) := do
  let n := y.tokens * y.k
  match xloc x y.route (4 * n), xloc x y.map (8 * y.nexp) with
  | .error e, _ | _, .error e => pure (.error e)
  | .ok rl, .ok ml => do
    match ← xget x rl 0 (4 * n) with
    | .error e => pure (.error e)
    | .ok rb => do
      match ← xget x ml 0 (8 * y.nexp) with
      | .error e => pure (.error e)
      | .ok mb =>
        match mapOf_ mb y.nexp with
        | none => pure (.error 1)
        | some m => do
          let d ← look
          let route := (List.range n).map fun i => fieldAt rb (4 * i) 4
          let endOk (h : Nat) : Bool := h == 0 || ((openChan d x.p h).map fun ic => ic.2.kind == 2 && ic.2.slotBytes == 4096).getD false
          if m.all (fun e => endOk e.handle && decide (e.local_ < y.nloc)) &&
              route.all (fun e => routeExpert e == 0x7FFF || decide (routeExpert e < y.nexp)) then pure (.ok (rl, route, m))
          else pure (.error 3)

/-! Messages (R374, R375). -/

/-- The 64 B header of an exchange message (R375). -/
def xhead (type : Nat) (first last : Bool) (origin : Nat) (r : Round) (off rows : Nat) (counts : List Nat) : List Byte :=
  leBytes 1 type ++ leBytes 1 (b2n first + 2 * b2n last + 4 * b2n (bitOf r.desc.flags 0) + 8 * b2n (bitOf r.desc.flags 1)) ++
    leBytes 2 origin ++ leBytes 4 r.job ++ leBytes 8 r.step ++ leBytes 2 r.desc.mb ++ leBytes 2 r.desc.layer ++ leBytes 4 r.desc.part ++
    leBytes 4 off ++ leBytes 4 rows ++ (padTo 16 0 counts).flatMap (leBytes 2)

/-- A batch cut into messages of at most 4,032 B of rows (R374). -/
def batchMsgs (type origin : Nat) (r : Round) (counts : List Nat) (rows : List Byte) : List (List Byte) :=
  let n := max 1 (ceilDiv rows.length 4032)
  let total := counts.foldl (· + ·) 0
  (List.range n).map fun i =>
    xhead type (decide (i = 0)) (decide (i + 1 = n)) origin r (4032 * i) total counts ++ (rows.drop (4032 * i)).take 4032

/-- The batches of a round leave, in order: over their channels, or for handle 0 through the module fabric (R371, R374). -/
def sendBatches (die : DieId) (r : Round) (type : Nat) (batches : List (Nat × List Nat × List Byte)) : Act Unit :=
  each batches fun (h, counts, rows) => do
    let d ← look
    let ms := batchMsgs type (ownId d) r counts rows
    let n := counts.foldl (· + ·) 0
    count .XCH_TX_ROWS die.val n
    onlyIf (bitOf r.desc.flags 1) do
      count .XCH_RERUN_ROWS die.val n
      count .BARL_RERUN_BYTES r.p.val ((ms.map List.length).foldl (· + ·) 0)
    if h = 0 then do
      each ms fun m => emit (.out (.fabric r.p m))
      onSome (roundOf d die r.id) fun y => setRound die { y with locals := y.locals + ms.length }
    else onSome (chanBy d h) fun ic => queueJob ic.1 (.round r.id) (ms.map fun m => ⟨.bytes m, true⟩)

/-! Dispatch (R372–R374, R382). -/

/-- A round opened on a die. -/
def openRound (x : XCtx) (kind : RoundKind) (y : XDesc) (w : Nat) (batches : List Batch) (offs : List Nat) : Act Round := do
  let d ← look
  let e := xchOf d x.die
  let r : Round := ⟨e.next * 16 + x.die.val, kind, x.c, x.k, x.p, x.tid, x.seq, x.base, x.size,
    if bitOf w 16 then some (bitsOf w 21 17) else none, if bitOf w 26 then some (bitsOf w 31 27) else none,
    (partOf d x.p).job, stepNum d x.p, y, batches, List.replicate 16 0, offs, 0, 0, false⟩
  setXch x.die { e with rounds := e.rounds ++ [r], next := e.next + 1 }
  pure r

/-- Rounds of a partition with an identity and kind, on every die. -/
def findRounds (d : Dev) (p : PartId) (kind : RoundKind) (ident : List Nat) : List (DieId × Round) :=
  d.xchs.flatMap fun (die, x) => (x.rounds.filter fun (r : Round) => r.p == p && r.kind == kind && r.ident == ident).map fun r => (die, r)

/-- A fresh batch of a peer. -/
def Batch.fresh (h : Nat) : Batch := ⟨h, [], [], [], 0, false, false⟩

/-- The rows of the choices of a batch, read from the source. -/
def readRows (x : XCtx) (l : XLoc) (rb k : Nat) : List Nat → Act (Except XErr (List Byte))
  | [] => pure (.ok [])
  | i :: rest => do
    match ← xget x l (i / k * rb) rb with
    | .error e => pure (.error e)
    | .ok bs => do
      match ← readRows x l rb k rest with
      | .error e => pure (.error e)
      | .ok more => pure (.ok (bs ++ more))

/-- Rows of every destination. -/
def readBatches (x : XCtx) (l : XLoc) (rb k : Nat) (m : List MapEnt) (route : List Nat) :
    List Nat → Act (Except XErr (List (Nat × List Nat × List Byte)))
  | [] => pure (.ok [])
  | h :: hs => do
    let order := batchOrder m route h
    match ← readRows x l rb k order with
    | .error e => pure (.error e)
    | .ok rows => do
      match ← readBatches x l rb k m route hs with
      | .error e => pure (.error e)
      | .ok more => pure (.ok ((h, batchCounts m route order, rows) :: more))

/-- ctr2 advances once every return has landed (R368, R382). -/
def returnsDone (r : Round) : Act Unit := onSome r.ctr2 (bumpEvent r.c (r.p, r.tid))

/-- XDISPATCH dispatch (R372–R374): marks, one batch per destination, and the round's return armed. A task placed again finds the rows that
came back for the round before (R385). -/
def runDispatch (x : XCtx) (y : XDesc) (w : Nat) : Act (Except XErr Unit) := do
  match ← readRouting x y with
  | .error e => pure (.error e)
  | .ok (rl, route0, m) => do
    let rb := y.rowBytes
    let (route, ovf) := if bitOf y.flags 2 then (route0, 0) else markCaps m y.k y.tokens route0
    let total := (route.filter sentChoice).length
    match xloc x y.src (y.tokens * rb), xloc x y.ret (total * rb), (if y.stash = 0 then .ok ⟨false, 0⟩ else xloc x y.stash 0) with
    | .error e, _, _ | _, .error e, _ | _, _, .error e => pure (.error e)
    | .ok sl, .ok _, .ok _ => do
      match ← readBatches x sl rb y.k m route (destsOf m) with
      | .error e => pure (.error e)
      | .ok batches => do
        let marked ← (if bitOf y.flags 2 then pure (.ok ()) else xput x rl 0 (route.flatMap (leBytes 4)) false)
        match marked with
        | .error e => pure (.error e)
        | .ok _ => do
          count .XCH_OVF_CHOICES x.die.val ovf
          let ns := batches.map fun b => b.2.1.foldl (· + ·) 0
          let offs := (List.range ns.length).map fun i => (ns.take i).foldl (· + ·) 0
          let d ← look
          let r0 ← openRound x .dispatch y w (batches.map fun b => { Batch.fresh b.1 with kept := b.2.1 }) offs
          let old := findRounds d x.p .dispatch r0.ident
          let bs := r0.batches.map fun b =>
            if old.any fun o => o.2.desc.ret == y.ret && o.2.batches.any fun z => z.handle == b.handle && z.done then { b with done := true } else b
          let r := { r0 with batches := bs }
          setRound x.die r
          each old fun (die, o) => do
            let d ← look
            setXch die { xchOf d die with rounds := (xchOf d die).rounds.filter fun (z : Round) => z.id ≠ o.id }
          onlyIf (bs.all (·.done)) (returnsDone r)
          onlyIf (bitOf y.flags 1) do
            let d ← look
            let b := barrelOf d x.p
            let mine (q : Rerun) : Bool := q.mb == y.mb && q.layer == y.layer && q.part == y.part
            count .BARL_RERUN_ANSWERED x.p.val (b.reruns.filter mine).length
            setBarrel x.p { b with reruns := b.reruns.filter fun q => !mine q }
          xbusy x.die (total * rb)
          sendBatches x.die r 0x10 batches
          pure (.ok ())

/-! Receive areas (R376, R377, R379, R380). -/

/-- Where the regions of an area begin, and the span of one (R376). -/
def areaRegions (y : XDesc) : Nat := ceilDiv (64 + ceilDiv (8 * y.nsend * y.nloc) 2048 * 2048) 2048 * 2048
def areaSpan (y : XDesc) : Nat := ceilDiv (y.rowsX * y.rowBytes) 2048 * 2048

/-- A receive area and whether its table and regions fit its pages (R386 code 0x4). -/
def areaLoc (d : Dev) (x : XCtx) (y : XDesc) : Except XErr XLoc :=
  let total := areaRegions y + y.nloc * areaSpan y
  match xloc x y.area 64 with
  | .error e => .error e
  | .ok l =>
    if l.win then (if bitsOf y.area 21 0 + total ≤ x.size then .ok l else .error 4)
    else if (List.range (ceilDiv (l.a % 65536 + total) 65536)).all fun i =>
        match (locate d x.p (envOf d x.p).odd (envOf d x.p).chanOk { inner := true } true (l.a / 65536 * 65536 + 65536 * i)).1 with
        | .fault _ => false
        | _ => true
      then .ok l else .error 4

/-- The header of an area: the round's identity and the completed-batch count (R376). -/
def writeAreaHead (x : XCtx) (l : XLoc) (r : Round) (done : Nat) : Act (Except XErr Unit) :=
  xput x l 4 (leBytes 4 r.job ++ leBytes 8 r.step ++ leBytes 2 r.desc.mb ++ leBytes 2 r.desc.layer ++ leBytes 4 r.desc.part ++ leBytes 4 done) false

/-- The list of senders (R376). -/
def readSenders (x : XCtx) (y : XDesc) : Act (Except XErr (List Nat)) := do
  match xloc x y.senders (4 * y.nsend) with
  | .error e => pure (.error e)
  | .ok l => do
    match ← xget x l 0 (4 * y.nsend) with
    | .error e => pure (.error e)
    | .ok bs => pure (.ok ((List.range y.nsend).map fun i => fieldAt bs (4 * i) 4))

/-- XDISPATCH post-receive (R376). -/
def runPost (x : XCtx) (y : XDesc) (w : Nat) : Act (Except XErr Unit) := do
  let d ← look
  match areaLoc d x y, (if y.stash = 0 then .ok ⟨false, 0⟩ else xloc x y.stash 0) with
  | .error e, _ | _, .error e => pure (.error e)
  | .ok l, .ok _ => do
    match ← readSenders x y with
    | .error e => pure (.error e)
    | .ok hs => do
      let ident := [(partOf d x.p).job, stepNum d x.p, y.mb, y.layer, y.part, b2n (bitOf y.flags 0), b2n (bitOf y.flags 1)]
      if !(findRounds d x.p .receive ident).isEmpty then pure (.error 5)
      else do
        let r ← openRound x .receive y w (hs.map Batch.fresh) []
        writeAreaHead x l r 0

/-- A round's context, for the accesses that it makes later. -/
def Round.ctx (r : Round) (die : DieId) : XCtx := ⟨die, r.c, r.k, r.p, r.tid, r.seq, r.base, r.size, 0⟩

/-- The location of an address field that was checked when the round opened. -/
def Round.loc (r : Round) (word : Nat) : XLoc :=
  if bitOf word 63 then ⟨true, r.base + bitsOf word 21 0⟩ else ⟨false, bitsOf word 47 0⟩

/-- Rows kept and start rows of a batch of counts at the fill cursors of the regions (R377). -/
def reserveRows (r : Round) (counts : List Nat) : List Nat × List Nat :=
  let starts := (List.range 16).map fun x => r.cursors.getD x 0
  let kept := (List.range 16).map fun x =>
    if x < r.desc.nloc then min (counts.getD x 0) (r.desc.rowsX - starts.getD x 0) else 0
  (starts, kept)

/-- A batch begins (R377): rows reserved, segments written, cursors advanced. -/
def beginBatch (die : DieId) (r : Round) (i : Nat) (counts : List Nat) (fresh : Bool) : Act (Except XErr Round) := do
  let (starts, kept) := reserveRows r counts
  let seg := (List.range r.desc.nloc).flatMap fun x => leBytes 8 (starts.getD x 0 + kept.getD x 0 * 2 ^ 32)
  match ← xput (r.ctx die) (r.loc r.desc.area) (64 + 8 * (i * r.desc.nloc)) seg false with
  | .error e => pure (.error e)
  | .ok _ => do
    onlyIf fresh (count .XCH_RX_EXCESS die.val (counts.foldl (· + ·) 0 - kept.foldl (· + ·) 0))
    let b := r.batches.getD i (Batch.fresh 0)
    let r' := { r with
      cursors := (List.range 16).map fun x => starts.getD x 0 + kept.getD x 0
      batches := r.batches.set i { b with counts := counts, kept := kept, starts := starts, begun := true, got := 0 } }
    setRound die r'
    pure (.ok r')

/-- The local expert and the row within it of row `n` of a batch (R374). -/
def rowPlace (counts : List Nat) (n : Nat) : Nat × Nat :=
  (List.range 16).foldl (fun (s : Nat × Nat × Bool) x =>
      if s.2.2 then s
      else if s.2.1 < counts.getD x 0 then (x, s.2.1, true)
      else (x + 1, s.2.1 - counts.getD x 0, false)) (0, n, false) |> fun s => (s.1, s.2.1)

/-- Bytes of a batch from offset `off` placed in the area, row by row; rows beyond a region's end go nowhere (R377). -/
def placeRows (die : DieId) (r : Round) (b : Batch) : Nat → Nat → List Byte → Act (Except XErr Unit)
  | 0, _, _ => pure (.ok ())
  | fuel + 1, off, bs =>
    if bs.isEmpty then pure (.ok ())
    else do
      let rb := max 1 r.desc.rowBytes
      let n := min bs.length (rb - off % rb)
      let (x, i) := rowPlace b.counts (off / rb)
      let res ← (if x < r.desc.nloc ∧ i < b.kept.getD x 0 then
          xput (r.ctx die) (r.loc r.desc.area) (areaRegions r.desc + x * areaSpan r.desc + (b.starts.getD x 0 + i) * rb + off % rb) (bs.take n) false
        else pure (.ok ()))
      match res with
      | .error e => pure (.error e)
      | .ok _ => placeRows die r b fuel (off + n) (bs.drop n)

/-- The kept rows of a batch as they lie in the area, region by region (R380). -/
def keptRows (die : DieId) (r : Round) (b : Batch) : List Nat → Act (Except XErr (List Byte))
  | [] => pure (.ok [])
  | x :: xs => do
    let rb := r.desc.rowBytes
    match ← xget (r.ctx die) (r.loc r.desc.area) (areaRegions r.desc + x * areaSpan r.desc + b.starts.getD x 0 * rb) (b.kept.getD x 0 * rb) with
    | .error e => pure (.error e)
    | .ok bs => do
      match ← keptRows die r b xs with
      | .error e => pure (.error e)
      | .ok more => pure (.ok (bs ++ more))

/-- The record of a batch in a TOK entry (R380). -/
def tokRecord (i : Nat) (counts : List Nat) (rows : List Byte) : List Byte :=
  padTo 32 0#8 (leBytes 2 i) ++ (padTo 16 0 counts).flatMap (leBytes 2) ++ rows

/-- A batch of a receive is complete (R380): the count rises, the record goes to the TOK entry, and with the last the round completes. -/
def receiveDone (die : DieId) (r0 : Round) (i : Nat) : Act (Except XErr Unit) := do
  let b := r0.batches.getD i (Batch.fresh 0)
  let r1 := { r0 with batches := r0.batches.set i { b with done := true } }
  let n := (r1.batches.filter (·.done)).length
  let last := decide (n = r1.batches.length)
  count .XCH_RX_ROWS die.val (b.kept.foldl (· + ·) 0)
  setRound die r1
  match ← xput (r1.ctx die) (r1.loc r1.desc.area) 0x18 (leBytes 4 n) false with
  | .error e => pure (.error e)
  | .ok _ => do
    let stash : Except XErr Nat ← (if r1.desc.stash = 0 then pure (.ok 0) else do
      match ← keptRows die r1 b (List.range r1.desc.nloc) with
      | .error e => pure (.error e)
      | .ok rows => do
        let rec_ := tokRecord i b.counts rows
        match ← xput (r1.ctx die) (r1.loc r1.desc.stash) r1.soff rec_ last with
        | .error e => pure (.error e)
        | .ok _ => pure (.ok rec_.length))
    match stash with
    | .error e => pure (.error e)
    | .ok k => do
      let r2 := { r1 with soff := r1.soff + k, cmdDone := last }
      setRound die r2
      onlyIf last (doneCmd r2.c r2.p r2.tid r2.seq r2.ctr)
      pure (.ok ())

/-- XDISPATCH return (R381): each sender's rows in the order of its segments, discarded rows as zero rows. -/
def returnBatches (x : XCtx) (y : XDesc) (src area : XLoc) (known : Option Round) : Nat → List Nat → Act (Except XErr (List (Nat × List Nat × List Byte)))
  | _, [] => pure (.ok [])
  | i, h :: hs => do
    match ← xget x area (64 + 8 * (i * y.nloc)) (8 * y.nloc) with
    | .error e => pure (.error e)
    | .ok seg => do
      let start (l : Nat) : Nat := bitsOf (fieldAt seg (8 * l) 8) 31 0
      let kept (l : Nat) : Nat := if l < y.nloc then bitsOf (fieldAt seg (8 * l) 8) 47 32 else 0
      let counts := (List.range 16).map fun l => match known.bind (fun (r : Round) => r.batches[i]?) with
        | some b => if b.counts.isEmpty then kept l else b.counts.getD l 0
        | none => kept l
      let zero := (encodeRow y.rowFmt ⟨0, false, 0⟩ 0 none (List.replicate y.rowlen (.zero false))).1
      let rec rows : List Nat → Act (Except XErr (List Byte))
        | [] => pure (.ok [])
        | l :: ls => do
          match ← xget x src (areaRegions y + l * areaSpan y + start l * y.rowBytes) (kept l * y.rowBytes) with
          | .error e => pure (.error e)
          | .ok bs => do
            match ← rows ls with
            | .error e => pure (.error e)
            | .ok more => pure (.ok (bs ++ (List.replicate (counts.getD l 0 - kept l) zero).flatten ++ more))
      match ← rows (List.range 16) with
      | .error e => pure (.error e)
      | .ok bs => do
        match ← returnBatches x y src area known (i + 1) hs with
        | .error e => pure (.error e)
        | .ok more => pure (.ok ((h, counts, bs) :: more))

/-- XDISPATCH return (R381). -/
def runReturn (x : XCtx) (y : XDesc) (w : Nat) : Act (Except XErr Unit) := do
  let d ← look
  match areaLoc d x y, xloc x y.src (areaRegions y + y.nloc * areaSpan y) with
  | .error e, _ | _, .error e => pure (.error e)
  | .ok al, .ok sl => do
    match ← readSenders x y with
    | .error e => pure (.error e)
    | .ok hs => do
      let ident := [(partOf d x.p).job, stepNum d x.p, y.mb, y.layer, y.part, b2n (bitOf y.flags 0), b2n (bitOf y.flags 1)]
      match ← returnBatches x y sl al ((findRounds d x.p .receive ident).head?.map (·.2)) 0 hs with
      | .error e => pure (.error e)
      | .ok batches => do
        let r ← openRound x .return y w [] []
        xbusy x.die ((batches.map fun b => b.2.2.length).foldl (· + ·) 0)
        sendBatches x.die r 0x11 batches
        pure (.ok ())

/-- Records of a TOK entry placed into the area (R380); re-run rows of the same sender and counts stand in their place (R214). -/
def restoreBatches (die : DieId) (id : Nat) (tok : XLoc) (rerun : Option (DieId × Round)) : Nat → Nat → Act (Except XErr Unit)
  | 0, _ => pure (.ok ())
  | n + 1, off => do
    let d ← look
    match roundOf d die id with
    | none => pure (.ok ())
    | some r => do
      match ← xget (r.ctx die) tok off 64 with
      | .error e => pure (.error e)
      | .ok h => do
        let i := fieldAt h 0 2
        let counts := (List.range 16).map fun x => fieldAt h (32 + 2 * x) 2
        if r.batches.length ≤ i then pure (.error 5)
        else do
          match ← beginBatch die r i counts false with
          | .error e => pure (.error e)
          | .ok r1 => do
            let b := r1.batches.getD i (Batch.fresh 0)
            let len := b.kept.foldl (· + ·) 0 * r.desc.rowBytes
            match ← xget (r.ctx die) tok (off + 64) len with
            | .error e => pure (.error e)
            | .ok stored => do
              let again : Except XErr (Round × List Byte) ← (match rerun.bind fun q => (q.2.batches.find? fun z => z.handle == b.handle && z.done).map fun z => (q, z) with
                | some (q, z) => do
                  match ← keptRows q.1 q.2 z (List.range q.2.desc.nloc) with
                  | .error e => pure (.error e)
                  | .ok rows => do
                    match ← beginBatch die r i z.kept false with
                    | .error e => pure (.error e)
                    | .ok r2 => pure (.ok (r2, rows))
                | none => pure (.ok (r1, stored)))
              match again with
              | .error e => pure (.error e)
              | .ok (r2, rows) => do
                let b2 := r2.batches.getD i (Batch.fresh 0)
                match ← placeRows die r2 { b2 with counts := b2.kept } (rows.length + 1) 0 rows with
                | .error e => pure (.error e)
                | .ok _ => do
                  setRound die { r2 with batches := r2.batches.set i { b2 with done := true } }
                  restoreBatches die id tok rerun n (off + 64 + len)

/-- XDISPATCH restore (R380): the area rebuilt from the TOK entry, without link traffic. -/
def runRestore (x : XCtx) (y : XDesc) (w : Nat) : Act (Except XErr Unit) := do
  let d ← look
  match areaLoc d x y, (if y.stash = 0 then .error 1 else xloc x y.stash 0) with
  | .error e, _ | _, .error e => pure (.error e)
  | .ok l, .ok tok => do
    match ← readSenders x y with
    | .error e => pure (.error e)
    | .ok hs => do
      match ← xget x tok 0 64 with
      | .error e => pure (.error e)
      | .ok _ => do
        let base := [(partOf d x.p).job, stepNum d x.p, y.mb, y.layer, y.part, b2n (bitOf y.flags 0)]
        let old := findRounds d x.p .receive (base ++ [b2n (bitOf y.flags 1)])
        each old fun (die, o) => do
          let d ← look
          onlyIf (!o.isOpen) (setXch die { xchOf d die with rounds := (xchOf d die).rounds.filter fun (z : Round) => z.id ≠ o.id })
        let r ← openRound x .receive y w (hs.map Batch.fresh) []
        match ← restoreBatches x.die r.id tok (if bitOf y.flags 1 then none else (findRounds d x.p .receive (base ++ [1])).head?) hs.length 0 with
        | .error e => do
          let d ← look
          setXch x.die { xchOf d x.die with rounds := (xchOf d x.die).rounds.filter fun (z : Round) => z.id ≠ r.id }
          pure (.error e)
        | .ok _ => do
          let d ← look
          onSome (roundOf d x.die r.id) fun z => do
            setRound x.die { z with cmdDone := true }
            xbusy x.die ((z.batches.map fun b => b.kept.foldl (· + ·) 0).foldl (· + ·) 0 * y.rowBytes)
          match ← writeAreaHead x l r hs.length with
          | .error e => pure (.error e)
          | .ok _ => do
            doneCmd r.c r.p r.tid r.seq r.ctr
            pure (.ok ())

/-! Combine (R383, R384). -/

/-- Bytes of several rows, none for a row of zeros; the first that cannot be read stops. -/
def xgetEach (x : XCtx) : List (Option (XLoc × Nat × Nat)) → Act (Except XErr (List (List Byte)))
  | [] => pure (.ok [])
  | q :: rest => do
    match ← (match q with
      | some (l, o, n) => xget x l o n
      | none => pure (.ok [])) with
    | .error e => pure (.error e)
    | .ok bs => do
      match ← xgetEach x rest with
      | .error e => pure (.error e)
      | .ok more => pure (.ok (bs :: more))

/-- The accumulator after a term (R383): one fma per element with nearest-even rounding. -/
def addTerm (acc : List Val) (w : Val) (row : List Val) : List Val × Flags :=
  let rs := (row.zip acc).map fun (r, a) => laneFma .f32 w r a
  (rs.map (·.1), rs.foldl (fun f r => f.or r.2) {})

/-- Output rows of a combine, token by token (R383). -/
def combineRows (x : XCtx) (y : XDesc) (unit : Bool) (route : List Nat) (pos : List (Nat × Nat)) (src pass dst : XLoc) (wm : WriteMode) :
    Nat → Nat → Act (Except XErr Unit)
  | 0, _ => pure (.ok ())
  | n + 1, t => do
    let rb := y.rowBytes
    let terms := (List.range y.k).map fun j =>
      let i := y.k * t + j
      let e := route.getD i 0
      if sentChoice e then (some (src, ((pos.find? fun q => q.1 == i).map (·.2)).getD 0 * rb, rb), routeGate e)
      else if routeExpert e ≠ 0x7FFF ∧ bitsOf y.flags 4 3 = 1 then (some (pass, t * rb, rb), routeGate e)
      else (none, routeGate e)
    match ← xgetEach x (terms.map (·.1)) with
    | .error e => pure (.error e)
    | .ok rows => do
      let (acc, fl) := (rows.zip terms).foldl (fun (s : List Val × Flags) (q : List Byte × Option (XLoc × Nat × Nat) × Nat) =>
        let (vs, f1) := (if q.2.1.isSome then decodeRow y.rowFmt y.rowlen q.1 else (List.replicate y.rowlen (.zero false), {}))
        let (g, f2) := if unit then (Val.num 1, ({} : Flags)) else decodeElem .f16 q.2.2
        let (a, f3) := addTerm s.1 g vs
        (a, ((s.2.or f1).or f2).or f3)) (List.replicate y.rowlen (.zero false), {})
      let df := (fmtOf (bitsOf y.dfmt 3 0)).getD .f32
      let (bs, f4, _) := encodeRow df wm (t * y.rowlen) none acc
      setFlags x.c x.p (fl.or f4)
      match ← xput x dst (t * bs.length) bs false with
      | .error e => pure (.error e)
      | .ok _ => combineRows x y unit route pos src pass dst wm n (t + 1)

/-- XCOMBINE (R383). -/
def runCombine (x : XCtx) (y : XDesc) (w : Nat) : Act (Except XErr Unit) := do
  match ← readRouting x y with
  | .error e => pure (.error e)
  | .ok (_, route, m) => do
    let d ← look
    let order := (destsOf m).flatMap (batchOrder m route)
    let pos := order.zip (List.range order.length)
    let rb := y.rowBytes
    let df := (fmtOf (bitsOf y.dfmt 3 0)).getD .f32
    let db := rowBytes df y.rowlen
    let pass := if bitsOf y.flags 4 3 = 1 then xloc x y.pass (y.tokens * rb) else .ok ⟨false, 0⟩
    match xloc x y.src (order.length * rb), pass, xloc x y.dst (y.tokens * db) with
    | .error e, _, _ | _, .error e, _ | _, _, .error e => pure (.error e)
    | .ok sl, .ok pl, .ok dl => do
      let wm : WriteMode := ⟨roundMode d x.c x.p (bitsOf y.dfmt 6 4), satWide d x.c x.p, x.seed⟩
      match ← combineRows x y (bitsOf w 9 8 == 1) route pos sl pl dl wm y.tokens 0 with
      | .error e => pure (.error e)
      | .ok _ => do
        xbusy x.die (max (order.length * rb) (y.tokens * db))
        doneCmd x.c x.p x.tid x.seq (if bitOf w 16 then some (bitsOf w 21 17) else none)
        pure (.ok ())

/-! The engine's queue (R366). -/

/-- The context of a waiting command: its task's slot. -/
def XWait.ctx (d : Dev) (q : XWait) : XCtx :=
  let s := slotOf d q.c q.k
  ⟨dieOf q.c, q.c, q.k, q.p, q.tid, q.seq, s.base * 65536, s.bytesIn, s.seed⟩

/-- A command runs: what it says, or what stops it. -/
def runXch (q : XWait) : Act (Except XErr Unit) := do
  let d ← look
  let x := q.ctx d
  let combine := q.cmd % 256 == 0x83
  let mode := bitsOf q.cmd 9 8
  let off := bitsOf q.cmd 85 64
  if bitsOf q.cmd 255 86 ≠ 0 ∨ off % 64 ≠ 0 ∨ bitsOf q.cmd 63 32 ≠ 0 ∨ bitsOf q.cmd 25 22 ≠ 0 ∨ bitsOf q.cmd 15 10 ≠ 0 ∨
      (combine ∧ (bitsOf q.cmd 31 26 ≠ 0 ∨ 1 < mode)) then pure (.error 1)
  else if x.size < off + 128 then pure (.error 2)
  else if !(badIn d (.spad q.c) (x.base + off) 128).isEmpty then pure (.error 0x18)
  else
    let bs := bytesOf d (.spad q.c) (x.base + off) 128
    let y := xdescOf bs
    if !xdescOk q.cmd bs combine then pure (.error 1)
    else if combine then runCombine x y q.cmd
    else
      match mode with
      | 0 => runDispatch x y q.cmd
      | 1 => runPost x y q.cmd
      | 2 => runReturn x y q.cmd
      | _ => runRestore x y q.cmd

/-- The engine takes its commands in order; one that would open a seventeenth round, or whose read the barrel holds, waits (R202, R366).
`fuel` bounds the commands. -/
def kickXch (die : DieId) : Nat → Act Unit
  | 0 => pure ()
  | fuel + 1 => do
    let d ← look
    let x := xchOf d die
    match x.q with
    | [] => pure ()
    | q :: rest =>
      if q.cmd % 256 = 0x82 ∧ 16 ≤ (x.rounds.filter Round.isOpen).length then pure ()
      else do
        match ← runXch q with
        | .error 0x100 => pure ()
        | .error code => do
          let d ← look
          setXch die { xchOf d die with q := rest }
          xchFault die q.c q.k q.p q.tid code
          kickXch die fuel
        | .ok _ => do
          let d ← look
          setXch die { xchOf d die with q := rest }
          kickXch die fuel

/-- XDISPATCH and XCOMBINE of a mode go to their die's engine when they issue (R89, R366). A reserved mode of XCOMBINE goes with the unit
mode's row, and is refused (R386). -/
def xchIssue (combine : Bool) (modes : List Nat) (c : CoreId) (k : SlotId) : Act Unit :=
  issue c k (fun op w => op == (if combine then Op.xcombine else .xdispatch) && modes.contains (bitsOf w 9 8)) true fun x w seq => do
    let d ← look
    let e := xchOf d (dieOf c)
    setXch (dieOf c) { e with q := e.q ++ [⟨c, k, x.part, x.tid, seq, w⟩] }
    kickXch (dieOf c) (e.q.length + 1)

/-- Dispatches and returns whose messages have all been accepted complete (R352, R368). -/
def xchProgress : Act Unit := do
  let d ← look
  each d.xchs fun (die, x) => do
    each (x.rounds.filter fun (r : Round) => r.kind != .receive && !r.cmdDone && r.locals == 0 && !ownerBusy d (.round r.id)) fun r => do
      setRound die { r with cmdDone := true }
      doneCmd r.c r.p r.tid r.seq r.ctr
    let d ← look
    kickXch die ((xchOf d die).q.length)

/-- Commands of a slot that wait in the engine are withdrawn by a pre-emption, and so are dispatches and returns with no message sent
(R91, R400): their sequence numbers and bits. -/
def withdrawXch (p : PartId) (tid : Nat) : Act (List (Nat × Nat)) := do
  let d ← look
  let mine (q : XWait) : Bool := q.p == p && q.tid == tid
  let back := d.xchs.flatMap fun ix => (ix.2.q.filter mine).map fun q => (q.seq, q.cmd)
  each d.xchs fun ix => onlyIf (ix.2.q.any mine) (setXch ix.1 { ix.2 with q := ix.2.q.filter fun q => !mine q })
  pure back

/-- What the exchange engines hold for a task that has ended or been aborted (R385): commands that wait go; a receive or return goes; a
dispatch stays open for its returns, its unsent messages go. -/
def dropTaskRounds (p : PartId) (tid : Nat) : Act Unit := do
  let d ← look
  let mine (r : Round) : Bool := r.p == p && r.tid == tid && !(r.kind == .receive && r.cmdDone)
  let ids := d.xchs.flatMap fun ix => (ix.2.rounds.filter mine).map (·.id)
  let unsent (o : Owner) : Bool := match o with
    | .round id => ids.contains id
    | _ => false
  each d.chans fun ic => onlyIf (ic.2.jobs.any fun j => unsent j.owner) do
    setChan ic.1 { ic.2 with jobs := ic.2.jobs.filter fun (j : SendJob) => !unsent j.owner }
    pumpChanAll ic.1
  each d.xchs fun ix => onlyIf (ix.2.rounds.any mine || ix.2.q.any fun q => q.p == p && q.tid == tid)
    (setXch ix.1 { ix.2 with
      q := ix.2.q.filter fun q => !(q.p == p && q.tid == tid)
      rounds := (ix.2.rounds.filter fun (r : Round) => !mine r || r.kind == .dispatch).map fun (r : Round) => if mine r then { r with cmdDone := true } else r })

/-- A partition's rounds that a condition picks are dropped (R385). -/
def dropRounds (pick : Round → Bool) : Act Unit := do
  let d ← look
  each d.xchs fun ix => onlyIf (ix.2.rounds.any pick) (setXch ix.1 { ix.2 with rounds := ix.2.rounds.filter fun (r : Round) => !pick r })

/-! Messages that arrive (R213, R377–R379, R382). -/

/-- How an exchange message is handled: dropped (at a die's count), left in its ring, or taken. -/
inductive Rx where
  | drop (die : Nat)
  | wait
  | land (die : DieId) (id i : Nat)
  deriving DecidableEq, Repr

/-- The handle that a message came over; 0 through the fabric (R371). -/
def srcHandle (d : Dev) : MsgSrc → Nat
  | .fabric _ => 0
  | .ring i => ((chanOf d i).map fun c => c.handle i).getD 0

/-- Whether a partition's open step takes exchange messages: it is not being discarded (R378, R385). -/
def stepTakes (d : Dev) (p : PartId) : Bool :=
  match (partOf d p).step with
  | some _ => (escOf d p).st != .discarding
  | none => true

/-- The first rule of R378 on a message: stale, or of a step to come. -/
def stepRule (d : Dev) (p : PartId) (msg : List Byte) : Option Rx :=
  let y := partOf d p
  let step := fieldAt msg 8 8
  if !y.running ∨ fieldAt msg 4 4 ≠ y.job then some (.drop 0)
  else
    match y.step with
    | some s => if step < s.num ∨ (step = s.num ∧ !stepTakes d p) then some (.drop 0) else if s.num < step then some .wait else none
    | none => if stepAhead y step then some .wait else some (.drop 0)

/-- The identity that a message carries (R375). -/
def msgIdent (msg : List Byte) : List Nat :=
  let fl := fieldAt msg 1 1
  [fieldAt msg 4 4, fieldAt msg 8 8, fieldAt msg 0x10 2, fieldAt msg 0x12 2, fieldAt msg 0x14 4, b2n (bitOf fl 2), b2n (bitOf fl 3)]

/-- Whether the window that a round's task lies in is being evicted, is evicted or is being restored: its messages wait (R108, R109). -/
def roundAway (d : Dev) (r : Round) : Bool :=
  ((taskOf d r.p r.tid).map fun t => t.win != 0 && d.wins.any fun w => w.id == t.win && w.part == r.p && w.st != .granted).getD false

/-- Where a DISPATCH or RETURN message goes (R378). -/
def matchMsg (d : Dev) (p : PartId) (h : Nat) (kind : RoundKind) (msg : List Byte) : Rx :=
  match stepRule d p msg with
  | some r => r
  | none =>
    let rs := findRounds d p kind (msgIdent msg)
    match rs with
    | [] => if kind = .receive then .wait else .drop 0
    | (die, _) :: _ =>
      if rs.any fun ir => roundAway d ir.2 then .wait
      else match rs.findSome? fun (die, r) => ((List.range r.batches.length).find? fun i =>
          ((r.batches[i]?).map fun (b : Batch) => b.handle == h && !b.done).getD false).map fun i => Rx.land die r.id i with
      | some l => l
      | none => .drop die.val

/-- One message on the fabric has been taken or dropped: the round that sent it may complete (R368). -/
def fabricTaken (p : PartId) (kind : RoundKind) (msg : List Byte) (src : MsgSrc) : Act Unit :=
  match src with
  | .ring _ => pure ()
  | .fabric _ => do
    let d ← look
    onSome (findRounds d p kind (msgIdent msg)).head? fun (die, r) => setRound die { r with locals := r.locals - 1 }

/-- The header counts of a message. -/
def msgCounts (msg : List Byte) : List Nat := (List.range 16).map fun x => fieldAt msg (0x20 + 2 * x) 2

/-- A DISPATCH message lands in its receive's area (R377, R379, R380); what it cannot write faults the receive (R386). -/
def landDispatch (die : DieId) (id i : Nat) (msg : List Byte) : Act Unit := do
  let d ← look
  onSome (roundOf d die id) fun r => do
    let fl := fieldAt msg 1 1
    let counts := msgCounts msg
    let b := r.batches.getD i (Batch.fresh 0)
    let fault (code : Nat) : Act Unit := do
      let d ← look
      setXch die { xchOf d die with rounds := (xchOf d die).rounds.filter fun (z : Round) => z.id ≠ id }
      xchFault die r.c r.k r.p r.tid code
    let go (r : Round) : Act Unit := do
      let b := r.batches.getD i (Batch.fresh 0)
      match ← placeRows die r b (msg.length + 1) (fieldAt msg 0x18 4) (msg.drop 64) with
      | .error e => fault e
      | .ok _ => do
        xbusy die (msg.length - 64)
        onlyIf (bitOf fl 1) do
          match ← receiveDone die r i with
          | .error e => fault e
          | .ok _ => pure ()
    if bitOf fl 0 then
      if b.begun then
        if b.counts = counts then do
          count .XCH_RESTARTS die.val 1
          go r
        else fault 5
      else do
        match ← beginBatch die r i counts true with
        | .error e => fault e
        | .ok r1 => go r1
    else if b.begun then go r
    else count .XCH_RX_DROP die.val 1

/-- DISPATCH_MESSAGE_ARRIVAL (R377, R378). -/
def doDispatchMsg (p : PartId) (src : MsgSrc) : Act Unit := do
  match ← takeMsg p [2, 3] src with
  | none => pure ()
  | some msg => do
    let d ← look
    onlyIf (fieldAt msg 0 1 == 0x10 && decide (64 ≤ msg.length)) do
      match matchMsg d p (srcHandle d src) .receive msg with
      | .wait => pure ()
      | .drop die => do
        count .XCH_RX_DROP die 1
        dropMsg src
        fabricTaken p .dispatch msg src
      | .land die id i => do
        landDispatch die id i msg
        dropMsg src
        fabricTaken p .dispatch msg src

/-- A RETURN batch is complete (R382): copied to the RES entry, and with the last ctr2 advances. -/
def returnBatchDone (die : DieId) (r0 : Round) (i : Nat) : Act (Except XErr Unit) := do
  let b := r0.batches.getD i (Batch.fresh 0)
  let r := { r0 with batches := r0.batches.set i { b with done := true } }
  let last := r.batches.all (·.done)
  let rb := r.desc.rowBytes
  let n := b.kept.foldl (· + ·) 0 * rb
  let at_ := r.offs.getD i 0 * rb
  setRound die r
  count .XCH_RX_ROWS die.val (b.kept.foldl (· + ·) 0)
  onlyIf last (returnsDone r)
  if r.desc.stash = 0 then pure (.ok ())
  else do
    match ← xget (r.ctx die) (r.loc r.desc.ret) at_ n with
    | .error e => pure (.error e)
    | .ok bs => if bs.isEmpty && !last then pure (.ok ()) else xput (r.ctx die) (r.loc r.desc.stash) (if bs.isEmpty then 0 else at_) bs last

/-- A RETURN message lands in the return area (R382); a batch that begins again is a restart (R379). -/
def landReturn (die : DieId) (id i : Nat) (msg : List Byte) : Act Unit := do
  let d ← look
  onSome (roundOf d die id) fun r => do
    let fl := fieldAt msg 1 1
    let b := r.batches.getD i (Batch.fresh 0)
    let rb := r.desc.rowBytes
    let room := b.kept.foldl (· + ·) 0 * rb
    let off := fieldAt msg 0x18 4
    if !bitOf fl 0 && !b.begun then count .XCH_RX_DROP die.val 1
    else if bitOf fl 0 && b.begun && b.counts != msgCounts msg then do
      setXch die { xchOf d die with rounds := (xchOf d die).rounds.filter fun (z : Round) => z.id ≠ id }
      xchFault die r.c r.k r.p r.tid 5
    else do
      onlyIf (bitOf fl 0 && b.begun) (count .XCH_RESTARTS die.val 1)
      let r1 := { r with batches := r.batches.set i { b with begun := true, counts := msgCounts msg } }
      setRound die r1
      let res ← xput (r1.ctx die) (r1.loc r1.desc.ret) (r1.offs.getD i 0 * rb + off) ((msg.drop 64).take (room - off)) false
      match res with
      | .error e => xchFault die r.c r.k r.p r.tid e
      | .ok _ => do
        xbusy die (msg.length - 64)
        onlyIf (bitOf fl 1) do
          match ← returnBatchDone die r1 i with
          | .error e => xchFault die r.c r.k r.p r.tid e
          | .ok _ => pure ()

/-- RETURN_MESSAGE_ARRIVAL (R378, R382). -/
def doReturnMsg (p : PartId) (src : MsgSrc) : Act Unit := do
  match ← takeMsg p [2, 3] src with
  | none => pure ()
  | some msg => do
    let d ← look
    onlyIf (fieldAt msg 0 1 == 0x11 && decide (64 ≤ msg.length)) do
      match matchMsg d p (srcHandle d src) .dispatch msg with
      | .wait => pure ()
      | .drop die => do
        count .XCH_RX_DROP die 1
        dropMsg src
        fabricTaken p .return msg src
      | .land die id i => do
        landReturn die id i msg
        dropMsg src
        fabricTaken p .return msg src

end Sys2Proof.Machine
end

