-- ==== Sys2Proof/Machine/Steps.lean ====
section
/-! DEFINITION. Steps and their ends (files 01, 09 and 14): what the step builder keeps of tasks, the bank headers and the record of the
escapement, its messages, the flip, the discard and the close of a step (R14–R20, R244, R261–R265, R271, R392, R428). -/

namespace Sys2Proof.Machine

/-- A partition changed. -/
def updPart (p : PartId) (f : Part → Part) : Act Unit := do
  let d ← look
  emit (.part p (f (partOf d p)))

/-- A partition's run state changed. -/
def updRun (p : PartId) (f : PartRun → PartRun) : Act Unit := do
  let d ← look
  emit (.run p (f (runOf d p)))

/-- A task changed. -/
def updTask (p : PartId) (tid : Nat) (f : Task → Task) : Act Unit := do
  let d ← look
  onSome (taskOf d p tid) fun t => emit (.task p tid (some (f t)))

/-- A partition's escapement changed. -/
def updEsc (p : PartId) (f : Esc → Esc) : Act Unit := do
  let d ← look
  emit (.esc p (f (escOf d p)))

/-- A partition's tasks, in the order in which they were fetched. -/
def tasksOf (d : Dev) (p : PartId) : List Task := (d.tasks.filter fun x => x.1.1 == p).map (·.2)

/-- The task identifier of the work descriptor (R425), the item of a serving task, and the flags. -/
def Task.id (t : Task) : Nat := t.tid % 2 ^ 32
def Task.item (t : Task) : Nat := t.tid / 2 ^ 32
def Task.deferred (t : Task) : Bool := bitOf t.flags 0
def Task.onDemand (t : Task) : Bool := bitOf t.flags 1
def Task.backward (t : Task) : Bool := bitOf t.flags 3
/-- Whether a task has been given to a slot at some time. -/
def Task.begun (t : Task) : Bool := t.started || t.core.isSome || t.image.isSome

/-- Whether a task is one of a step: every task of a training step, the tasks of the items taken of a serving step (R409). -/
def inStep (s : StepRec) (t : Task) : Bool := t.item == 0 || s.items.contains t.item

/-! The posts of the step builder (R428). -/

/-- A TASK entry (R428): for every fault, and for a success that the descriptor asks to be reported. -/
def postTask (p : PartId) (t : Task) (status detail : Nat) : Act Unit := do
  let d ← look
  let at_ := match t.core with
    | some (c, k) => c.val + 1024 * k.val
    | none => 0
  onlyIf (status != 0 || bitOf t.flags 2)
    (post t.fn t.ring (entryBytes t.id 1 status detail (at_ + 2 ^ 32 * (stepNum d p % 2 ^ 32))))

/-- What the barrel, the channels and the exchange engines hold for a task that has ended (R208, R209, R358, R385). -/
def dropTask (p : PartId) (t : Task) (status : Nat) : Act Unit := do
  dropTaskChans p t.tid
  dropTaskRounds p t.tid
  let d ← look
  if status = 0 then
    each (((barrelOf d p).ents.filter fun e => (barrelOf d p).active && (e.consumer == t.id || e.twin == t.id)).map (·.group)).dedup (freeGroup p)
  else dropWriter p t.tid

/-- The end of a task taken up: its entry is posted, and what was held for it goes. -/
def retireTask (p : PartId) (t : Task) (status detail : Nat) : Act Unit := do
  updTask p t.tid fun x => { x with endst := none }
  postTask p t status detail
  dropTask p t status

/-- Tasks of a partition that have not ended are aborted (R93, R265, R411): those that were placed end with an entry, the others are
never placed. -/
def abortTasks (p : PartId) (status : Nat) (pick : Task → Bool := fun _ => true) : Act Unit := do
  let d ← look
  let mine := (tasksOf d p).filter pick
  each mine fun t =>
    if t.over then pure ()
    else if t.begun then abortTask p t.tid status 0
    else updTask p t.tid fun x => { x with st := .failed }
  let d ← look
  each ((tasksOf d p).filter pick) fun t => onSome t.endst fun e => retireTask p t e.1 e.2
  updRun p fun r => { r with
    crit := r.crit.filter fun i => !(mine.map (·.tid)).contains i
    defer := r.defer.filter fun i => !(mine.map (·.tid)).contains i }

/-! Bank headers (R241–R244). -/

/-- Where a byte of bank `b` of a shard lies: on a generation-pair page bank 0 is the entry's frame and bank 1 its frame_b (R242, R282). -/
def bankLoc (d : Dev) (p : PartId) (va b : Nat) : Option Loc :=
  match (walk d p va).1 with
  | none => none
  | some (e, level) =>
    let ty := bitsOf e 62 60
    let off := if level = 4 then va % 65536 else va % 2097152
    let fr := (if ty = 2 ∧ b % 2 = 1 then bitsOf e 51 26 else bitsOf e 25 0) * 8192
    if ty = 1 ∨ ty = 2 then some (if bitOf e 57 then .comp fr off (bitsOf e 54 53) else .plain (fr + off)) else none

/-- The address of a shard's bank. -/
def Shard.bank (s : Shard) (b : Nat) : Nat := if b % 2 = 0 then s.bank0 else s.bank1

/-- A bank header (R241): none when it cannot be read. -/
def bankHeader (d : Dev) (p : PartId) (s : Shard) (b : Nat) : Option (List Byte) :=
  match bankLoc d p (s.bank b) b with
  | none => none
  | some l =>
    let (bs, bad) := readLoc d l 64
    if bad.isEmpty then some bs else none

/-- The state code of a header. -/
def headState (bs : List Byte) : Nat := fieldAt bs 0x10 1

/-- A header rewritten by the escapement engine (R244), past the views of R242. -/
def putHeader (p : PartId) (s : Shard) (b : Nat) (f : List Byte → List Byte) : Act Unit := do
  let d ← look
  match bankLoc d p (s.bank b) b with
  | none => pure ()
  | some l => do
    let _ ← writeLoc p l true (f (readLoc d l 64).1) []
    pure ()

/-- A header with a state. -/
def withHeadState (st : Nat) (bs : List Byte) : List Byte := bs.take 0x10 ++ leBytes 1 st ++ bs.drop 0x11

/-- The header of a next bank when a step opens (R244). -/
def writingHeader (gen step job : Nat) (bs : List Byte) : List Byte :=
  leBytes 8 gen ++ leBytes 8 step ++ leBytes 1 1 ++ (bs.drop 0x11).take 7 ++ leBytes 4 job ++ bs.drop 0x1C

/-- Whether a bank holds a segment whose poison-map bit is set (R505), or that cannot be read. -/
def bankPoisoned (d : Dev) (p : PartId) (s : Shard) (b : Nat) : Bool :=
  (List.range (ceilDiv (0x800 + 4 * s.elems + 2 * (33 * s.elems / 32)) 2048)).any fun i =>
    match bankLoc d p (s.bank b + 2048 * i) b with
    | some (.plain pa) => d.pmap.contains (pa / 2048)
    | some (.comp dir off _) => !(compSegment d dir (off / 2048)).2.isEmpty
    | _ => true

/-! The record and the messages of the escapement (R261, R271). -/

/-- The state code of the escapement (R275). -/
def EscSt.code : EscSt → Nat
  | .idle => 0 | .running => 1 | .passed => 2 | .releasing => 3 | .flipping => 4 | .discarding => 5 | .inDoubt => 6

/-- The escapement record (R271). -/
def recordBytes (e : Esc) : List Byte :=
  leBytes 4 e.job ++ leBytes 1 e.st.code ++ leBytes 3 0 ++ leBytes 8 e.gen ++ leBytes 8 e.stepA ++ leBytes 1 e.outA ++ leBytes 7 0 ++
    leBytes 8 e.stepB ++ leBytes 1 e.outB ++ leBytes 23 0

/-- The record written (R264, R265, R271). -/
def writeRecord (p : PartId) : Act Unit := do
  let d ← look
  let va := regOf d .ESC_RECORD_HI p.val * 2 ^ 32 + regOf d .ESC_RECORD_LO p.val
  let _ ← vaWrite (envOf d p) p { inner := true } va (recordBytes (escOf d p)) []
  pure ()

/-- The escapement in a new state, which the record shows. -/
def escTo (p : PartId) (st : EscSt) : Act Unit := do
  updEsc p fun e => { e with st := st }
  writeRecord p

/-- Types of escapement messages and answers (R261). -/
def msgGather : Nat := 1
def msgRelease : Nat := 2
def msgAbandon : Nat := 3
def msgQuery : Nat := 4
def msgResolve : Nat := 5
def msgAnswer : Nat := 6
def ansWait : Nat := 1
def ansFlipped : Nat := 2
def ansDiscarded : Nat := 3

/-- An escapement message (R261). -/
def escBytes (e : Esc) (type answer step hops : Nat) : List Byte :=
  leBytes 1 type ++ leBytes 1 answer ++ leBytes 2 e.self ++ leBytes 4 e.job ++ leBytes 8 step ++ leBytes 8 e.gen ++ leBytes 2 hops ++ leBytes 38 0

/-- An escapement message sent to a position (R260). Key 2 marks the leader's RELEASE to the deputy, whose acceptance is the commit
point (R263); one that cannot be sent is lost. -/
def escSend (p : PartId) (pos type answer step hops : Nat) (key : Nat := 1) : Act Unit := do
  let d ← look
  let e := escOf d p
  let ch := if pos = e.self then none else (e.table[pos]?).bind (openChan d p)
  match ch with
  | some ic => queueJob ic.1 (.engine p key) [⟨.bytes (escBytes e type answer step hops), true⟩]
  | none => onlyIf (key == 2) (updEsc p fun e => { e with relLost := true })

/-- ABANDON for a step sent to every participant (R265, R267). -/
def sendAbandonFor (p : PartId) (step : Nat) : Act Unit := do
  let d ← look
  each (List.range (escOf d p).table.length) fun i => escSend p i msgAbandon 0 step 0

/-- ABANDON for the open step sent to every participant (R265). -/
def sendAbandon (p : PartId) : Act Unit := do
  let d ← look
  sendAbandonFor p (escOf d p).step

/-- The token that the leader created is consumed, once (R269). -/
def consumeToken (p : PartId) : Act Unit := do
  let d ← look
  onlyIf (escOf d p).token do
    updEsc p fun e => { e with token := false }
    giveBack 5 1
    gauge .ESC_TOKENS_OUT p.val (ctrOf d .ESC_TOKENS_OUT p.val - 1)

/-! The close of a step (R19, R20). -/

/-- A snapshot of the audit counters (R509). -/
def auditSnap : Act Unit := do
  emit .auditSnap
  orReg .TOP_AUDIT_STATUS 0 0 0x10000

/-- What firmware sets on a core for the basic level: the counters count (R82, R120, R150, R190), and the watchdog has its limit (R190). -/
def basicCore (c : CoreId) : Act Unit := do
  each [.ARR_CTRL, .CORE_CNT_CTRL, .SPAD_CTRL, .VEC_CTRL, .LATHE_CTRL] fun n => setReg n c.val 0 1
  setReg .STRM_CTRL c.val 0 0x04000001

/-- Of some cores, those that no partition at the expert level holds take what firmware sets. DESIGN CHOICE (log entry 119): a core that a
partition at the expert level holds keeps its control registers. -/
def basicCores (cs : List CoreId) : Act Unit := do
  let d ← look
  each (cs.filter fun c => allParts.all fun q => !bitOf (regOf d .CORE_OWNER c.val) q.val || !(partOf d q).expert) basicCore

/-- The counters that firmware reports at the close of a partition's step: those of the links at either level (R365), and at the basic level
those of its cores, dies, piles and own page too (R82, R120, R150, R190, R226, R278, R307, R326, R391, R417). What a report looks like and
how it leaves the module is not laid down (log entry 131). -/
def reported (d : Dev) (p : PartId) : List (CtrKey × DWord) := d.ctrs.filter fun (x : CtrKey × DWord) =>
  match x.1.name.row.map fun (r : CtrRow) => r.blk with
  | some .tylMod | some .eng | some .link => true
  | some .core => !(partOf d p).expert && bitOf (regOf d .CORE_OWNER x.1.unit) p.val
  | some .pile | some .die => !(partOf d p).expert
  | some .sched | some .barl | some .upd | some .mmu => !(partOf d p).expert && x.1.unit == p.val
  | _ => false

/-- The step reaches CLOSED: what its tasks, its barrel and its rounds held returns, its histogram bank waits for its release (R50), and its
completion entry is written (R20, R428). `status` is 0 for committed, 1 for discarded, and 2 for a step whose outcome the other participants
have, which posts no entry (R270). At the basic level firmware sets its cores' control registers again (R592). -/
def closeStep (p : PartId) (status : Nat) : Act Unit := do
  let d ← look
  onSome (partOf d p).step fun s => do
    abortTasks p 0x19 (inStep s)
    let d ← look
    each ((tasksOf d p).filter (inStep s)) fun t => emit (.task p t.tid none)
    closeBarrel p
    dropRounds fun r => r.p == p
    let hist := latched d p .UPD_HIST_HI * 2 ^ 32 + latched d p .UPD_HIST_LO
    updRun p fun r => { r with banks := if hist = 0 then r.banks else r.banks ++ [s.num % 2 + 2 * status] }
    updPart p fun y => { y with
      step := none
      lastStep := some s.num
      skip := if s.ended ∨ s.cut ∨ y.serving then y.skip else some (s.fn, s.ring) }
    let d ← look
    onlyIf (!(partOf d p).serving && status != 2)
      (post s.fn s.ring (entryBytes (s.num % 2 ^ 32) 2 status 0 (escOf d p).gen))
    onlyIf (!(partOf d p).expert) do
      auditSnap
      basicCores (allCores.filter fun c => bitOf (regOf d .CORE_OWNER c.val) p.val)
    let d ← look
    emit (.out (.report p s.num (reported d p)))

/-- The outcome of a step in the record (R271): the latest two steps are kept; one that is there already keeps its place. -/
def Esc.record (e : Esc) (step out : Nat) : Esc :=
  if e.stepA = step ∧ e.outA ≠ 0 then { e with outA := out }
  else { e with
    stepB := e.stepA
    outB := e.outA
    stepA := step
    outA := out }

/-- The outcome of the escapement's step (R264, R265, R271). -/
def escOutcome (p : PartId) (out : Nat) : Act Unit := do
  updEsc p fun e => { e.record e.step out with
    st := .idle
    hold := none
    asked := false
    resolv := false
    relLost := false }
  writeRecord p
  count (if out = 1 then .ESC_COMMITS else .ESC_DISCARDS) p.val 1

/-- The banks of a flip (R264 step 2): the next becomes CURRENT, the current OLD. -/
def flipBanks (p : PartId) : Act Unit := do
  let d ← look
  let e := escOf d p
  each e.shards fun s => do
    putHeader p s (e.gen + 1) (withHeadState 3)
    putHeader p s e.gen (withHeadState 5)

/-- The partition flips (R264). -/
def flip (p : PartId) : Act Unit := do
  escTo p .flipping
  flipBanks p
  updEsc p fun e => { e with gen := e.gen + 1 }
  consumeToken p
  escOutcome p 1
  closeStep p 0

/-- The next banks of a discard (R265 step 2): DISCARDED unless EMPTY. -/
def discardBanks (p : PartId) : Act Unit := do
  let d ← look
  let e := escOf d p
  each e.shards fun s => do
    let d ← look
    onlyIf (((bankHeader d p s (e.gen + 1)).map headState) != some 0) (putHeader p s (e.gen + 1) (withHeadState 4))

/-- A RELEASE to the deputy that has not left yet does not leave any more (R263). -/
def dropRelease (p : PartId) : Act Unit := do
  let d ← look
  let gone (j : SendJob) : Bool := j.owner == .engine p 2
  each (d.chans.filter fun ic => ic.2.jobs.any gone) fun ic => setChan ic.1 { ic.2 with jobs := ic.2.jobs.filter fun j => !gone j }

/-- The partition discards (R265). -/
def discardStep (p : PartId) : Act Unit := do
  escTo p .discarding
  dropRelease p
  abortTasks p 0x19
  discardBanks p
  consumeToken p
  orReg .TOP_ERR_STATUS 0 0 4
  logAny 1 (some p)
  escOutcome p 2
  closeStep p 1

/-- The partition abandons its step (R18, R265): ABANDON goes to every participant, and it discards. In IN_DOUBT only the align command
settles it (R268). -/
def abandonStep (p : PartId) : Act Unit := do
  let d ← look
  onlyIf ((partOf d p).step.isSome && !(partOf d p).serving && (escOf d p).st != .inDoubt) do
    sendAbandon p
    discardStep p

/-- The end of the job lets go of the escapement: a token that it created and the counts of its slices return. A partition that is kept keeps
its generation and the outcomes of its record (R271). -/
def endEsc (p : PartId) : Act Unit := do
  consumeToken p
  dropRelease p
  let d ← look
  giveBack 6 (((escOf d p).slices.map (·.count)).foldl (· + ·) 0)
  updEsc p fun e => { Esc.empty with
    gen := e.gen
    stepA := e.stepA
    outA := e.outA
    stepB := e.stepB
    outB := e.outB
    fresh := e.fresh }

/-- A partition's escapement is scrubbed (R271): no record, ESC_GEN 0. -/
def scrubEsc (p : PartId) : Act Unit := do
  endEsc p
  emit (.esc p Esc.empty)

end Sys2Proof.Machine
end

