-- ==== Sys2Proof/Machine/Gradients.lean ====
section
/-! DEFINITION. Slices and contributions (file 09, R239–R252): the shard and slice tables when a step opens, contribution messages, the
zeroing of an accumulator, and the end of an update task. -/

namespace Sys2Proof.Machine

/-- Records of 64 B of a table in a partition's memory; a record that cannot be read is none. -/
def readTable (p : PartId) (va : Nat) : Nat → Nat → Act (List (Option (List Byte)))
  | 0, _ => pure []
  | n + 1, i => do
    let d ← look
    let r ← vaBytes (envOf d p) p (va + 64 * i) 64
    let rest ← readTable p va n (i + 1)
    pure (r :: rest)

/-- The address of a table whose registers are latched. -/
def tableVa (d : Dev) (p : PartId) (lo hi : RegName) : Nat := latched d p hi * 2 ^ 32 + latched d p lo

/-- A shard record (R240). -/
def shardOf (bs : List Byte) : Shard :=
  ⟨fieldAt bs 0 8 % 2 ^ 48, fieldAt bs 8 8 % 2 ^ 48, fieldAt bs 0x28 4, fieldAt bs 0x2E 2, fieldAt bs 0x30 8, bitOf (fieldAt bs 0x2D 1) 0,
    fieldAt bs 0x10 8 % 2 ^ 48, fieldAt bs 0x18 8 % 2 ^ 48, fieldAt bs 0x20 8 % 2 ^ 48, fieldAt bs 0x2C 1 % 16⟩

/-- A slice record (R245) as the compiler wrote it, IDLE (R246). -/
def sliceOf (bs : List Byte) : Slice :=
  ⟨fieldAt bs 0 4, fieldAt bs 4 4, fieldAt bs 8 4, fieldAt bs 0xC 2, fieldAt bs 0xE 2, bitsOf (fieldAt bs 0x10 4) 21 0, fieldAt bs 0x14 2,
    fieldAt bs 0x18 4, .idle, 0, false, .none⟩

/-- The tables of the update unit, with the first shard whose record cannot be read, if any. A slice record that cannot be read describes
no slice. -/
def readTables (p : PartId) : Act (List (Option (List Byte)) × List Slice) := do
  let d ← look
  let shards ← readTable p (tableVa d p .UPD_SHARD_LO .UPD_SHARD_HI) (latched d p .UPD_SHARD_COUNT % 2 ^ 17) 0
  let slices ← readTable p (tableVa d p .UPD_SLICE_LO .UPD_SLICE_HI) (latched d p .UPD_SLICE_COUNT % 2 ^ 21) 0
  pure (shards, slices.map fun r => (r.map sliceOf).getD ⟨0, 0, 0, 0, 0, 0, 0, 0, .idle, 0, false, .none⟩)

/-- Whether a shard stands in the way of a step (R243, R244, R505): its record or current header cannot be read, the header is not CURRENT at
ESC_GEN, no slice covers it, or its current bank holds poison. -/
def shardBars (d : Dev) (p : PartId) (slices : List Slice) (i : Nat) (r : Option (List Byte)) : Bool :=
  match r with
  | none => true
  | some bs =>
    let s := shardOf bs
    let gen := (escOf d p).gen
    match bankHeader d p s gen with
    | none => true
    | some h => headState h != 3 || fieldAt h 0 8 != gen || !(slices.any fun (x : Slice) => x.shard == i && x.elems != 0) || bankPoisoned d p s gen

/-- The first shard that stands in the way of a step. -/
def firstBar (d : Dev) (p : PartId) (shards : List (Option (List Byte))) (slices : List Slice) : Option Nat :=
  ((List.range shards.length).zip shards).findSome? fun (i, r) => if shardBars d p slices i r then some i else none

/-- The code of a slice state (R246). -/
def SliceSt.code : SliceSt → Nat
  | .idle => 0 | .accum => 1 | .full => 2 | .updating => 3 | .done => 4 | .spoiled => 5

/-- A slice changed; the module writes its record (R245). -/
def setSlice (p : PartId) (i : Nat) (s : Slice) : Act Unit := do
  updEsc p fun e => { e with slices := e.slices.set i s }
  let d ← look
  let va := tableVa d p .UPD_SLICE_LO .UPD_SLICE_HI + 64 * i
  let _ ← vaWrite (envOf d p) p { inner := true } (va + 0x20) (leBytes 1 s.st.code) []
  let _ ← vaWrite (envOf d p) p { inner := true } (va + 0x22) (leBytes 2 s.count) []
  let _ ← vaWrite (envOf d p) p { inner := true } (va + 0x28) (leBytes 8 (escOf d p).step) []
  pure ()

/-- The escapement and the slices at OPEN (R240, R244–R246, R260): counts of the last step return, every record is IDLE, every next bank
WRITING. With a count of 0 in the table register the partition is the only participant. -/
def openEsc (p : PartId) (num job : Nat) (shards : List (Option (List Byte))) (slices : List Slice) : Act Unit := do
  let d ← look
  giveBack 6 (((escOf d p).slices.map (·.count)).foldl (· + ·) 0)
  let cnt := latched d p .ESC_TABLE_COUNT
  let n := if bitsOf cnt 12 0 = 0 then 1 else bitsOf cnt 12 0
  let raw ← vaBytes (envOf d p) p (tableVa d p .ESC_TABLE_LO .ESC_TABLE_HI) (4 * n)
  let table := (List.range n).map fun i => (raw.map fun bs => fieldAt bs (4 * i) 4).getD 0
  updEsc p fun e => { e with
    step := num
    job := job
    table := table
    self := (if bitsOf cnt 12 0 = 0 then 0 else bitsOf cnt 27 16)
    hold := none
    token := false
    asked := false
    resolv := false
    relLost := false
    fresh := false
    slices := slices
    shards := shards.filterMap fun r => r.map shardOf }
  let d ← look
  each (escOf d p).shards fun s => putHeader p s ((escOf d p).gen + 1) (writingHeader ((escOf d p).gen + 1) num job)
  each ((List.range slices.length).zip slices) fun (i, s) => setSlice p i s
  escTo p .running

/-- Bits of the started (k = 0) and done (k = 1) bitmaps after the accumulator (R245). -/
def sliceBit (d : Dev) (s : Slice) (k ci : Nat) : Bool :=
  bitOf (fieldAt (bytesOf d (.spad (Fin.ofNat 800 s.core)) (s.acc + 4 * s.elems + 512 * k + ci / 8) 1) 0 1) (ci % 8)

/-- A bit of a bitmap set. -/
def setSliceBit (s : Slice) (k ci : Nat) : Act Unit := do
  let d ← look
  let a := s.acc + 4 * s.elems + 512 * k + ci / 8
  let c : CoreId := Fin.ofNat 800 s.core
  emit (.write (.spad c) a (leBytes 1 (setBit (fieldAt (bytesOf d (.spad c) a 1) 0 1) (ci % 8) true)))

/-- The island cycles of contribution adds (R251): blocks of 256 elements. -/
def addCycles (f : Fmt) (n : Nat) : Nat :=
  ((List.range (ceilDiv n 256)).map fun i => max (ceilDiv (rowBytes f (min 256 (n - 256 * i)) + 1024) 256) 4).foldl (· + ·) 0

/-- The elements of a message added into the accumulator (R248 step 5, R251). False: the accumulator holds a poisoned word (R504). -/
def addContribution (p : PartId) (s : Slice) (f : Fmt) (first n : Nat) (payload : List Byte) : Act Bool := do
  let d ← look
  let c : CoreId := Fin.ofNat 800 s.core
  let a := s.acc + 4 * first
  if !(badIn d (.spad c) a (4 * n)).isEmpty then pure false
  else do
    let (new, fl) := decodeRow f n payload
    let (old, _) := decodeRow .f32 n (bytesOf d (.spad c) a (4 * n))
    let sums := (old.zip new).map fun (x, y) => laneAdd .f32 x y
    emit (.write (.spad c) a (packCodes 32 (sums.map fun r => codeOf .f32 r.1)))
    setFlags c p (sums.foldl (fun (g : Flags) r => g.or r.2) fl)
    count .UPD_ADD_CYCLES p.val (addCycles f n)
    pure true

/-- A slice is spoiled (R248, R504): the owner abandons the step (R262). -/
def spoilSlice (p : PartId) (i : Nat) (s : Slice) : Act Unit := do
  setSlice p i { s with st := .spoiled }
  count .UPD_SPOILED p.val 1
  abandonStep p

/-- What a contribution message is to its owner before its bits are looked at (R249). -/
inductive Contrib where
  | stale
  | wait
  | zero (i : Nat) (s : Slice)
  | take (i : Nat) (s : Slice) (f : Fmt)
  deriving DecidableEq, Repr

/-- A contribution message sorted by step and identity (R246, R249). A message that names no slice, no float format or elements outside the
slice, or whose payload is short, is stale too (log entry 30). -/
def sortContrib (d : Dev) (p : PartId) (msg : List Byte) : Contrib :=
  let y := partOf d p
  let step := fieldAt msg 8 8
  if msg.length < 32 ∨ !y.running ∨ fieldAt msg 0 4 ≠ y.job then .stale
  else
    match y.step with
    | none => if stepAhead y step then .wait else .stale
    | some st =>
      if st.num < step then .wait
      else if step < st.num ∨ y.serving then .stale
      else
        let i := fieldAt msg 4 4
        match (escOf d p).slices[i]?, fmtOf (fieldAt msg 0x1A 1 % 16) with
        | some s, some f =>
          let off := fieldAt msg 0x10 4
          let n := fieldAt msg 0x14 4
          if s.expected ≤ fieldAt msg 0x18 2 ∨ !f.isFloat ∨ off % 32 ≠ 0 ∨ n % 32 ≠ 0 ∨ s.elems < off + n ∨ msg.length - 32 < rowBytes f n then .stale
          else if s.st = .idle then (if s.zeroing then .wait else .zero i s)
          else .take i s f
        | _, _ => .stale

/-- CONTRIBUTION_MESSAGE (R246–R251): the oldest message of the channel, or one that came through the module fabric. -/
def doContribution (p : PartId) (src : MsgSrc) : Act Unit := do
  match ← takeMsg p [1] src with
  | none => pure ()
  | some msg => do
    let d ← look
    match sortContrib d p msg with
    | .stale => do
      count .UPD_CONTRIB_STALE p.val 1
      dropMsg src
    | .wait => pure ()
    | .zero i s => setSlice p i { s with zeroing := true }
    | .take i s f => do
      let ci := fieldAt msg 0x18 2
      let first := bitOf (fieldAt msg 0x1B 1) 0
      let last := bitOf (fieldAt msg 0x1B 1) 1
      let started := sliceBit d s 0 ci
      let done := sliceBit d s 1 ci
      dropMsg src
      if (started && done) || (!first && !started) then count .UPD_CONTRIB_DUP p.val 1
      else if first && started then spoilSlice p i s
      else do
        onlyIf first (setSliceBit s 0 ci)
        if ← addContribution p s f (fieldAt msg 0x10 4) (fieldAt msg 0x14 4) (msg.drop 32) then
          onlyIf last do
            setSliceBit s 1 ci
            let s' : Slice := { s with
              count := s.count + 1
              st := (if s.count + 1 = s.expected then SliceSt.full else s.st) }
            setSlice p i s'
            grant 6 1
            count .UPD_CONTRIB_COUNT p.val 1
        else spoilSlice p i s

/-- ACCUMULATOR_ZERO_DONE: the home core's stream port has zeroed the accumulator area and its bitmaps (R246). -/
def doZeroDone (p : PartId) (i : Nat) : Act Unit := do
  let d ← look
  onSome ((escOf d p).slices[i]?) fun s => onlyIf (s.st == .idle && s.zeroing && (partOf d p).step.isSome) do
    let c : CoreId := Fin.ofNat 800 s.core
    emit (.zero (.spad c) s.acc (4 * s.elems + 1024))
    clearBad (.spad c) s.acc (4 * s.elems + 1024)
    setSlice p i { s with
      zeroing := false
      st := .accum }

/-! The refresh of a working copy (R240, R252): when the update task of a slice has ended, the slice's rows go to the same addresses of every
replica's next view by remote writes (log entry 122). -/

/-- Where the rows of a slice lie in the working-copy bank of a generation, and their bytes (R241). -/
def sliceCopy (sh : Shard) (s : Slice) (gen : Nat) : Nat × Nat :=
  let rb := rowBytes ((fmtOf sh.kfmt).getD .f32) 2048
  ((if gen % 2 = 0 then sh.kbank0 else sh.kbank1) + s.first / 2048 * rb, s.elems / 2048 * rb)

/-- The shard of a slice whose working copy is sent to replicas, if it is. -/
def refreshOf (d : Dev) (p : PartId) (s : Slice) : Option Shard :=
  ((escOf d p).shards[s.shard]?).bind fun sh => if sh.refresh && sh.nrep != 0 && sh.kbank0 != 0 then some sh else none

/-- Bytes of a bank from a virtual address on, past the views of R242, with whether a word of them is poisoned; none where a page is missing. -/
def bankBytes (d : Dev) (p : PartId) (va n b : Nat) : Option (List Byte × Bool) :=
  let parts := (segsOf va n).map fun (_, v, k) => (bankLoc d p v b).map fun l => readLoc d l k
  if parts.all (·.isSome) then
    let rs := parts.filterMap id
    some ((rs.map (·.1)).flatten, rs.any fun r => !r.2.isEmpty)
  else none

/-- Whether the working copy of a slice holds poison, which is never sent (R501). -/
def refreshPoisoned (d : Dev) (p : PartId) (i : Nat) : Bool :=
  (((escOf d p).slices[i]?).bind fun s => (refreshOf d p s).bind fun sh =>
    let a := sliceCopy sh s ((escOf d p).gen + 1)
    (bankBytes d p a.1 a.2 ((escOf d p).gen + 1)).map (·.2)).getD false

/-- The refresh of a slice is in a state. -/
def setRef (p : PartId) (i : Nat) (r : RefSt) : Act Unit :=
  updEsc p fun e => { e with slices := e.slices.modify i fun s => { s with ref := r } }

/-- The working-copy slice is sent to every replica in messages of up to 4,096 B (R252, R357). A replica whose channel is not open, or a list
or copy that cannot be read, leaves the refresh incomplete. -/
def sendRefresh (p : PartId) (i : Nat) (s : Slice) (sh : Shard) : Act Unit := do
  let d ← look
  let gen := (escOf d p).gen + 1
  let (va, n) := sliceCopy sh s gen
  match ← vaBytes (envOf d p) p sh.rep (4 * sh.nrep), bankBytes d p va n gen with
  | some list, some (bs, _) => do
    setRef p i .sending
    each (List.range sh.nrep) fun r => do
      let d ← look
      match openChan d p (fieldAt list (4 * r) 4) with
      | none => setRef p i .lost
      | some ic => each (List.range (ceilDiv n 4096)) fun k => do
        let piece := (bs.drop (4096 * k)).take 4096
        let _ ← issueRma ic.1 true (va + 4096 * k) piece.length piece none (some (.refresh (escOf d p).step i))
        pure ()
  | _, _ => setRef p i .lost

/-- A slice is DONE (R246), and the last slice of a shard makes the shard's next bank WRITTEN (R244). -/
def finishSlice (p : PartId) (i : Nat) : Act Unit := do
  let d ← look
  onSome ((escOf d p).slices[i]?) fun s => do
    setSlice p i { s with st := .done }
    count .UPD_SLICES_RUN p.val 1
    let d ← look
    let e := escOf d p
    onlyIf (e.slices.all fun x => x.shard != s.shard || x.st == .done) (onSome (e.shards[s.shard]?) fun sh => putHeader p sh (e.gen + 1) (withHeadState 2))

/-- The update task of a slice has ended with every drain accepted: the slice is DONE, or its working copy goes to the replicas first (R246,
R252). -/
def sliceDone (p : PartId) (i : Nat) : Act Unit := do
  let d ← look
  onSome ((escOf d p).slices[i]?) fun s => onlyIf (s.st == .updating) (
    match refreshOf d p s with
    | none => finishSlice p i
    | some sh => sendRefresh p i s sh)

/-- Whether a refresh send of a slice is still to be accepted. -/
def refreshOut (d : Dev) (p : PartId) (i : Nat) : Bool :=
  d.chans.any fun ic => ic.2.part == p && ic.2.reqs.any fun r => r.note == some (.refresh (escOf d p).step i)

/-- Slices whose refresh sends have all been accepted are DONE (R252). -/
def refreshed (p : PartId) : Act Unit := do
  let d ← look
  each (List.range (escOf d p).slices.length) fun i => do
    let d ← look
    onSome ((escOf d p).slices[i]?) fun s => onlyIf (s.st == .updating && s.ref == .sending && !refreshOut d p i) (finishSlice p i)

/-- Whether an address lies in a next bank, or a next working copy, of a shard that the partition owns (R241, R504). -/
def inNextBank (d : Dev) (p : PartId) (va : Nat) : Bool :=
  let gen := (escOf d p).gen + 1
  (escOf d p).shards.any fun s =>
    let within (b n : Nat) : Bool := b != 0 && decide (b ≤ va) && decide (va < b + n)
    within (s.bank gen) (0x800 + 4 * s.elems + 2 * (33 * s.elems / 32)) ||
      within (if gen % 2 = 0 then s.kbank0 else s.kbank1) (s.elems / 2048 * rowBytes ((fmtOf s.kfmt).getD .f32) 2048)

/-- The update task of a slice is aborted (R246, R270, R504): the slice is FULL again. Where poison aborted it, `poison` says whether memory held
the poison and where: in the slice's accumulator it spoils the slice; in a next bank the task is placed again; anywhere else the step is
discarded. -/
def sliceAborted (p : PartId) (i : Nat) (poison : Option (Option Nat)) : Act Unit := do
  let d ← look
  onSome ((escOf d p).slices[i]?) fun s => onlyIf (s.st == .updating || s.st == .full) do
    let c : CoreId := Fin.ofNat 800 s.core
    setSlice p i { s with
      st := .full
      ref := .none }
    match poison with
    | none => pure ()
    | some none => if !(badIn d (.spad c) s.acc (4 * s.elems)).isEmpty then spoilSlice p i s else abandonStep p
    | some (some va) => onlyIf (!inNextBank d p va) (abandonStep p)

end Sys2Proof.Machine
end

