-- ==== Sys2Proof/Machine/Escapement.lean ====
section
/-! DEFINITION. The escapement (file 09, R260–R272): readiness, the protocol's messages, its timers, and the alignment of generations. -/

namespace Sys2Proof.Machine

/-- Whether a contribution of a partition is still to be accepted (R262). -/
def contribsOut (d : Dev) (p : PartId) : Bool :=
  d.chans.any fun ic => ic.2.part == p && ic.2.kind == 1 && !(ic.2.jobs.isEmpty && ic.2.sents.isEmpty)

/-- Whether a partition is ready (R262); a slice is DONE only once its refresh sends have been accepted (R252). -/
def escReady (d : Dev) (p : PartId) : Bool :=
  ((partOf d p).step.map fun s => s.st == .commit).getD false && (escOf d p).st == .running &&
    ((escOf d p).slices.all fun s => s.st == .done || s.elems == 0) && !contribsOut d p

/-- A held GATHER is forwarded, or answered with ABANDON when the generations differ (R263 step 2). -/
def passGather (p : PartId) (gen hops : Nat) : Act Unit := do
  let d ← look
  let e := escOf d p
  if gen ≠ e.gen then abandonStep p
  else do
    updEsc p fun x => { x with hold := none }
    escSend p ((e.self + 1) % max 1 e.table.length) msgGather 0 e.step (hops + 1)
    escTo p .passed

/-- ESCAPEMENT_READY (R262, R263): the leader creates the GATHER, another participant forwards the one it holds. With one participant
the commit point is at once. -/
def doEscReady (p : PartId) : Act Unit := do
  let d ← look
  onlyIf (escReady d p) do
    let e := escOf d p
    if e.self = 0 then onlyIf (!e.token) do
      updEsc p fun x => { x with token := true }
      grant 5 1
      gauge .ESC_TOKENS_OUT p.val (ctrOf d .ESC_TOKENS_OUT p.val + 1)
      if e.table.length ≤ 1 then flip p else escSend p 1 msgGather 0 e.step 1
    else onSome e.hold fun h => passGather p h.1 h.2

/-- The outcome of a step as the state or the record has it: 0 none, 1 committed, 2 discarded (R267, R271). -/
def escResult (e : Esc) (step : Nat) : Nat :=
  if e.stepA = step ∧ e.outA ≠ 0 then e.outA else if e.stepB = step ∧ e.outB ≠ 0 then e.outB else 0

/-- The answer for a step that is not open (R267). -/
def answerOf : Nat → Nat
  | 1 => ansFlipped
  | 2 => ansDiscarded
  | _ => ansWait

/-- What is done with a message about the open step (R263, R265, R267). -/
def escCurrent (p : PartId) (type answer origin gen hops : Nat) : Act Unit := do
  let d ← look
  let e := escOf d p
  match type with
  | 1 =>
    if e.self = 0 then onlyIf (e.token && e.st == .running) do
      consumeToken p
      escTo p .releasing
      escSend p 1 msgRelease 0 e.step 0 2
    else onlyIf (e.st == .running && e.hold.isNone) do
      updEsc p fun x => { x with hold := some (gen, hops) }
      onlyIf (escReady d p) (passGather p gen hops)
  | 2 => onlyIf (e.self != 0 && e.st == .passed) do
      if escResult e e.step = 2 then escSend p origin msgAnswer ansDiscarded e.step 0 else flip p
  | 3 =>
    if e.st = .running ∨ e.st = .releasing then discardStep p
    else onlyIf (e.st == .passed) do
      if origin ≤ 1 then discardStep p
      else updEsc p fun x => { x with
        asked := false
        resolv := false }
  | 4 => escSend p origin msgAnswer ansWait e.step 0
  | 5 =>
    if e.self = 1 ∧ e.st ≠ .inDoubt then do
      sendAbandon p
      escSend p origin msgAnswer ansDiscarded e.step 0
      discardStep p
    else escSend p origin msgAnswer ansWait e.step 0
  | 6 =>
    if e.self = 0 ∧ e.st = .releasing ∧ origin = 1 ∧ answer = ansDiscarded then do
      sendAbandon p
      discardStep p
    else onlyIf (e.st == .passed) do
      if answer = ansFlipped then flip p
      else if answer = ansDiscarded then discardStep p
      else onlyIf (answer == ansWait) (updEsc p fun x => { x with
        asked := false
        resolv := false })
  | _ => pure ()

/-- RESOLVE at the deputy for a step that is not open (R267): FLIPPED when its record has the step committed; in any other state the step is
discarded, in the record too, and every participant is told. -/
def resolveClosed (p : PartId) (step origin : Nat) : Act Unit := do
  let d ← look
  if escResult (escOf d p) step = 1 then escSend p origin msgAnswer ansFlipped step 0
  else do
    onlyIf (escResult (escOf d p) step == 0) do
      updEsc p fun e => e.record step 2
      writeRecord p
    escSend p origin msgAnswer ansDiscarded step 0
    sendAbandonFor p step

/-- An escapement message of a type is taken from its ring (R261). A message of another job is dropped; one of a later step waits for its
OPEN, but a QUERY is answered WAIT and the deputy settles a RESOLVE; one of an earlier step is answered from the record; a deputy that has
discarded a step answers its RELEASE before it frees the ring slot (R263). GATHER_RECEIVED also drops messages of reserved
types. -/
def doEscMessage (type : Nat) (p : PartId) (src : MsgSrc) : Act Unit := do
  match ← takeMsg p [3] src with
  | none => pure ()
  | some msg => do
    let t := fieldAt msg 0 1
    if t ≠ type ∧ ¬ (type = 1 ∧ (t = 0 ∨ (6 < t ∧ t ≠ 0x14))) then pure ()
    else do
      let d ← look
      let y := partOf d p
      let e := escOf d p
      let origin := fieldAt msg 2 2
      let step := fieldAt msg 8 8
      if msg.length ≠ 64 ∨ t ≠ type ∨ !y.running ∨ fieldAt msg 4 4 ≠ y.job then dropMsg src
      else
        let refused := t = msgRelease ∧ e.self = 1 ∧ escResult e step = 2 ∧ y.step.map (·.num) ≠ some step
        if refused then do
          escSend p origin msgAnswer ansDiscarded step 0
          dropMsg src
        else if stepAhead y step then
          if t = msgQuery then do
            dropMsg src
            escSend p origin msgAnswer ansWait step 0
          else onlyIf (t == msgResolve && e.self == 1) do
            dropMsg src
            resolveClosed p step origin
        else do
          dropMsg src
          if y.step.map (·.num) = some step then escCurrent p t (fieldAt msg 1 1) origin (fieldAt msg 0x10 8) (fieldAt msg 0x18 2)
          else if t = msgResolve ∧ e.self = 1 then resolveClosed p step origin
          else onlyIf (t == msgQuery || t == msgResolve) (escSend p origin msgAnswer (answerOf (escResult e step)) step 0)

/-- GATHER_RECEIVED, RELEASE_RECEIVED, ABANDON_RECEIVED, QUERY_RECEIVED, RESOLVE_RECEIVED and ANSWER_RECEIVED (R263, R265, R267). -/
def doGather : PartId → MsgSrc → Act Unit := doEscMessage msgGather
def doRelease : PartId → MsgSrc → Act Unit := doEscMessage msgRelease
def doAbandon : PartId → MsgSrc → Act Unit := doEscMessage msgAbandon
def doQuery : PartId → MsgSrc → Act Unit := doEscMessage msgQuery
def doResolve : PartId → MsgSrc → Act Unit := doEscMessage msgResolve
def doAnswer : PartId → MsgSrc → Act Unit := doEscMessage msgAnswer

/-- RERUN_REQ_ARRIVAL (R213): held until a re-run dispatch of its round answers it. A request of a step that is CLOSED is refused: the requester
is told by an ABANDON of that step over the request's channel, which discards its step and with it aborts the twin (log entry 124). -/
def doRerunReq (p : PartId) (src : MsgSrc) : Act Unit := do
  match ← takeMsg p [3] src with
  | none => pure ()
  | some msg => do
    let d ← look
    onlyIf (fieldAt msg 0 1 == 0x14 && decide (64 ≤ msg.length)) do
      match stepRule d p msg with
      | some .wait => pure ()
      | some _ => do
        count .XCH_RX_DROP 0 1
        onlyIf ((partOf d p).running && fieldAt msg 4 4 == (partOf d p).job) (onSome (openChan d p (srcHandle d src)) fun ic =>
          queueJob ic.1 (.engine p 1) [⟨.bytes (escBytes (escOf d p) msgAbandon 0 (fieldAt msg 8 8) 0), true⟩])
        dropMsg src
      | none => do
        let b := barrelOf d p
        setBarrel p { b with reruns := b.reruns ++ [⟨fieldAt msg 0x10 2, fieldAt msg 0x12 2, fieldAt msg 0x14 4, srcHandle d src⟩] }
        dropMsg src

/-- Whether the deputy's channel holds messages that the leader has still to take: an ANSWER DISCARDED may be among them. -/
def deputySpeaks (d : Dev) (p : PartId) : Bool :=
  ((((escOf d p).table[1]?).bind (openChan d p)).map fun ic => decide (ic.2.freed < ic.2.landed)).getD false

/-- The deputy has accepted the leader's RELEASE: its engine has taken it and has not answered DISCARDED. The commit point has passed
(R263 steps 4 and 5; log entry 126). -/
def escCommit (p : PartId) : Act Unit := do
  let d ← look
  let e := escOf d p
  onlyIf (e.st == .releasing && !e.relLost && !ownerBusy d (.engine p 2) && !deputySpeaks d p) do
    each ((List.range e.table.length).drop 2) fun i => escSend p i msgRelease 0 e.step 0
    flip p

/-- STEP_TIMER_EXPIRY (R266): before passing, and at a leader before the commit point, the partition abandons. -/
def doStepTimer (p : PartId) : Act Unit := do
  let d ← look
  let e := escOf d p
  onlyIf ((partOf d p).step.isSome && !(partOf d p).serving && (e.st == .running || e.st == .releasing)) do
    count .ESC_TIMEOUTS p.val 1
    abandonStep p

/-- DOUBT_TIMER_EXPIRY (R266): a non-leader that has passed asks the leader. -/
def doDoubtTimer (p : PartId) : Act Unit := do
  let d ← look
  let e := escOf d p
  onlyIf (e.st == .passed && e.self != 0 && !e.asked) do
    updEsc p fun x => { x with asked := true }
    count .ESC_QUERIES p.val 1
    escSend p 0 msgQuery 0 e.step 0

/-- QUERY_TIMEOUT (R267): the leader has not answered; the deputy resolves itself, another participant asks the deputy. -/
def doQueryTimeout (p : PartId) : Act Unit := do
  let d ← look
  let e := escOf d p
  onlyIf (e.st == .passed && e.asked && !e.resolv) do
    orReg .ESC_STATUS p.val 0 0x40
    if e.self = 1 then abandonStep p
    else do
      updEsc p fun x => { x with resolv := true }
      count .ESC_QUERIES p.val 1
      escSend p 1 msgResolve 0 e.step 0

/-- RESOLVE_TIMEOUT (R268): neither leader nor deputy answers; the partition is IN_DOUBT. -/
def doResolveTimeout (p : PartId) : Act Unit := do
  let d ← look
  let e := escOf d p
  onlyIf (e.st == .passed && e.resolv) do
    orReg .ESC_STATUS p.val 0 0x80
    escTo p .inDoubt

/-- Whether every owned shard has a bank with a state and a generation. -/
def everyBank (d : Dev) (p : PartId) (b state gen : Nat) : Bool :=
  (escOf d p).shards.all fun s => ((bankHeader d p s b).map fun h => headState h == state && fieldAt h 0 8 == gen).getD false

/-- The flip of a partition without an open step (R264, R272): its outcome is that of the step which wrote the first next bank. -/
def flipClosed (p : PartId) (a : Nat) : Act Unit := do
  let d ← look
  let head := ((escOf d p).shards[0]?).bind fun s => bankHeader d p s a
  updEsc p fun e => { e with step := (head.map fun h => fieldAt h 8 8).getD e.step }
  escTo p .flipping
  flipBanks p
  updEsc p fun e => { e with gen := a }
  escOutcome p 1

/-- The generation-align command (R272): its admin status. -/
def alignEsc (p : PartId) (a : Nat) : Act Nat := do
  let d ← look
  let doubt := (escOf d p).st == .inDoubt
  if (partOf d p).step.isSome ∧ ¬ doubt then pure 3
  else do
    onlyIf (!doubt) do
      let shards ← readTable p (regOf d .UPD_SHARD_HI p.val * 2 ^ 32 + regOf d .UPD_SHARD_LO p.val) (regOf d .UPD_SHARD_COUNT p.val % 2 ^ 17) 0
      updEsc p fun e => { e with shards := shards.filterMap fun r => r.map shardOf }
    let d ← look
    let gen := (escOf d p).gen
    let ok (m : Act Unit) : Act Nat := do
      m
      count .ESC_ALIGNS p.val 1
      writeRecord p
      pure 0
    if a = gen then ok (if doubt then discardStep p else pure ())
    else if a = gen + 1 ∧ everyBank d p a 2 a then
      ok (if doubt then flip p else flipClosed p a)
    else if a + 1 = gen ∧ everyBank d p a 5 a then
      ok (do
        each (escOf d p).shards fun s => do
          putHeader p s a (withHeadState 3)
          putHeader p s gen (withHeadState 4)
        updEsc p fun e => { e with gen := a }
        onlyIf doubt do
          escOutcome p 2
          closeStep p 1)
    else if (escOf d p).fresh ∧ everyBank d p a 3 a then ok (updEsc p fun e => { e with gen := a })
    else pure 1

end Sys2Proof.Machine
end

