-- ==== Sys2Proof/Machine/Sched.lean ====
section
/-! DEFINITION. The step builder's lists and the die schedulers (file 14): readiness (R392, R210, R252), promotion (R217), placement
(R393–R398, R103), pre-emption (R399–R401), and what the end of a task brings (R195, R428, R504). -/

namespace Sys2Proof.Machine

/-- Whether a partition is in serving mode's arithmetic of identifiers: the task of an item (R409). -/
def taskIn (item id : Nat) : Nat := item * 2 ^ 32 + id

/-- Whether the plan names a task as the consumer or the twin of a group (R210). -/
def planNames (d : Dev) (p : PartId) (id : Nat) : Bool :=
  (barrelOf d p).active && (barrelOf d p).ents.any fun e => e.consumer == id || e.twin == id

/-- Whether the slice table names a task as an update task (R252). -/
def sliceNames (d : Dev) (p : PartId) (id : Nat) : Bool := (escOf d p).slices.any fun (s : Slice) => s.elems != 0 && s.task == id

/-- Whether every task of a dependency list has completed (R392). -/
def depsDone (d : Dev) (p : PartId) (t : Task) : Bool := t.deps.all fun x => ((taskOf d p x).map fun y => y.st == .done).getD false

/-- The code of a step state, in the order of R14. -/
def StepSt.code : StepSt → Nat
  | .opened => 1 | .forward => 2 | .backward => 3 | .drain => 4 | .commit => 5

/-- Whether a partition's step has entered DRAIN (R14). -/
def drained (d : Dev) (p : PartId) : Bool := ((partOf d p).step.map fun s => decide (4 ≤ s.st.code)).getD false

/-- Whether a task of a block has been placed, so that its deferred slices are promoted (R217). A task that is not deferred is one of the
block that its due field names. -/
def blockBegun (d : Dev) (p : PartId) (b : Nat) : Bool :=
  b != 0xFFFF && (tasksOf d p).any fun t => !t.deferred && t.due == b && t.begun

/-- Tasks enter the tail of the lists of their queues (R392). -/
def enlist (p : PartId) (tids : List Nat) : Act Unit := do
  let d ← look
  let crit := tids.filter fun i => ((taskOf d p i).map (·.crit)).getD false
  each tids fun i => updTask p i fun t => { t with st := .ready }
  updRun p fun r => { r with
    crit := r.crit ++ crit
    defer := r.defer ++ tids.filter fun i => !crit.contains i }

/-- A task leaves the lists. -/
def delist (p : PartId) (tid : Nat) : Act Unit := updRun p fun r => { r with
  crit := r.crit.filter (· ≠ tid)
  defer := r.defer.filter (· ≠ tid) }

/-- Deferred tasks of a step are promoted (R217): from the deferred list to the tail of the critical list; on their slots they count as
critical. -/
def promote (p : PartId) (pick : Task → Bool) : Act Unit := do
  let d ← look
  let ts := (tasksOf d p).filter fun t => !t.crit && !t.over && pick t
  let ids := ts.map (·.tid)
  each ts fun t => do
    updTask p t.tid fun x => { x with crit := true }
    onSome t.core fun ck => onlyIf (t.st == .placed) (emit (.slot ck.1 ck.2 { slotOf d ck.1 ck.2 with crit := true }))
  onlyIf (!ids.isEmpty) (updRun p fun r => { r with
    crit := r.crit ++ r.defer.filter (ids.contains ·)
    defer := r.defer.filter fun i => !ids.contains i })

/-- Whether the cause for which a task is suspended has passed (R401, R411). -/
def causePassed (d : Dev) (p : PartId) : Option SuspCause → Bool
  | none => true
  | some .command => !(partOf d p).susp
  | some (.eviction w) => d.wins.any fun x => x.id == w && x.part == p && x.st == .granted
  | some (.priority q tid) => ((taskOf d q tid).map fun t => t.st != .ready && t.st != .placed).getD true

/-- Tasks that have become ready enter their lists, the lower identifier first (R392), and suspended tasks whose cause has passed (R401).
Tasks that the plan or the slice table names and on-demand tasks wait for their own conditions (R210, R252, R425). -/
def evalTasks (p : PartId) : Act Unit := do
  let d ← look
  onSome (partOf d p).step fun s => do
    let ts := tasksOf d p
    let fresh := ts.filter fun t => t.st == .waiting && t.more == 0 && inStep s t && depsDone d p t && !t.onDemand &&
      !planNames d p t.id && !sliceNames d p t.id
    each fresh fun t => onlyIf (drained d p || blockBegun d p t.due) (updTask p t.tid fun x => { x with crit := true })
    enlist p ((fresh.map (·.tid)).mergeSort fun a b => a ≤ b)
    enlist p ((ts.filter fun t => t.st == .suspended && t.image.isSome && causePassed d p t.cause).map (·.tid))

/-- UPDATE_TASK_PLACEMENT (R252): the update task of a FULL slice goes to its queue, for the slice's home core; a task that was aborted is
placed again (R270). -/
def doUpdatePlacement (p : PartId) (i : Nat) : Act Unit := do
  let d ← look
  onSome ((escOf d p).slices[i]?) fun s =>
    onSome (taskOf d p s.task) fun t =>
      onlyIf (s.st == .full && (partOf d p).step.isSome && (t.st == .waiting || (t.st == .failed && t.endst.isNone)) && t.more == 0 && depsDone d p t) do
        updTask p t.tid fun x => { x with
          crit := drained d p || blockBegun d p t.due
          core := none
          image := none
          slice := some i }
        enlist p [t.tid]

/-- BARREL_GROUP_PLACEMENT (R210): the group's consumer, once every entry of its groups is settled; the twin in its place when one is
ABSENT, whether the consumer's descriptor has not been fetched yet or the consumer was aborted (R208). -/
def doGroupPlacement (p : PartId) (group : Nat) : Act Unit := do
  let d ← look
  let cons := ((groupEnts d p group).map (·.consumer)).dedup
  onlyIf ((barrelOf d p).active && (partOf d p).step.isSome) (each cons fun c => do
    let mine := (barrelOf d p).ents.filter fun e => e.consumer == c
    let t := taskOf d p c
    onlyIf ((t.map fun x => x.st == .waiting || (x.st == .failed && x.endst.isNone)).getD true && mine.all fun e => e.st == .held || e.st == .spilled || e.st == .absent) do
      let lost := ((mine.filter fun e => e.st == .absent).map (·.group)).dedup
      if lost.isEmpty then onSome t fun x => onlyIf (x.st == .waiting && x.more == 0 && depsDone d p x) (enlist p [c])
      else
        let twins := ((mine.filter fun e => lost.contains e.group).map (·.twin)).dedup
        each twins fun w => onSome (taskOf d p w) fun y =>
          onlyIf (y.st == .waiting && y.more == 0 && depsDone d p y) do
            updTask p w fun x => { x with crit := true }
            enlist p [w]
            count .BARL_TWIN_COUNT p.val 1)

/-- The regeneration task of a block (R195): the first on-demand backward task of that block which the plan does not name as a twin. -/
def regenTask (d : Dev) (p : PartId) (b : Nat) : Option Task :=
  (tasksOf d p).find? fun t => t.onDemand && t.backward && t.due == b && b != 0xFFFF && !planNames d p t.id

/-- The regeneration task of a block, while it has not been placed. -/
def regenOf (d : Dev) (p : PartId) (b : Nat) : Option Task := (regenTask d p b).filter fun t => t.st == .waiting && t.more == 0

/-- The block of a layer in a micro-batch: that of the tasks which the plan names for its entries (R196, R217). -/
def layerBlock (d : Dev) (p : PartId) (mb layer : Nat) : Option Nat :=
  (((barrelOf d p).ents.filter fun e => e.mb == mb && e.layer == layer).filterMap fun e =>
    ((taskOf d p e.consumer).orElse fun _ => taskOf d p e.twin).map (·.due)).find? (· != 0xFFFF)

/-- Whether the backward tasks of a block have all completed (R193, R213). -/
def blockEnded (d : Dev) (p : PartId) (b : Nat) : Bool :=
  let ts := (tasksOf d p).filter fun t => t.backward && !t.deferred && !t.onDemand && t.due == b
  !ts.isEmpty && ts.all fun t => t.st == .done && t.endst.isNone

/-- The responder of a re-run request (R213): none before the recompute of the layer's block has begun; in the block an on-demand task of it,
besides its regeneration task, that its dependencies let run; else, and always after the block's backward, an on-demand task without a due
block. A layer whose block the plan does not show is taken as behind once the step has entered DRAIN (log entry 130). -/
def responderOf (d : Dev) (p : PartId) (mb layer : Nat) : Option Task :=
  let free (t : Task) : Bool := t.onDemand && t.st == .waiting && t.mb == mb && t.more == 0 && !planNames d p t.id && depsDone d p t
  let general := (tasksOf d p).find? fun t => free t && t.due == 0xFFFF
  match layerBlock d p mb layer with
  | none => if drained d p then general else none
  | some b =>
    if blockEnded d p b then general
    else if !blockBegun d p b then none
    else ((tasksOf d p).find? fun t => free t && t.due == b && (regenTask d p b).map (·.tid) != some t.tid).orElse fun _ => general

/-- Responders of held re-run requests go to the head of the critical list (R213). -/
def answerReruns (p : PartId) : Act Unit := do
  let d ← look
  each ((barrelOf d p).reruns.map fun q => (q.mb, q.layer)).dedup fun q => do
    let d ← look
    onSome (responderOf d p q.1 q.2) fun t => do
      updTask p t.tid fun x => { x with
        crit := true
        st := .ready }
      updRun p fun r => { r with crit := t.tid :: r.crit }

/-! Placement. -/

/-- The header of a command list (R103): bytes of commands, window slots and bank maps. -/
structure TaskHeader where
  bytes : Nat
  slots : Nat
  maps  : BankMaps
  deriving DecidableEq, Repr

/-- A task header's fields. -/
def headerOf (bs : List Byte) : TaskHeader :=
  ⟨fieldAt bs 0 4, fieldAt bs 4 1, ⟨fieldAt bs 0x10 4, fieldAt bs 0x14 4, fieldAt bs 0x18 4, fieldAt bs 0x1C 4⟩⟩

/-- The free slots of a core (R90). -/
def freeSlots (d : Dev) (c : CoreId) : List SlotId := allSlots.filter fun k => (slotOf d c k).st == .free

/-- Whether a partition's mask holds a core (R413). -/
def inMask (d : Dev) (p : PartId) (c : CoreId) : Bool := bitOf (regOf d .SCHED_CORE_MASK p.val (c.val / 32)) (c.val % 32)

/-- A partition's priority and reserve (R412). -/
def prioOf (d : Dev) (p : PartId) : Nat := bitsOf (regOf d .SCHED_PART_CTRL p.val) 5 4
def reserveOf (d : Dev) (p : PartId) : Nat := bitsOf (regOf d .SCHED_PART_CTRL p.val) 10 8

/-- Whether a deferred task leaves a core its reserve (R398). -/
def reserveOk (d : Dev) (p : PartId) (t : Task) (c : CoreId) : Bool :=
  t.crit || decide (reserveOf d p ≤ (freeSlots d c).length - 1 +
    (allSlots.filter fun k => (slotOf d c k).st != .free && (slotOf d c k).crit).length)

/-- Tasks that use the thread-slot quota: placed and suspended (R405, R401). -/
def slotUse (d : Dev) (p : PartId) : Nat := ((tasksOf d p).filter fun t => t.st == .placed || t.image.isSome).length

/-- The arena of a partition on a core (R395). -/
def arenaOn (d : Dev) (p : PartId) (c : CoreId) : Option Window := d.wins.find? fun w => w.arena && w.part == p && w.core == c && w.st == .granted

/-- The lowest run of `n` free scratchpad slots in an arena of a core (R395); a run that streams in cancel still land in is not free
(R172). -/
def arenaFit (d : Dev) (p : PartId) (c : CoreId) (size n : Nat) : Option Nat :=
  let mine (a : Option (CoreId × Nat × Nat)) : Option (Nat × Nat) := a.bind fun (c', s, k) => if c' = c then some (s, k) else none
  let used := (tasksOf d p).filterMap (fun t => mine t.arena) ++ d.streams.filterMap (fun y => if y.2.part = p then mine y.2.arena else none)
  (List.range (size + 1 - n)).find? fun s => !(used.any fun (s', k) => decide (s < s' + k) && decide (s' < s + n))

/-- Where a task may go: core, base and size of its scratchpad range, and the run it takes of the arena. -/
structure Place where
  core : CoreId
  base : Nat
  size : Nat
  run  : Option Nat
  deriving DecidableEq, Repr

/-- Whether a core can take a task as far as its scratchpad goes (R394, R395): where. -/
def fitOn (d : Dev) (p : PartId) (t : Task) (c : CoreId) : Option Place :=
  if t.win ≠ 0 then (d.wins.find? fun w => w.id == t.win && w.part == p && w.st == .granted && w.core == c).map fun w => ⟨c, w.base, w.size, none⟩
  else
    (arenaOn d p c).bind fun w =>
      match t.arena with
      | some (_, s, n) => some ⟨c, w.base + s, n, none⟩
      | none => (arenaFit d p c w.size t.slots).map fun s => ⟨c, w.base + s, t.slots, some s⟩

/-- The cores that a task may use (R394, R395, R401, R252): the one it is pinned to or suspended on, its slice's home core, or those of the
mask. -/
def coresFor (d : Dev) (p : PartId) (t : Task) : List CoreId :=
  if t.win ≠ 0 then (d.wins.filter fun w => w.id == t.win && w.part == p).map (·.core)
  else
    match t.arena, t.slice.bind fun i => (escOf d p).slices[i]? with
    | some (c, _, _), _ => [c]
    | none, some s => [Fin.ofNat 800 s.core]
    | none, none => allCores.filter (inMask d p)

/-- Whether a task is pinned (R394). -/
def Task.pinned (t : Task) : Bool := t.win != 0 || t.image.isSome

/-- The cores that could take a task if a thread slot were free there. -/
def fits (d : Dev) (p : PartId) (t : Task) : List Place :=
  ((coresFor d p t).filter fun c => !d.retired.contains c.val).filterMap (fitOn d p t)

/-- The core that takes a task: the lowest that R395, R397, R398 and the quota allow (R405). -/
def whereTo (d : Dev) (p : PartId) (t : Task) : Option Place :=
  if t.image.isNone ∧ bitsOf (regOf d .SCHED_QUOTA_SLOTS p.val) 15 0 ≤ slotUse d p then none
  else (fits d p t).find? fun w => !(freeSlots d w.core).isEmpty && reserveOk d p t w.core

/-- A core's domain is asked to wake for a placement, a grant or an access (R480, R481); a clock-gated core restarts (R479). -/
def wakeCore (c : CoreId) : Act Unit := do
  let d ← look
  let i := c.val / 25
  onlyIf (domOf d i != .on && !d.pwr.wakeQ.contains i) (emit (.pwr { d.pwr with wakeQ := setIns d.pwr.wakeQ i }))
  let d ← look
  onlyIf (d.pwr.gated.contains c.val) (emit (.pwr { d.pwr with gated := d.pwr.gated.filter (· ≠ c.val) }))

/-- The number of the next placement of the module, by which the turn of R397 and the order of R399 go. -/
def nextTurn (d : Dev) : Nat := d.runs.foldl (fun n r => max n r.2.turn) 0 + 1

/-- A task refused at its placement, or at its fetch, for its header (R103, R395): a contained error (R502). -/
def headerFault (p : PartId) (tid status detail : Nat) : Act Unit := do
  delist p tid
  contained (some p)
  endTask p tid status detail

/-- A suspended task restored into a slot (R91): its registers, array records and stopped commands come back. -/
def restoreImage (c : CoreId) (k : SlotId) (im : Image) : Act Unit := do
  let d ← look
  emit (.write (.vreg c k) 0 (memGetN im.vregs 0 8192))
  emit (.arr c { arrOf d c with recs := tabPut (arrOf d c).recs k im.recs })
  let mine := im.slot.resume.map fun (q : Queued) => { q with slot := k }
  emit (.vec c { vecOf d c with q := (mine.filter fun q => q.cmd % 256 != 0x81) ++ (vecOf d c).q })
  emit (.lathe c { latheOf d c with q := (mine.filter fun q => q.cmd % 256 == 0x81) ++ (latheOf d c).q })

/-- What placement brings besides the slot: the task's record, the counts, the wake of the core's domain, the slice's state (R246), and the
promotion of the slices due with its block (R217). -/
def placed (p : PartId) (t : Task) (w : Place) (k : SlotId) : Act Unit := do
  let d ← look
  let n := nextTurn d
  onSome w.run fun _ => grant 3 w.size
  updTask p t.tid fun x => { x with
    st := .placed
    core := some (w.core, k)
    image := none
    cause := none
    stamp := n
    arena := (match w.run with
      | some s => some (w.core, s, w.size)
      | none => x.arena) }
  delist p t.tid
  updRun p fun r => { r with turn := n }
  count .SCHED_PLACED p.val 1
  wakeCore w.core
  onSome t.slice fun i => onSome ((escOf d p).slices[i]?) fun s => setSlice p i { s with st := .updating }
  onlyIf (!t.deferred && t.due != 0xFFFF) (promote p fun x => x.due == t.due)

/-- A task placed on a core (R90, R103, R105, R121, R401): the lowest free slot becomes PLACED; a resumed task's context region returns. -/
def placeTask (p : PartId) (t : Task) (w : Place) : Act Unit := do
  let d ← look
  onSome (freeSlots d w.core).head? fun k => do
    let x := slotOf d w.core k
    match t.image with
    | some im => do
      emit (.drop (.vreg w.core k))
      emit (.slot w.core k { im.slot with
        st := .placed
        epoch := x.epoch + 1
        base := w.base
        crit := t.crit
        resume := [] })
      restoreImage w.core k im
      giveBack 9 1
      updPart p fun y => { y with ctxUsed := y.ctxUsed.filter (· ≠ im.region) }
      placed p t w k
      resumeReleases w.core p t.tid
    | none =>
      match ← vaRead (envOf d p) p {} t.cmd 64 with
      | .error (code, addr) => do
        strmFault w.core k 0 3 code addr
        headerFault p t.tid 0x15 code
      | .ok (bs, bad) =>
        let h := headerOf bs
        if !bad.isEmpty then headerFault p t.tid 0x18 0
        else if h.slots = 0 ∨ h.bytes % 8 ≠ 0 ∨ w.size < h.slots then headerFault p t.tid 0x10 0
        else do
          emit (.drop (.vreg w.core k))
          emit (.slot w.core k { Slot.empty with
            st := .placed
            epoch := x.epoch + 1
            part := p
            tid := t.tid
            base := w.base
            size := w.size
            list := t.cmd
            bytes := h.bytes
            maps := h.maps
            seed := t.seed
            crit := t.crit })
          placed p t w k

/-- A ready task of a partition that may be placed, with its rank under R397: pinned first, then priority, turn, queue and order. -/
structure Cand where
  p    : PartId
  t    : Task
  rank : Nat
  deriving DecidableEq, Repr

/-- The ready tasks of the partitions that run a job and are not suspended, in the order of R397. -/
def candidates (d : Dev) : List Cand :=
  let last := (d.runs.foldl (fun (b : Nat × PartId) r => if b.1 < r.2.turn then (r.2.turn, r.1) else b) (0, 15)).2
  let of (p : PartId) : List Cand :=
    let r := runOf d p
    let rank (t : Task) (defer pos : Nat) : Nat :=
      b2n (!t.pinned) * 2 ^ 48 + (3 - prioOf d p) * 2 ^ 44 + (p.val + 15 - last.val) % 16 * 2 ^ 40 + defer * 2 ^ 36 + pos
    let mk (defer : Nat) (l : List Nat) : List Cand :=
      ((List.range l.length).zip l).filterMap fun (i, tid) => (taskOf d p tid).map fun t => ⟨p, t, rank t defer i⟩
    mk 0 r.crit ++ mk 1 r.defer
  ((allParts.filter fun p => (partOf d p).running && !(partOf d p).susp).flatMap of).mergeSort fun a b => a.rank ≤ b.rank

/-- Pre-emption reaches a slot (R91, R399): commands that wait in the stream and exchange engines are withdrawn too (R400). -/
def preemptSlot (c : CoreId) (k : SlotId) (cause : SuspCause) : Act Unit := do
  let d ← look
  let x := slotOf d c k
  onlyIf (x.st == .placed || x.st == .ready || x.st == .waiting) do
    let sends ← withdrawSends x.part x.tid
    let xchs ← withdrawXch x.part x.tid
    preempt c k cause (sends ++ xchs)

/-- The slot that pre-emption takes on a core for a task (R399): of a partition of lower priority, the lowest first, then deferred before
critical, then the latest placed; for a pinned task on a full core, the latest deferred task of its own partition. -/
def victimOn (d : Dev) (p : PartId) (t : Task) (c : CoreId) : Option SlotId :=
  let live := allSlots.filter fun k => (slotOf d c k).st == .placed || (slotOf d c k).st == .ready || (slotOf d c k).st == .waiting
  let stamp (k : SlotId) : Nat := ((taskOf d (slotOf d c k).part (slotOf d c k).tid).map (·.stamp)).getD 0
  let key (k : SlotId) : Option Nat :=
    let x := slotOf d c k
    if prioOf d x.part < prioOf d p then some (prioOf d x.part * 2 ^ 66 + b2n x.crit * 2 ^ 65 + (2 ^ 64 - 1 - stamp k))
    else if t.pinned ∧ x.part = p ∧ !x.crit ∧ (freeSlots d c).isEmpty then some (2 ^ 70 + (2 ^ 64 - 1 - stamp k))
    else none
  (live.filterMap fun k => (key k).map fun n => (n, k)).foldl (fun (b : Option (Nat × SlotId)) nk =>
    match b with
    | none => some nk
    | some y => if nk.1 < y.1 then some nk else some y) none |>.map (·.2)

/-- Whether a slot is already being saved for a task. -/
def savingFor (d : Dev) (p : PartId) (tid : Nat) : Bool :=
  d.slots.any fun x => x.2.st == .saving && ((taskOf d x.2.part x.2.tid).map fun v => v.cause == some (.priority p tid)).getD false

/-- The slot that pre-emption takes for a ready critical task which finds no slot (R399). -/
def victimFor (d : Dev) (p : PartId) (t : Task) : Option (CoreId × SlotId) :=
  let cs := fits d p t
  if !t.crit ∨ savingFor d p t.tid ∨ cs.any (fun w => !(freeSlots d w.core).isEmpty) then none
  else cs.findSome? fun w => (victimOn d p t w.core).map fun k => (w.core, k)

/-- TASK_PLACEMENT (R393–R399): a die scheduler places the first ready task whose core is its own, or pre-empts for one that finds no
slot. -/
def doPlacement (die : DieId) : Act Unit := do
  let d ← look
  let cs := candidates d
  match cs.findSome? fun c => (whereTo d c.p c.t).bind fun w => if dieOf w.core = die then some (c, w) else none with
  | some (c, w) => placeTask c.p c.t w
  | none => onSome (cs.findSome? fun c => (victimFor d c.p c.t).bind fun v => if dieOf v.1 = die then some (c, v) else none) fun (c, v) =>
      preemptSlot v.1 v.2 (.priority c.p c.t.tid)

/-! The end of a task. -/

/-- The barrel entry, HELD or SPILLED, that held the poison which a task read (R504). -/
def poisonedEnts (d : Dev) (p : PartId) (hurt : Option Nat) : List Nat :=
  match hurt.bind (entAt d p) with
  | some (i, e) => if e.st = .held ∨ e.st = .spilled then [i] else []
  | none => []

/-- Whether an address lies in the checkpoint region, as far as the module can tell: in a compressed page of tier 1 that is no bank of a shard
(R192; log entry 129). -/
def inCheckpoint (d : Dev) (p : PartId) (va : Nat) : Bool :=
  match (walk d p va).1 with
  | some (e, _) => bitsOf e 62 60 == 1 && bitOf e 57 && !inOwnBank d p va
  | none => false

/-- A task to be placed again, after another. -/
def againAfter (p : PartId) (tid : Nat) (after : List Nat) : Act Unit := updTask p tid fun t => { t with
  st := .waiting
  core := none
  hurt := none
  deps := t.deps ++ after }

/-- What a task that consumed poison brings, by where the poison lay (R195, R504, R506); a regeneration discards the step wherever it lay. -/
def poisonAbort (p : PartId) (t : Task) : Act Unit := do
  let d ← look
  match t.slice with
  | some i => sliceAborted p i (some t.hurt)
  | none =>
    let es := poisonedEnts d p t.hurt
    if (regenTask d p t.due).map (·.tid) = some t.tid then abandonStep p
    else if !es.isEmpty then do
      each es fun i => do
        releaseEnt p i .absent
        count .BARL_ABSENT_COUNT p.val 1
        orReg .BARL_STATUS p.val 0 4
      againAfter p t.tid []
    else
      let reload := t.backward && !t.deferred && (t.hurt.map fun va => inCheckpoint d p va).getD false
      match (partOf d p).step, (if reload then regenOf d p t.due else none) with
      | some s, some g =>
        if s.regens = 0 then do
          updPart p fun y => { y with step := some { s with regens := 1 } }
          count .BARL_REGEN_COUNT p.val 1
          updTask p g.tid fun x => { x with crit := true }
          enlist p [g.tid]
          againAfter p t.tid [g.tid]
        else abandonStep p
      | _, _ => abandonStep p

/-- A twin that has ended stands for its group's consumer, which was never placed or was aborted (R208, R210). -/
def twinEnded (p : PartId) (id : Nat) : Act Unit := do
  let d ← look
  onlyIf (barrelOf d p).active (each (((barrelOf d p).ents.filter fun e => e.twin == id).map (·.consumer)).dedup fun c =>
    onSome (taskOf d p c) fun t => onlyIf ((t.st == .waiting || (t.st == .failed && t.endst.isNone)) && c != id)
      (updTask p c fun x => { x with st := .done }))

/-- Ended tasks are taken up by the step builder (R392, R428). An update task whose working copy holds poison is aborted in place of its refresh
(R252, R501). -/
def takeEnds (p : PartId) : Act Unit := do
  let d ← look
  each ((tasksOf d p).filter fun t => t.endst.isSome) fun t => onSome t.endst fun (status, detail) => do
    delist p t.tid
    let hurt := status = 0 ∧ (t.slice.map fun i => refreshPoisoned d p i) = some true
    let status := if hurt then 0x18 else status
    onlyIf hurt (updTask p t.tid fun x => { x with st := .failed })
    retireTask p t status detail
    if status = 0 then do
      onSome t.slice (sliceDone p)
      twinEnded p t.id
    else if (partOf d p).serving then do
      let d ← look
      each ((tasksOf d p).filter fun x => x.item == t.item && !x.over) fun x =>
        if x.begun then abortTask p x.tid 0x19 0
        else do
          delist p x.tid
          updTask p x.tid fun y => { y with st := .failed }
    else if hurt then onSome t.slice fun i => sliceAborted p i none
    else if status = 0x18 then poisonAbort p t
    else onSome t.slice fun i => sliceAborted p i none

/-! Serving items (R408–R410) and the states of a step (R14). -/

/-- Whether every descriptor of an item has been fetched. -/
def itemFetched (d : Dev) (p : PartId) (i : Item) : Bool := i.left == 0 && (tasksOf d p).all fun t => t.item != i.num || t.more == 0

/-- The ITEM entry (R428). -/
def postItem (p : PartId) (i : Item) (status : Nat) : Act Unit := do
  let d ← look
  post i.fn i.ring (entryBytes (i.seq % 2 ^ 32) 3 status 0 (stepNum d p % 2 ^ 32))

/-- Items whose last task has ended are posted and leave; a refused item leaves once its descriptors have gone by. -/
def itemsDone (p : PartId) : Act Unit := do
  let d ← look
  let taken := ((partOf d p).step.map (·.items)).getD []
  each (runOf d p).items fun i => do
    let mine := (tasksOf d p).filter fun t => t.item == i.num
    if i.bad ∧ itemFetched d p i then do
      each mine fun t => emit (.task p t.tid none)
      updRun p fun r => { r with items := r.items.filter fun (x : Item) => x.num != i.num }
      postItem p i 0x11
    else onlyIf (taken.contains i.num && mine.all Task.over && mine.all fun t => t.endst.isNone) do
      updRun p fun r => { r with items := r.items.filter fun (x : Item) => x.num != i.num }
      postItem p i (if mine.all fun t => t.st == .done then 0 else 0x19)

/-- Whether a task of a step can never run any more: it waits for one that has failed, is missing or cannot run either; `fuel` bounds the chain. -/
def stuck (d : Dev) (p : PartId) : Nat → Nat → Bool
  | 0, _ => true
  | fuel + 1, tid =>
    match taskOf d p tid with
    | none => true
    | some t => (t.st == .failed && t.endst.isNone) || (t.st == .waiting && t.deps.any (stuck d p fuel))

/-- Whether every shard that a partition owns has its next generation written (R14): every slice is DONE. Where it owns none, that is so once
none of its tasks can run any more (log entry 123). -/
def gensWritten (d : Dev) (p : PartId) : Bool :=
  let slices := (escOf d p).slices.filter fun (s : Slice) => s.elems != 0
  if slices.isEmpty then
    let ts := tasksOf d p
    ts.all fun t => t.over || (t.onDemand && t.st == .waiting) || stuck d p (ts.length + 1) t.tid
  else slices.all fun s => s.st == .done

/-- The step goes on to DRAIN once its last input-gradient task has completed, and to COMMIT once every shard has its next generation
written (R14); a serving step closes once its items have ended (R408). DESIGN CHOICE (log entry 114): a step without a backward task
enters DRAIN when its last critical task has completed, or at its STEP_END when it has none. -/
def stepStates (p : PartId) : Act Unit := do
  itemsDone p
  let d ← look
  let y := partOf d p
  onSome y.step fun s =>
    if y.serving then onlyIf (!((runOf d p).items.any fun (i : Item) => s.items.contains i.num)) (closeStep p 0)
    else do
      let ts := tasksOf d p
      let main := ts.filter fun t => !t.onDemand
      let grad := main.filter fun t => t.backward && !t.deferred && !sliceNames d p t.id
      let last := if grad.isEmpty then main.filter fun t => !t.deferred && !sliceNames d p t.id else grad
      onlyIf (s.ended && decide (s.st.code < 4) && last.all fun t => t.st == .done && t.endst.isNone) do
        updPart p fun y => { y with step := some { s with st := .drain } }
        promote p fun _ => true
      let d ← look
      onSome (partOf d p).step fun s =>
        onlyIf (s.st == .drain && gensWritten d p) (updPart p fun y => { y with step := some { s with st := .commit } })

/-- What the step builder does whenever something has happened in a partition (R392). -/
def builder (p : PartId) : Act Unit := do
  takeEnds p
  takeEnds p
  stepStates p
  evalTasks p
  answerReruns p

end Sys2Proof.Machine
end

