-- ==== Sys2Proof/Machine/WorkRings.lean ====
section
/-! DEFINITION. Work descriptors and the opening of steps (R15, R50, R143, R243, R285, R304, R315, R408–R410, R422–R427). -/

namespace Sys2Proof.Machine

/-! Fetching. -/

/-- Whether descriptors of a ring may be fetched now (R422, R423, R430, R438, R512). -/
def canFetch (d : Dev) (p : PartId) (f : FnId) (r : RingId) : Bool :=
  let x := fnOf d f
  let g := ringOf d f r
  x.st == .active && x.part == some p && bitOf (regOf d .HIF_WRING_CTRL f.val r.val) 8 && !g.stopped && !x.full && g.fetched != g.bell &&
    !fatal d && (partOf d p).running

/-- A descriptor fetched: its ring entry (R423). -/
def takeDesc (f : FnId) (r : RingId) : Act Nat := do
  let d ← look
  let g := ringOf d f r
  let i := g.fetched % 2 ^ bitsOf (regOf d .HIF_WRING_CTRL f.val r.val) 4 0
  emit (.out (.hostRead f (addrPair d .HIF_WRING_BASE_LO .HIF_WRING_BASE_HI f.val r.val + 64 * i) 64))
  setRing f r { g with fetched := (g.fetched + 1) % 2 ^ 32 }
  count .HIF_DESC_FETCHED f.val 1
  pure i

/-- A REFUSED completion (R427). -/
def refuseDesc (f : FnId) (r : RingId) (idx : Nat) : Act Unit := do
  post f r (entryBytes idx 4 0x11 0 0)
  count .HIF_REFUSED f.val 1

/-- Whether bytes `a` to `b - 1` of a descriptor are 0. -/
def zeroBytes (bs : List Byte) (a b : Nat) : Bool := ((bs.drop a).take (b - a)).all fun x => x == 0#8

/-- The task of a ring's group whose DEPS descriptors are still to come (R425). -/
def pendingTask (d : Dev) (p : PartId) (item : Nat) : Option Task := (tasksOf d p).find? fun t => t.item == item && t.more != 0

/-- Whether a TASK descriptor may be taken (R425–R427). -/
def taskOk (d : Dev) (p : PartId) (item : Nat) (bs : List Byte) : Bool :=
  let id := fieldAt bs 4 4
  let cmd := fieldAt bs 8 8
  let win := fieldAt bs 0x10 4
  let nd := fieldAt bs 2 1
  decide (fieldAt bs 1 1 < 16) && decide (nd ≤ 4) && decide (fieldAt bs 3 1 ≤ 4) && decide (1 ≤ id) && decide (id ≤ 0xFFFFFFFE) &&
    cmd % 64 == 0 && decide (cmd < 2 ^ 48) && zeroBytes bs 0x2C 0x40 && (taskOf d p (taskIn item id)).isNone && (pendingTask d p item).isNone &&
    ((List.range nd).all fun i => (taskOf d p (taskIn item (fieldAt bs (0x1C + 4 * i) 4))).isSome) &&
    (win == 0 || d.wins.any fun w => w.id == win && w.part == p && !w.arena)

/-- A TASK descriptor entered into the step's or the item's tasks (R392, R425); a task that its arena cannot hold is refused with a header
fault (R395). -/
def enterTask (p : PartId) (item : Nat) (f : FnId) (r : RingId) (bs : List Byte) : Act Unit := do
  let d ← look
  let cmd := fieldAt bs 8 8
  let head ← vaRead (envOf d p) p {} cmd 64
  let slots := match head with
    | .ok (h, _) => (headerOf h).slots
    | .error _ => 0
  let tid := taskIn item (fieldAt bs 4 4)
  let flags := fieldAt bs 1 1
  let win := fieldAt bs 0x10 4
  emit (.task p tid (some {
    tid := tid
    flags := flags
    deps := (List.range (fieldAt bs 2 1)).map fun i => taskIn item (fieldAt bs (0x1C + 4 * i) 4)
    cmd := cmd
    win := win
    due := fieldAt bs 0x14 2
    mb := fieldAt bs 0x16 2
    seed := fieldAt bs 0x18 4
    slots := slots
    st := .waiting
    crit := !bitOf flags 0
    started := false
    core := none
    arena := none
    fn := f
    ring := r
    stamp := 0
    image := none
    cause := none
    slice := none
    endst := none
    more := fieldAt bs 3 1
    hurt := none }))
  onlyIf (win == 0 && decide ((partOf d p).arena < slots)) (headerFault p tid 0x10 0)

/-- Whether a DEPS descriptor extends the TASK before it (R425, R426). -/
def depsOk (d : Dev) (p : PartId) (item : Nat) (bs : List Byte) : Bool :=
  match pendingTask d p item with
  | none => false
  | some t => zeroBytes bs 1 4 && fieldAt bs 4 4 == t.id &&
      (List.range 14).all fun i =>
        let x := fieldAt bs (8 + 4 * i) 4
        x == 0 || (x != t.id && (taskOf d p (taskIn item x)).isSome)

/-- A DEPS descriptor's dependencies added (R425); entries of 0 are unused. -/
def enterDeps (p : PartId) (item : Nat) (bs : List Byte) : Act Unit := do
  let d ← look
  onSome (pendingTask d p item) fun t => updTask p t.tid fun x => { x with
    deps := x.deps ++ (((List.range 14).map fun i => fieldAt bs (8 + 4 * i) 4).filter (· ≠ 0)).map (taskIn item)
    more := x.more - 1 }

/-! Training steps (R424, R427). -/

/-- Whether the histogram bank of a step has been released (R50). -/
def bankFree (d : Dev) (p : PartId) (num : Nat) : Bool := !((runOf d p).banks.any fun b => b % 2 == num % 2)

/-- The place of a ring in the order in which a partition takes its steps: by function and ring number, from the ring after the one that carried
the last step (R424). -/
def ringTurn (y : Part) (h : FnId × RingId) : Nat :=
  (8 * h.1.val + h.2.val + 127 - ((y.lastRing.map fun l => 8 * l.1.val + l.2.val).getD 127)) % 128

/-- Whether another ring whose STEP_BEGIN waits comes first (R424). -/
def ringBefore (d : Dev) (p : PartId) (h : FnId × RingId) : Bool :=
  (partOf d p).heads.any fun k => k != h && canFetch d p k.1 k.2 && decide (ringTurn (partOf d p) k < ringTurn (partOf d p) h)

/-- A STEP_BEGIN that waits at the head of its ring (R15, R424). -/
def stepWaits (p : PartId) (h : FnId × RingId) : Act Unit := updPart p fun y => { y with heads := if y.heads.contains h then y.heads else y.heads ++ [h] }

/-- A STEP_BEGIN outside a step (R15, R50, R424, R427): it waits in the ring for its turn and for its histogram bank; refused, its step is
skipped. -/
def trainBegin (p : PartId) (f : FnId) (r : RingId) (bs : List Byte) : Act Unit := do
  let d ← look
  let y := partOf d p
  let num := fieldAt bs 8 8
  let ok := zeroBytes bs 1 4 && zeroBytes bs 0x14 0x40 && fieldAt bs 4 4 == y.job && fieldAt bs 0x10 4 == y.chunk
  if ringBefore d p (f, r) || (ok && !bankFree d p num) then stepWaits p (f, r)
  else do
    let idx ← takeDesc f r
    updPart p fun y => { y with
      heads := y.heads.filter (· ≠ (f, r))
      lastRing := some (f, r)
      begin? := if ok then some ⟨f, r, num⟩ else none
      skip := if ok then y.skip else some (f, r) }
    onlyIf (!ok) (refuseDesc f r idx)

/-- A descriptor refused inside a step (R427): the step is abandoned, and the ring skipped to its STEP_END. -/
def refuseInStep (p : PartId) (f : FnId) (r : RingId) (type idx : Nat) : Act Unit := do
  refuseDesc f r idx
  abandonStep p
  updPart p fun y => { y with skip := if type = 3 then none else some (f, r) }

/-- A descriptor of a partition in training mode (R424–R427). -/
def trainDesc (p : PartId) (f : FnId) (r : RingId) (t : Nat) (bs : List Byte) : Act Unit := do
  let d ← look
  let y := partOf d p
  match y.step with
  | none =>
    if y.begin?.isSome then onlyIf (t == 1 && (y.begin?.map fun b => (b.fn, b.ring)) != some (f, r)) (stepWaits p (f, r))
    else if t = 1 then trainBegin p f r bs
    else do
      let idx ← takeDesc f r
      onlyIf (t != 0) (refuseDesc f r idx)
  | some s =>
    if (s.fn, s.ring) ≠ (f, r) ∨ s.ended ∨ s.cut then onlyIf (t == 1) (stepWaits p (f, r))
    else do
      let idx ← takeDesc f r
      match t with
      | 0 => onlyIf (pendingTask d p 0).isSome (refuseInStep p f r t idx)
      | 2 => if taskOk d p 0 bs then enterTask p 0 f r bs else refuseInStep p f r t idx
      | 3 =>
        if (pendingTask d p 0).isNone && zeroBytes bs 1 4 && zeroBytes bs 0x10 0x40 && fieldAt bs 4 4 == y.job && fieldAt bs 8 8 == s.num then
          updPart p fun y => { y with step := some { s with ended := true } }
        else refuseInStep p f r t idx
      | 5 => if depsOk d p 0 bs then enterDeps p 0 bs else refuseInStep p f r t idx
      | _ => refuseInStep p f r t idx

/-! Serving items (R409, R424). -/

/-- The item whose group is still being fetched. -/
def openItem (d : Dev) (p : PartId) : Option Item := (runOf d p).items.find? fun i => !itemFetched d p i

/-- An item changed. -/
def updItem (p : PartId) (num : Nat) (f : Item → Item) : Act Unit := updRun p fun r => { r with
  items := r.items.map fun i => if i.num = num then f i else i }

/-- An ITEM descriptor's fields are in range (R425, R427). -/
def itemOk (d : Dev) (p : PartId) (bs : List Byte) : Bool :=
  decide (fieldAt bs 1 1 ≤ 1) && decide (1 ≤ fieldAt bs 2 2) && decide (fieldAt bs 2 2 ≤ 4096) && fieldAt bs 4 4 == (partOf d p).job &&
    zeroBytes bs 0x18 0x40

/-- A descriptor of a partition in serving mode (R409, R424, R427): one group at a time; a descriptor refused within a group makes its item
run no further, and its other descriptors go by. -/
def serveDesc (p : PartId) (f : FnId) (r : RingId) (t : Nat) (bs : List Byte) : Act Unit := do
  let d ← look
  match openItem d p with
  | none => do
    let idx ← takeDesc f r
    if t = 4 ∧ itemOk d p bs then updRun p fun x => { x with
        itemNum := x.itemNum + 1
        items := x.items ++ [⟨x.itemNum + 1, bitOf (fieldAt bs 1 1) 0, fieldAt bs 8 8, fieldAt bs 0x10 4, fieldAt bs 0x14 4, fieldAt bs 2 2, false, f, r⟩] }
    else onlyIf (t != 0) (refuseDesc f r idx)
  | some i =>
    onlyIf (decide ((i.fn, i.ring) = (f, r))) do
      let idx ← takeDesc f r
      let bad : Act Unit := do
        refuseDesc f r idx
        updItem p i.num fun x => { x with bad := true }
        each (tasksOf d p) fun y => onlyIf (y.item == i.num) (updTask p y.tid fun z => { z with more := 0 })
      match t with
      | 0 => onlyIf (pendingTask d p i.num).isSome bad
      | 2 =>
        if i.left = 0 then bad
        else do
          let ok := !i.bad && taskOk d p i.num bs
          updItem p i.num fun x => { x with left := x.left - 1 }
          if ok then enterTask p i.num f r bs else onlyIf (!i.bad) bad
      | 5 => if i.bad then pure () else if depsOk d p i.num bs then enterDeps p i.num bs else bad
      | _ => bad

/-- A descriptor of a type fetched from a ring of a function (R422–R427). A descriptor of another valid type is not this command's; one of an
unknown type is refused wherever it stands. While a ring is skipped to its STEP_END its descriptors go by, and no other is fetched. -/
def fetchDesc (type : Nat) (f : FnId) (r : RingId) (desc : List Byte) : Act Unit := do
  let d ← look
  onSome (fnOf d f).part fun p => do
    let bs := (padTo 64 0#8 desc).take 64
    let t := fieldAt bs 0 1
    onlyIf (canFetch d p f r && (t == type || decide (5 < t))) do
      match (partOf d p).skip with
      | some fr =>
        onlyIf (decide (fr = (f, r))) do
          let _ ← takeDesc f r
          onlyIf (t == 3) (updPart p fun y => { y with skip := none })
      | none => if (partOf d p).serving then serveDesc p f r t bs else trainDesc p f r t bs
      builder p

/-! OPEN. -/

/-- The registers of a partition that are latched when its step opens. -/
def latchNames : List (RegName × Nat) :=
  ([.BARL_CTRL, .BARL_APER_LO, .BARL_APER_HI, .BARL_APER_SIZE, .BARL_PLAN_LO, .BARL_PLAN_HI, .BARL_PLAN_COUNT, .BARL_SPILL_LO, .BARL_SPILL_HI,
    .BARL_SPILL_SIZE, .BARL_SPILL_TGT, .UPD_SHARD_LO, .UPD_SHARD_HI, .UPD_SHARD_COUNT, .UPD_SLICE_LO, .UPD_SLICE_HI, .UPD_SLICE_COUNT,
    .UPD_GOV_LO, .UPD_GOV_HI, .UPD_HIST_LO, .UPD_HIST_HI, .ESC_TABLE_LO, .ESC_TABLE_HI, .ESC_TABLE_COUNT, .PILE_MMU_ROOT_LO, .PILE_MMU_ROOT_HI,
    .PILE_POOL_LO, .PILE_POOL_HI, .PILE_POOL_COUNT, .PILE_T2TAB_LO, .PILE_T2TAB_HI, .PILE_T2TAB_COUNT].map fun n => (n, 0)) ++
    (List.range 8).map fun i => (.PILE_WAYS, i)

/-- Registers of a partition latched (R278, R293, R304, R315, R603). -/
def latchRegs (p : PartId) (names : List (RegName × Nat)) : Act Unit := do
  let d ← look
  updRun p fun r => { r with latch := names.foldl (fun l k => tabPut l k (regOf d k.1 p.val k.2)) r.latch }

/-- The target table copied (R315); a record that cannot be read is none, and a lost record stays lost until it has been rewritten
(R319). -/
def copyT2 (p : PartId) : Act Unit := do
  let d ← look
  let n := latched d p .PILE_T2TAB_COUNT
  let raw ← vaBytes (envOf d p) p (tableVa d p .PILE_T2TAB_LO .PILE_T2TAB_HI) (16 * n)
  let recs := match raw with
    | some bs => (List.range n).map fun i => (bs.drop (16 * i)).take 16
    | none => []
  updRun p fun r => { r with
    t2 := recs
    t2lost := r.t2lost.filter fun i => recs[i]? == r.t2[i]? }

/-- Free sectors of a pool frame, by its bitmap (R285). -/
def freeSectors (d : Dev) (fr : Nat) : Nat :=
  ((bytesOf d .pile fr 4096).map fun b => ((List.range 8).filter fun i => !bitOf b.toNat i).length).foldl (· + ·) 0

/-- The partition's pool as its list gives it (R285, R312): a frame new to it has its first sectors, which hold the bitmap, marked used. -/
def loadPool (p : PartId) : Act Unit := do
  let d ← look
  let n := latched d p .PILE_POOL_COUNT
  let raw ← vaBytes (envOf d p) p (tableVa d p .PILE_POOL_LO .PILE_POOL_HI) (8 * n)
  let new := match raw with
    | some bs => (List.range n).map fun i => fieldAt bs (8 * i) 8 % 2 ^ 39
    | none => []
  let old := (runOf d p).pool
  let move (fr : Nat) (gain : Bool) : Act Unit := do
    let d ← look
    let v := ctrOf d .PILE_POOL_FREE (pileOfPa fr).val
    gauge .PILE_POOL_FREE (pileOfPa fr).val (if gain then v + freeSectors d fr else v - freeSectors d fr)
  each (old.filter fun fr => !new.contains fr) fun fr => move fr false
  each (new.filter fun fr => !old.contains fr) fun fr => do
    emit (.write .pile fr (leBytes 8 (2 ^ 64 - 1)))
    clearBad .pile fr 8
    move fr true
  updRun p fun r => { r with pool := new }

/-- The governor table of a step, loaded by every core of the mask (R143, R148, R603). -/
def loadGov (p : PartId) (num : Nat) : Act Unit := do
  let d ← look
  let va := tableVa d p .UPD_GOV_LO .UPD_GOV_HI
  let raw ← (if va = 0 then pure (some []) else vaBytes (envOf d p) p va 4096)
  onlyIf raw.isNone (logPile 1 (some p))
  updRun p fun r => { r with
    govOff := []
    gov := match raw with
      | some (b :: bs) => (List.range 1024).map fun i => fieldAt (b :: bs) (4 * i) 4
      | _ => [] }
  each (allCores.filter (inMask d p)) fun c => setReg .CORE_GOV_STEP c.val p.val num

/-- The histogram bank of a step zeroed (R50): counts, amax, saturated and flushed; base and tag stay. -/
def openHist (p : PartId) (num : Nat) : Act Unit := do
  let d ← look
  let va := tableVa d p .UPD_HIST_LO .UPD_HIST_HI
  onlyIf (va != 0) (each (List.range 1024) fun i => do
    let at_ := va + 384 * i + 192 * (num % 2)
    let _ ← vaWrite (envOf d p) p { inner := true } at_ (List.replicate 0x8C 0#8) []
    let _ ← vaWrite (envOf d p) p { inner := true } (at_ + 0x98) (leBytes 8 num) []
    pure ())

/-- What OPEN does for a step of either mode: the partition's tables and masks are taken up. -/
def openTables (p : PartId) (num : Nat) : Act Unit := do
  copyT2 p
  loadPool p
  loadGov p num
  openHist p num

/-- Whether the set-up of a partition is refused at OPEN (R204, R215, R222, R266): a reserved code, or a plan without records for an
aperture that is served. -/
def setupBad (d : Dev) (p : PartId) : Bool :=
  let c := latched d p .BARL_CTRL
  bitsOf c 7 6 == 3 || bitsOf c 5 4 == 3 || (bitOf c 2 && latched d p .BARL_PLAN_COUNT == 0) ||
    bitsOf (regOf d .ESC_CTRL p.val) 31 20 == 0

/-- A step refused at OPEN (R243): a STEP entry, and its descriptors are skipped. -/
def refuseStep (p : PartId) (b : Begin) (status info : Nat) : Act Unit := do
  updPart p fun y => { y with
    begin? := none
    skip := some (b.fn, b.ring) }
  post b.fn b.ring (entryBytes (b.num % 2 ^ 32) 2 status 0 info)

/-- A training step opens (R14, R15, R196, R243–R246, R315). -/
def openTraining (p : PartId) (b : Begin) : Act Unit := do
  latchRegs p latchNames
  let d ← look
  if setupBad d p then refuseStep p b 0x11 0
  else do
    let (shards, slices) ← readTables p
    let d ← look
    match firstBar d p shards slices with
    | some i => refuseStep p b 0x1A i
    | none => do
      updPart p fun y => { y with
        begin? := none
        step := some ⟨.opened, b.num, b.fn, b.ring, false, false, 0, []⟩ }
      openTables p b.num
      openBarrel p
      openEsc p b.num (partOf d p).job shards slices

/-- A F32 estimate of an item; one that is no number counts as 0 (R409). -/
def estimate (code : Nat) : Rat :=
  match (decodeElem .f32 code).1 with
  | .num q => if q < 0 then 0 else q
  | _ => 0

/-- The items that are ready in arrival order (R409): fetched whole, not refused, and no earlier item of their sequence stands before them. -/
def readyItems (d : Dev) (p : PartId) : List Item :=
  let is := (runOf d p).items
  is.filter fun i => itemFetched d p i && !i.bad && !(is.any fun (j : Item) => j.num < i.num && j.seq == i.seq)

/-- Context chunks taken while the ratio of operations to bytes is below the target (R410). -/
def takeCtx (t : Rat) : Nat → Rat → Rat → List Item → List Item
  | 0, _, _, _ => []
  | _, _, _, [] => []
  | n + 1, ops, bytes, c :: cs =>
    if ops < t * bytes then c :: takeCtx t n (ops + estimate c.ops * 1000000000) (bytes + estimate c.bytes * 1000000) cs else []

/-- The items of the next serving step (R410). -/
def assemble (d : Dev) (p : PartId) : List Item :=
  let ready := readyItems d p
  let ctl := regOf d .SCHED_SERVE p.val
  let toks := (ready.filter fun i => !i.ctx).take (bitsOf ctl 23 16)
  let ctxs := ready.filter fun i => i.ctx
  let ops := (toks.map fun i => estimate i.ops * 1000000000).foldl (· + ·) 0
  let bytes := (toks.map fun i => estimate i.bytes * 1000000).foldl (· + ·) ((regOf d .SCHED_SERVE_BASE p.val : Rat) * 1000000)
  let taken := takeCtx (bitsOf ctl 15 0 : Rat) (bitsOf ctl 31 24) ops bytes ctxs
  if toks.isEmpty ∧ taken.isEmpty then ctxs.take 1 else toks ++ taken

/-- A serving step opens when it takes at least one item (R408, R410). -/
def openServing (p : PartId) : Act Unit := do
  let d ← look
  let is := assemble d p
  let num := (partOf d p).lastStep.getD 0 + 1
  onSome is.head? fun i => onlyIf (bankFree d p num) do
    latchRegs p latchNames
    updPart p fun y => { y with step := some ⟨.opened, num, i.fn, i.ring, true, false, 0, is.map (·.num)⟩ }
    openTables p num
    count .SCHED_SERVE_ITEMS p.val is.length

/-- STEP_OPEN (R14, R15): the next step of a partition opens once the last is CLOSED; none opens in an orphaned partition (R439). -/
def doStepOpen (p : PartId) : Act Unit := do
  let d ← look
  let y := partOf d p
  onlyIf (y.running && y.step.isNone && !y.held && !fatal d) do
    if y.serving then openServing p else onSome y.begin? (openTraining p)
    builder p

/-- HISTOGRAM_BANK_RELEASE (R50, R143): firmware has read a bank of a closed step, revises the governor entries that have governed set and the
records' bases, unless the step was discarded or the partition's level is expert, and releases the bank. A revision is the entry's fmt,
fallback and rnd. -/
def doBankRelease (p : PartId) (bank : Nat) (revs : List (Nat × Nat)) (bases : List (Nat × Nat)) : Act Unit := do
  let d ← look
  onSome ((runOf d p).banks.find? fun b => b % 2 == bank) fun b => do
    onlyIf (b / 2 == 0 && !(partOf d p).expert) do
      let gov := regOf d .UPD_GOV_HI p.val * 2 ^ 32 + regOf d .UPD_GOV_LO p.val
      onlyIf (gov != 0) (each revs fun (i, v) => do
        let d ← look
        onSome ((← vaBytes (envOf d p) p (gov + 4 * i) 4)) fun old => do
          let e := fieldAt old 0 4
          onlyIf (bitOf e 15) do
            let e' := putBits (putBits e 14 12 (bitsOf v 14 12)) 7 0 (bitsOf v 7 0)
            let _ ← vaWrite (envOf d p) p { inner := true } (gov + 4 * i) (leBytes 4 e') []
            pure ())
      let hist := tableVa d p .UPD_HIST_LO .UPD_HIST_HI
      onlyIf (hist != 0) (each bases fun (i, v) => do
        let d ← look
        let at_ := hist + 384 * i + 192 * bank
        let _ ← vaWrite (envOf d p) p { inner := true } (at_ + 0x8C) (leBytes 1 v) []
        pure ())
    updRun p fun r => { r with banks := r.banks.erase b }
    builder p

end Sys2Proof.Machine
end

