-- ==== Sys2Proof/Machine/Piles.lean ====
section
/-! DEFINITION. The base dies as commands see them (file 10): reads, writes and atomics (R289–R298), training (R299), the patrol
(R300), and fences (R301). -/

namespace Sys2Proof.Machine

/-- The words of a range of `len` bytes at physical address `pa` among failing words of its segment, relative to the range's first word. -/
def failingIn (pa len : Nat) (ws : List Nat) : List Nat :=
  let w0 := pa % 2048 / 8
  ((ws.filter fun w => decide (w0 ≤ w) && decide (w ≤ (pa % 2048 + len - 1) / 8)).map (· - w0))

/-- Words of a pile cross the fabric and a die-to-pile link (R296): those with a parity error are sent again, and one that fails that too is a
module error (R511). -/
def linkPath (pl : PileId) (e : LinkErrors) : Act Unit := do
  count .PILE_RESEND pl.val e.resent
  each (List.range e.resent) fun _ => corrected
  onlyIf e.dead (moduleError 2 pl.val)

/-- What a read of a segment meets beside the segment's own words: the way to it, and the pile's poison map (R296, R511). -/
def segmentPath (pl : PileId) (e : SegErrors) : Act Unit := do
  linkPath pl e.link
  onlyIf e.map (moduleError 6 pl.val)

/-- Words that failed for good at a read that a cache line serves stay poisoned in the line (R297, R298). -/
def hurtLine (l : Loc) (ws : List Nat) : Act Unit := do
  let d ← look
  match l with
  | .comp dir off _ => onlyIf (!ws.isEmpty) (onSome (lineAt d (dir + 8 * (off / 2048)) true) fun x => onSome x.data fun y => do
      let pl := pileOfPa x.tag
      emit (.pile pl { pileOf d pl with
        lines := (pileOf d pl).lines.map fun (z : Line) => if z = x then { z with data := some { y with bad := List.range 256 } } else z }))
  | _ => pure ()

/-- The words of a read of `n` bytes at a location that an uncorrectable error of its segment leaves bad: the failing ones of a plain page, all of a
segment that is decoded or transposed (R297). -/
def hurtWords (l : Loc) (va n : Nat) (ws : List Nat) : List Nat :=
  match l with
  | .plain pa => failingIn pa (min n (2048 - pa % 2048)) ws
  | _ => if ws.isEmpty then [] else allWords va (min n (2048 - va % 2048))

/-- PILE_READ (R296–R298): the bytes with their poisoned words go to whoever asked; a read that faults brings nothing. The errors that
the environment brings are in the segment that holds the first byte. -/
def doPileRead (p : PartId) (va len : Nat) (errs : SegErrors) : Act Unit := do
  walkTouch p va
  let d ← look
  let l := (locate d p (envOf d p).odd (envOf d p).chanOk {} false va).1
  onSome (l.stored d) fun pa => segmentPath (pileOfPa pa) errs
  let ws ← (match l.stored d with
    | some pa => segError pa errs.first errs.reread
    | none => pure [])
  hurtLine l ws
  match ← vaRead (envOf d p) p {} va len with
  | .error _ => pure ()
  | .ok (bs, bad) => emit (.out (.pileData bs ((hurtWords l va len ws).foldl setIns bad)))

/-- PILE_WRITE (R289, R290, R501). -/
def doPileWrite (p : PartId) (va : Nat) (bs : List Byte) (poisoned : Bool) (link : LinkErrors) : Act Unit := do
  let d ← look
  onSome ((locate d p (envOf d p).odd (envOf d p).chanOk {} true va).1.stored d) fun pa => linkPath (pileOfPa pa) link
  let d ← look
  let _ ← vaWrite (envOf d p) p {} va bs (if poisoned then allWords va bs.length else [])
  pure ()

/-- What an atomic leaves of a word (R295): a saturating add of counts, the greater of two F32 values, or the operand. -/
def atomicResult (op : AtomicOp) (old operand : Nat) : Nat :=
  match op with
  | .satAdd => satAdd32 old operand
  | .f32Max =>
    match (decodeElem .f32 old).1, (decodeElem .f32 operand).1 with
    | .nan, _ | _, .nan => codeOf .f32 .nan
    | x, y => codeOf .f32 (x.greater y)
  | .exchange => operand

/-- PILE_ATOMIC (R295, R501): on a poisoned word it is not performed. -/
def doPileAtomic (p : PartId) (va : Nat) (op : AtomicOp) (operand : Nat) : Act Unit := do
  onlyIf (va % 4 == 0) do
    let d ← look
    match (locate d p (envOf d p).odd (envOf d p).chanOk { inner := true } true va).1 with
    | .fault _ => pure ()
    | _ => do
      match ← vaRead (envOf d p) p {} va 4 with
      | .ok (bs, []) => do
        let old := leNat bs
        let _ ← vaWrite (envOf d p) p { inner := true } va (leBytes 4 (atomicResult op old operand)) []
        emit (.out (.pileOld old))
      | _ => pure ()

/-- A pile changed. -/
def updPile (pl : PileId) (f : Pile → Pile) : Act Unit := do
  let d ← look
  emit (.pile pl (f (pileOf d pl)))

/-- The bytes of a pile (R279). -/
def pileBytes : Nat := 2 ^ 36

/-- The poison-map bits of a physical region cleared. -/
def clearMap (lo len : Nat) : Act Unit := do
  let d ← look
  emit (.pmap (d.pmap.filter fun s => !(decide (lo ≤ 2048 * s) && decide (2048 * s < lo + len))))

/-- PILE_TRAINING_DONE (R299): the base die writes zero everywhere and the pile is ready, or a channel has failed training. -/
def doPileTraining (pl : PileId) (ok : Bool) : Act Unit := do
  let d ← look
  onlyIf (pileOf d pl).training do
    if ok then do
      emit (.zero .pile (pl.val * pileBytes) pileBytes)
      clearBad .pile (pl.val * pileBytes) pileBytes
      clearMap (pl.val * pileBytes) pileBytes
      updPile pl fun x => { x with
        training := false
        ready := true
        failed := false
        lines := []
        patrol := 0 }
    else updPile pl fun x => { x with
      training := false
      failed := true }

/-- PATROL_READ (R300): the next segment of the pile is read; one that is dirty in the cache is skipped. -/
def doPatrol (pl : PileId) (errs : SegErrors) : Act Unit := do
  let d ← look
  let x := pileOf d pl
  onlyIf (x.ready && bitsOf (regOf d .PILE_CTRL pl.val) 31 24 != 0) do
    wakePile pl
    let pa := pl.val * pileBytes + 2048 * x.patrol
    updPile pl fun y => { y with patrol := (y.patrol + 1) % 2 ^ 25 }
    onlyIf (!(x.lines.any fun (l : Line) => l.tag == pa && l.data.isNone && l.dirty)) do
      segmentPath pl errs
      let _ ← segError pa errs.first errs.reread
      checkSegment pa

/-- A fence set on a region of one pile (R301): its cache lines are dropped; with all 256 records in use, or while MEM does not
run (R460), the region waits, unreadable, unmapped and ungranted. -/
def setFence (lo len units : Nat) : Act Unit := do
  let d ← look
  let pl := pileOfPa lo
  let put := (procOf d 3).st == .running && decide ((pileOf d pl).fences.length < 256)
  updPile pl fun x =>
    let f : Fence := ⟨lo, len, units⟩
    { x with
      lines := x.lines.filter fun (l : Line) => !(decide (lo ≤ l.tag) && decide (l.tag < lo + len))
      fences := (if put then x.fences ++ [f] else x.fences)
      waiting := (if put then x.waiting else x.waiting ++ [f]) }

/-- MEM sets the fences that wait, as far as there are records (R301, R460, R461). -/
def takeFences : Act Unit :=
  each allPiles fun pl => updPile pl fun x => { x with
    fences := x.fences ++ x.waiting.take (256 - x.fences.length)
    waiting := x.waiting.drop (256 - x.fences.length) }

/-- FENCE_SCRUB_COMPLETE (R301): the region is zero, its record is released, its frames return, and a region that waited is fenced. -/
def doFenceScrub (pl : PileId) : Act Unit := do
  let d ← look
  match (pileOf d pl).fences with
  | [] => pure ()
  | f :: _ => do
    wakePile pl
    emit (.zero .pile f.lo f.len)
    clearBad .pile f.lo f.len
    clearMap f.lo f.len
    updDbg (blockPile pl.val) fun x => { x with marks := x.marks.filter fun m => !(decide (f.lo ≤ 2048 * m.1) && decide (2048 * m.1 < f.lo + f.len)) }
    count .PILE_SCRUB_BYTES pl.val f.len
    giveBack 10 f.units
    updPile pl fun x => { x with
      fences := x.fences.drop 1 ++ (if (procOf d 3).st == .running then x.waiting.take 1 else [])
      waiting := (if (procOf d 3).st == .running then x.waiting.drop 1 else x.waiting) }

end Sys2Proof.Machine
end

