-- ==== Sys2Proof/Machine/Alloc.lean ====
section
/-! DEFINITION. Frames, page tables and allocations as firmware grants and returns them (R280–R284, R310–R316, R326, R508). -/

namespace Sys2Proof.Machine

/-- The first good number among `n`, `n + 1`, … taken modulo `k`; the last argument counts those still to try. -/
def searchNat (ok : Nat → Bool) (n k : Nat) : Nat → Option Nat
  | 0 => none
  | left + 1 =>
    let i := (n + (k - (left + 1))) % k
    if ok i then some i else searchNat ok n k left

/-- A number below `k` that firmware chooses: the first good one from a free starting point (log entry 2). -/
def pickNat (ok : Nat → Bool) (k : Nat) : Act (Option Nat) := do
  let n ← draw
  pure (searchNat ok n k k)

/-- Whether two ranges meet. -/
def meets (a n b m : Nat) : Bool := decide (a < b + m) && decide (b < a + n)

/-- Every frame granted to a partition: tables, pages, directories and pool frames. -/
def heldFrames (d : Dev) : List (Nat × Nat) := d.parts.flatMap fun x => x.2.frames ++ x.2.allocs.flatMap fun (a : Alloc) => a.frames

/-- Whether a frame may be granted (R280, R301): not the poison map's, not fenced, not held. -/
def frameOk (d : Dev) (taken : List (Nat × Nat)) (pa size : Nat) : Bool :=
  decide (pa % pileBytes + size ≤ pileBytes - 2 ^ 22) && (pileOf d (pileOfPa pa)).ready && !fenced d pa size &&
    !((taken ++ heldFrames d).any fun f => meets pa size f.1 f.2)

/-- The channel groups of a partition on a pile (R280, R402). -/
def groupsOn (d : Dev) (p : PartId) (q : Nat) : List Nat := (List.range 8).filter fun g => bitOf ((partOf d p).groups.getD q 0) g

/-- Candidate `i` for a frame of a size on a pile: within the partition's channel groups (R279, R280). -/
def candFrame (q : Nat) (groups : List Nat) (size i : Nat) : Nat :=
  q * pileBytes + groups.getD (i / (2 ^ 33 / size)) 0 * 2 ^ 33 + i % (2 ^ 33 / size) * size

/-- A frame chosen on the first of some piles that has one free. -/
def chooseFrame (p : PartId) (size : Nat) (taken : List (Nat × Nat)) : List Nat → Act (Option Nat)
  | [] => pure none
  | q :: qs => do
    let d ← look
    let gs := groupsOn d p q
    match ← pickNat (fun i => frameOk d taken (candFrame q gs size i) size) (gs.length * (2 ^ 33 / size)) with
    | some i => pure (some (candFrame q gs size i))
    | none => chooseFrame p size taken qs

/-- Frames chosen one after another: for each the piles it may lie on, in order, and its size. None when one cannot be had. -/
def chooseFrames (p : PartId) : List (List Nat × Nat) → List (Nat × Nat) → Act (Option (List (Nat × Nat)))
  | [], _ => pure (some [])
  | (qs, size) :: rest, taken => do
    match ← chooseFrame p size taken qs with
    | none => pure none
    | some pa => do
      match ← chooseFrames p rest (taken ++ [(pa, size)]) with
      | none => pure none
      | some fs => pure (some ((pa, size) :: fs))

/-- Frames in units of 64 KiB (R313). -/
def unitsOf (fs : List (Nat × Nat)) : Nat := (fs.map fun f => f.2 / 65536).foldl (· + ·) 0

/-- The units charged to a partition (R313). -/
def pileUse (d : Dev) (p : PartId) : Nat := unitsOf ((partOf d p).frames ++ (partOf d p).allocs.flatMap fun (a : Alloc) => a.frames)

/-- The charge shown (R313, R414). -/
def showUse (p : PartId) : Act Unit := do
  let d ← look
  setReg .SCHED_QUOTA_PILE_USE p.val 0 (pileUse d p)

/-! Page tables (R281, R282). -/

/-- The index of a virtual address at a level. -/
def vaIndex (level va : Nat) : Nat :=
  match level with
  | 1 => bitsOf va 47 39
  | 2 => bitsOf va 38 30
  | 3 => bitsOf va 29 21
  | _ => bitsOf va 20 16

/-- Where the table of a level for an address lies, from the root register. -/
def tableAt (d : Dev) (p : PartId) (va : Nat) : Nat → Option Nat
  | 0 => none
  | 1 =>
    let lo := regOf d .PILE_MMU_ROOT_LO p.val
    if bitOf lo 0 then some (bitsOf (regOf d .PILE_MMU_ROOT_HI p.val) 6 0 * 2 ^ 32 + lo / 8192 * 8192) else none
  | level + 1 =>
    (tableAt d p va level).bind fun t => (entryAt d (t + 8 * vaIndex level va)).bind fun e =>
      if bitOf e 63 && bitsOf e 62 60 == 0 then some (bitsOf e 25 0 * 8192) else none

/-- The first address bit that a table of a level does not select. -/
def levelShift : Nat → Nat
  | 1 => 48
  | 2 => 39
  | 3 => 30
  | _ => 21

/-- The tables missing for some addresses: level and an address it serves. -/
def missingTables (d : Dev) (p : PartId) (vas : List Nat) (small : Bool) : List (Nat × Nat) :=
  (if small then [1, 2, 3, 4] else [1, 2, 3]).flatMap fun l =>
    (((vas.map fun va => va >>> levelShift l).dedup).map fun k => (l, k <<< levelShift l)).filter fun x => (tableAt d p x.2 l).isNone

/-- An entry of a page table or directory written. -/
def putEntry (pa e : Nat) : Act Unit := writePa pa (leBytes 8 e) []

/-- The root of a partition's tables given to its registers and latched (R304, R326). -/
def putRoot (p : PartId) (pa : Nat) : Act Unit := do
  setReg .PILE_MMU_ROOT_LO p.val 0 (pa % 2 ^ 32 + 1)
  setReg .PILE_MMU_ROOT_HI p.val 0 (pa / 2 ^ 32)
  latchRegs p [(.PILE_MMU_ROOT_LO, 0), (.PILE_MMU_ROOT_HI, 0)]

/-- Missing tables made, from the root down, each on a frame of its own. -/
def makeTables (p : PartId) : List ((Nat × Nat) × (Nat × Nat)) → Act Unit
  | [] => pure ()
  | ((level, va), (pa, size)) :: rest => do
    let d ← look
    updPart p fun y => { y with frames := y.frames ++ [(pa, size)] }
    if level ≤ 1 then putRoot p pa
    else onSome (tableAt d p va (level - 1)) fun t => putEntry (t + 8 * vaIndex (level - 1) va) (2 ^ 63 + pa / 8192)
    makeTables p rest

/-- The leaf of an address written; with no table there is nothing to clear. -/
def putLeaf (p : PartId) (va : Nat) (small : Bool) (e : Nat) : Act Unit := do
  let d ← look
  let l := if small then 4 else 3
  onSome (tableAt d p va l) fun t => putEntry (t + 8 * vaIndex l va) e

/-! The hint word (R310). -/

/-- Fields of a hint word. -/
def hintTier (h : Nat) : Nat := bitsOf h 1 0
def hintSmall (h : Nat) : Bool := bitOf h 4
def hintComp (h : Nat) : Bool := bitOf h 11
def hintPage (h : Nat) : Nat := if hintSmall h then 65536 else 2097152

/-- Whether a hint word is in range (R310, R311). -/
def hintOk (h : Nat) : Bool :=
  bitsOf h 19 16 == 0 && bitsOf h 8 6 == 0 && bitsOf h 3 2 == 0 && !bitOf h 5 && hintTier h != 0 && bitsOf h 15 14 != 3 &&
    (bitsOf h 23 20 == 0 || decide (4 ≤ bitsOf h 23 20)) && !(hintComp h && (hintSmall h || decide (1 < hintTier h))) &&
    !(bitOf h 12 && decide (1 < hintTier h))

/-- The attributes that a hint gives its entries (R282, R310). -/
def hintAttrs (h : Nat) : Nat :=
  2 ^ 63 + b2n (bitOf h 9) * 2 ^ 59 + b2n (bitOf h 10) * 2 ^ 58 + b2n (hintComp h) * 2 ^ 57 + b2n (bitOf h 12) * 2 ^ 56

/-- The piles that a hint allows and that hold channel groups of the partition, in ascending order. -/
def hintPiles (d : Dev) (p : PartId) (h : Nat) : List Nat :=
  (List.range 8).filter fun q => (bitsOf h 31 24 == 0 || bitOf h (24 + q)) && !(groupsOn d p q).isEmpty

/-- A list turned so that it begins at a place. -/
def turned {α : Type} (xs : List α) (i : Nat) : List α := if xs.isEmpty then [] else xs.drop (i % xs.length) ++ xs.take (i % xs.length)

/-- Pool frames for pages of a compressed allocation on one pile (R312). -/
def poolFrames (ratio pages : Nat) : Nat :=
  let b := pages * 2097152
  if ratio = 0 then ceilDiv (b * 33) (32 * 2093056) else ceilDiv (b * 4) (ratio * 2093056)

/-- Free 2 MiB frames of a partition on a pile. -/
def freeFrames (d : Dev) (p : PartId) (q : Nat) : Nat :=
  let gs := groupsOn d p q
  ((List.range (gs.length * 4096)).filter fun i => frameOk d [] (candFrame q gs 2097152 i) 2097152).length

/-- How many pages of a compressed allocation each pile takes (R310, R312): striped, or the lowest pile filled before the next. -/
def compPlan (d : Dev) (p : PartId) (spread : Bool) (ratio : Nat) : List Nat → Nat → List (Nat × Nat)
  | [], _ => []
  | q :: qs, n =>
    let k := if spread then ceilDiv n (qs.length + 1)
      else ((List.range (n + 1)).reverse.find? fun m => decide (ceilDiv m 256 + poolFrames ratio m ≤ freeFrames d p q)).getD 0
    (q, k) :: compPlan d p spread ratio qs (n - k)

/-- The directories and then the pool frames of a plan's piles, pile by pile. -/
def compWants (ratio : Nat) (plan : List (Nat × Nat)) : List (List Nat × Nat) :=
  plan.flatMap fun (q, n) => List.replicate (ceilDiv n 256 + poolFrames ratio n) ([q], 2097152)

/-- The pile of page `i` of a compressed allocation, and its number among that pile's pages. -/
def compPlace (spread : Bool) (plan : List (Nat × Nat)) (i : Nat) : Nat × Nat :=
  if spread then ((turned plan i).headD (0, 0) |>.1, i / max 1 plan.length)
  else
    let rec go : List (Nat × Nat) → Nat → Nat × Nat
      | [], j => (0, j)
      | (q, n) :: rest, j => if j < n then (q, j) else go rest (j - n)
    go plan i

/-- The frames that a plan gave one pile, directories first. -/
def compShare (ratio : Nat) : List (Nat × Nat) → List (Nat × Nat) → Nat → List (Nat × Nat)
  | [], _, _ => []
  | (q, n) :: rest, fs, want =>
    let k := ceilDiv n 256 + poolFrames ratio n
    if q = want then fs.take k else compShare ratio rest (fs.drop k) want

/-- The leaf entries of an allocation's pages. -/
def leafEntries (a : Alloc) (spread : Bool) (plan : List (Nat × Nat)) : List Nat :=
  let n := a.bytes / hintPage a.hint
  let base := hintAttrs a.hint
  if hintTier a.hint ≠ 1 then
    (List.range n).map fun i => base + 4 * 2 ^ 60 + a.target * 2 ^ 42 + (a.off + i * (hintPage a.hint / 65536)) * 2 ^ 16
  else if hintComp a.hint then
    (List.range n).map fun i =>
      let (q, j) := compPlace spread plan i
      let dir := ((compShare (bitsOf a.hint 23 20) plan a.frames q).getD (j / 256) (0, 0)).1 + 8192 * (j % 256)
      base + 2 ^ 60 + bitsOf a.hint 15 14 * 2 ^ 53 + dir / 8192
  else a.frames.map fun f => base + 2 ^ 60 + f.1 / 8192

/-- The spread bit of a hint. -/
def hintSpread (h : Nat) : Bool := bitOf h 13

/-- The pool frames among the frames of a compressed plan. -/
def poolOf (ratio : Nat) (plan : List (Nat × Nat)) (fs : List (Nat × Nat)) : List Nat :=
  plan.flatMap fun (q, n) => ((compShare ratio plan fs q).drop (ceilDiv n 256)).map (·.1)

/-- An allocation made at an address, in full or not at all (R311–R313): status 0, or 4 for want of quota or capacity. -/
def grantAlloc (p : PartId) (va bytes hint target off owner : Nat) : Act Nat := do
  let d ← look
  let page := hintPage hint
  let n := bytes / page
  let piles := hintPiles d p hint
  let ratio := bitsOf hint 23 20
  let plan := if hintComp hint then compPlan d p (hintSpread hint) ratio piles n else []
  let vas := (List.range n).map fun i => va + i * page
  let keys := missingTables d p vas (hintSmall hint)
  let wants :=
    if hintTier hint ≠ 1 then []
    else if hintComp hint then compWants ratio plan
    else (List.range n).map fun i => (if hintSpread hint then turned piles i else piles, page)
  let tabs := keys.map fun _ => (hintPiles d p 0, 65536)
  let units := (wants.map fun w => w.2 / 65536).foldl (· + ·) keys.length
  if regOf d .SCHED_QUOTA_PILE p.val < pileUse d p + units ∨ (hintComp hint ∧ (plan.map (·.2)).foldl (· + ·) 0 < n) then pure 4
  else do
    match ← chooseFrames p (wants ++ tabs) [] with
    | none => pure 4
    | some fs => do
      let mine := fs.take wants.length
      makeTables p (keys.zip (fs.drop wants.length))
      let a : Alloc := ⟨va, bytes, hint, target, off, mine, if hintComp hint then poolOf ratio plan mine else [], owner⟩
      each (vas.zip (leafEntries a (hintSpread hint) plan)) fun (v, e) => putLeaf p v (hintSmall hint) e
      updPart p fun y => { y with allocs := y.allocs ++ [a] }
      grant 10 units
      showUse p
      pure 0

/-! Where allocations lie in virtual addresses. -/

/-- What a partition's virtual addresses already hold: allocations, firmware's pages, and the barrel's aperture. -/
def spans (d : Dev) (p : PartId) : List (Nat × Nat) :=
  ((partOf d p).allocs.map fun (a : Alloc) => (a.va, a.bytes)) ++ ((partOf d p).fwBase.map fun b => (b, 2097152)).toList ++
    [(tableVa d p .BARL_APER_LO .BARL_APER_HI, latched d p .BARL_APER_SIZE * 2 ^ 30),
     (regOf d .BARL_APER_HI p.val * 2 ^ 32 + regOf d .BARL_APER_LO p.val, regOf d .BARL_APER_SIZE p.val * 2 ^ 30)]

/-- Whether a range of a partition's addresses is free. -/
def vaFree (d : Dev) (p : PartId) (va n : Nat) : Bool := decide (va + n ≤ 2 ^ 48) && !((spans d p).any fun s => meets va n s.1 s.2)

/-- An address that firmware chooses (R601): free, and not 0. -/
def chooseVa (p : PartId) (n page : Nat) : Act (Option Nat) := do
  let d ← look
  let r ← pickNat (fun i => i != 0 && vaFree d p (i * page) n) (2 ^ 48 / page)
  pure (r.map (· * page))

/-- The hint of firmware's own pages: tier 1, 64 KiB, writable, streamable, cached. -/
def fwHint : Nat := 0x1611

/-- Firmware's own pages `first` to `first + n - 1` of its 2 MiB range mapped, those that are not yet: 0–7 the pool list, 8 the target table,
9–15 the governor table and the histogram records (R143, R312, R315, R603). -/
def fwPages (p : PartId) (owner : Nat) : Nat → Nat → Act Nat
  | _, 0 => pure 0
  | first, n + 1 => do
    let d ← look
    let base ← (match (partOf d p).fwBase with
      | some b => pure (some b)
      | none => chooseVa p 2097152 2097152)
    match base with
    | none => pure 4
    | some b => do
      updPart p fun y => { y with fwBase := some b }
      let va := b + 65536 * first
      let st ← (if (partOf d p).allocs.any fun (a : Alloc) => a.va == va then pure 0 else grantAlloc p va 65536 fwHint 0 0 owner)
      if st = 0 then fwPages p owner (first + 1) n else pure st

/-- The partition's pool list written by firmware, for its next OPEN (R285, R312). -/
def writePoolList (p : PartId) : Act Unit := do
  let d ← look
  let fs := (partOf d p).allocs.flatMap fun (a : Alloc) => a.pool
  onSome (partOf d p).fwBase fun b => do
    let _ ← vaWrite (envOf d p) p { inner := true } b (fs.flatMap (leBytes 8)) []
    setReg .PILE_POOL_LO p.val 0 (b % 2 ^ 32)
    setReg .PILE_POOL_HI p.val 0 (b / 2 ^ 32)
    setReg .PILE_POOL_COUNT p.val 0 fs.length

/-! Returns. -/

/-- Frames leave a partition's pool: what was free in them leaves the gauge (R306). -/
def leavePool (p : PartId) (fs : List Nat) : Act Unit := do
  let d ← look
  each ((runOf d p).pool.filter (fs.contains ·)) fun fr => do
    let d ← look
    gauge .PILE_POOL_FREE (pileOfPa fr).val (ctrOf d .PILE_POOL_FREE (pileOfPa fr).val - freeSectors d fr)
  updRun p fun r => { r with pool := r.pool.filter fun fr => !fs.contains fr }

/-- The sectors that the segments of a compressed allocation hold are freed in their pool frames. -/
def freeRuns (p : PartId) (a : Alloc) : Act Unit := do
  let d ← look
  onlyIf (hintComp a.hint) (each (List.range (a.bytes / 2097152)) fun i =>
    onSome (walk d p (a.va + 2097152 * i)).1 fun (e, _) =>
      each (List.range 1024) fun s => do
        let d ← look
        match dirEntry d (bitsOf e 25 0 * 8192 + 8 * s) with
        | .frame at_ n => onlyIf ((runOf d p).pool.contains (at_ / 2097152 * 2097152)) (markSectors at_ n false)
        | _ => pure ())

/-- The pages of an allocation unmapped (R284). -/
def unmapAlloc (p : PartId) (a : Alloc) : Act Unit :=
  each (List.range (a.bytes / hintPage a.hint)) fun i => putLeaf p (a.va + i * hintPage a.hint) (hintSmall a.hint) 0

/-- Frames handed to the scrubber (R301, R508): they return now, or when each fence is released. -/
def fenceFrames (fs : List (Nat × Nat)) (now : Bool) : Act Unit := do
  onlyIf now (giveBack 10 (unitsOf fs))
  each fs fun f => setFence f.1 f.2 (if now then 0 else f.2 / 65536)

/-- Whether a pool frame holds sectors besides its bitmap's. -/
def poolInUse (d : Dev) (fr : Nat) : Bool := decide (freeSectors d fr < 32768 - 64)

/-- An allocation is freed (R301, R312, R435): its sectors return, its pages are unmapped, its frames fenced. A pool frame that holds sectors of
other allocations stays the partition's. -/
def freeAlloc (p : PartId) (a : Alloc) : Act Unit := do
  freeRuns p a
  let d ← look
  let kept := a.pool.filter fun fr => (runOf d p).pool.contains fr && poolInUse d fr
  unmapAlloc p a
  leavePool p (a.pool.filter fun fr => !kept.contains fr)
  fenceFrames (a.frames.filter fun f => !kept.contains f.1) true
  updPart p fun y => { y with allocs := (y.allocs.filter fun (x : Alloc) => x.va != a.va) ++
    (if kept.isEmpty then [] else [⟨0, 0, 0, 0, 0, kept.map fun fr => (fr, 2097152), kept, 1⟩]) }
  onlyIf (!a.pool.isEmpty) (writePoolList p)
  showUse p

/-- Every allocation of a job is scrubbed (R441, R301): unmapped, and fenced; its frames return as the fences are released. -/
def scrubAllocs (p : PartId) (pick : Alloc → Bool) : Act Unit := do
  let d ← look
  let as_ := (partOf d p).allocs.filter pick
  each as_ fun a => do
    unmapAlloc p a
    leavePool p a.pool
    fenceFrames a.frames false
  updPart p fun y => { y with allocs := y.allocs.filter fun a => !pick a }
  onlyIf (as_.any fun a => !a.pool.isEmpty) (writePoolList p)
  showUse p

end Sys2Proof.Machine
end

