-- ==== Sys2Proof/Machine/Array.lean ====
section
/-! DEFINITION. The matrix array: shadow loads and passes (file 03; the arithmetic of R43–R46). -/

namespace Sys2Proof.Machine

/-- The rate class of an operand format: 0 A, 1 B, 2 C, 3 D; none when it cannot be an operand (R43, R44). -/
def classOf : Fmt → Option Nat
  | .f4 | .i4 => some 0
  | .f6 | .f8a | .f8b | .i8 => some 1
  | .f16 | .f16w => some 2
  | .f32 => some 3
  | .i32 | .x8 => none

/-- The stationary tile of a class: Kt and Nt (R55). -/
def tileOf : Nat → Nat × Nat
  | 0 => (512, 128)
  | 1 => (256, 128)
  | 2 => (128, 128)
  | _ => (64, 64)

/-- The fields of an SLOAD (R58). -/
structure SloadF where
  pitch : Nat
  src   : Nat
  kext  : Nat
  next  : Nat
  cls   : Nat
  fmt   : Nat
  deriving DecidableEq, Repr

/-- An SLOAD decoded (R58). -/
def sloadF (w : Nat) : SloadF :=
  ⟨bitsOf w 77 56, bitsOf w 55 34, bitsOf w 33 24 + 1, bitsOf w 22 16 + 1, bitsOf w 13 12, bitsOf w 11 8⟩

/-- The fields of a PASS (R59). -/
structure PassF where
  dpitch : Nat
  dst    : Nat
  spitch : Nat
  src    : Nat
  htag   : Nat
  wb     : Nat
  rnd    : Nat
  dfmt   : Nat
  rows   : Nat
  iscale : Bool
  swap   : Bool
  cls    : Nat
  sfmt   : Nat
  deriving DecidableEq, Repr

/-- A PASS decoded (R59). -/
def passF (w : Nat) : PassF :=
  ⟨bitsOf w 171 150, bitsOf w 149 128, bitsOf w 107 86, bitsOf w 85 64, bitsOf w 55 40, bitsOf w 36 35, bitsOf w 34 32,
   bitsOf w 31 28, bitsOf w 27 16 + 1, bitOf w 15, bitOf w 14, bitsOf w 13 12, bitsOf w 11 8⟩

/-- Row bytes of a format code; 0 for a reserved one. -/
def rowLen (code n : Nat) : Nat := ((fmtOf code).map fun f => rowBytes f n).getD 0

/-- The refusal code of an SLOAD, if it is one (R61). -/
def sloadFault (x : Slot) (w : Nat) : Option Nat :=
  let f := sloadF w
  match (fmtOf f.fmt).bind fun m => (classOf m).map fun k => (m, k) with
  | none => some 1
  | some (m, k) =>
    if f.cls < k then some 2
    else if (m.scaled ∧ f.kext % 32 ≠ 0) ∨ (tileOf f.cls).1 < f.kext ∨ (tileOf f.cls).2 < f.next then some 3
    else if !x.rowsIn f.src f.pitch (rowBytes m f.kext) f.next then some 5
    else none

/-- Whether a pairing is of integers with their scales ignored: it accumulates in I32 (R46). -/
def intAcc (st : Fmt) (p : PassF) : Bool := st.isInt && !p.iscale

/-- Bytes of a destination row of a pass (R60). -/
def dstBytes (p : PassF) (n : Nat) : Nat :=
  match p.wb with
  | 0 => rowLen p.dfmt n
  | 1 => 4 * n
  | _ => max (4 * n) (rowLen p.dfmt n)

/-- The refusal code of a PASS over an operand of a format, class and extents (R61). -/
def passFault (x : Slot) (p : PassF) (ofmt ocls kext next : Nat) : Option Nat :=
  match fmtOf p.sfmt, fmtOf p.dfmt, fmtOf ofmt with
  | some s, some dd, some o =>
    match classOf s, classOf o with
    | some ks, some ko =>
      if s.isInt ≠ o.isInt ∨ dd = .x8 then some 1
      else if p.cls < max ks ko ∨ p.cls ≠ ocls then some 2
      else if (s.scaled ∧ kext % 32 ≠ 0) ∨ (dd.scaled ∧ (p.wb = 0 ∨ p.wb = 2) ∧ next % 32 ≠ 0) then some 3
      else if p.wb = 3 ∨ (p.wb = 1 ∧ dd ≠ (if intAcc o p then Fmt.i32 else Fmt.f32)) then some 4
      else if !x.rowsIn p.src p.spitch (rowLen p.sfmt kext) p.rows || !x.rowsIn p.dst p.dpitch (dstBytes p next) p.rows then some 5
      else none
    | _, _ => some 1
  | _, _, _ => some 1

/-- A value added into an F32 accumulator, nearest-even (R45). A NaN that it carries on is no operand read: nan_in is set where an
operand is decoded (R38, R52). -/
def accAdd (a : Acc32) (v : Val) : Acc32 × Flags :=
  let (r, fl) := lane .f32 (a.val.addExact v)
  let new := match r with
    | .inf _ => a.val.finite && v.finite
    | _ => false
  (⟨r, (a.ovf && !r.finite && r != .nan) || new⟩, { fl with nanIn := false })

/-- The exact sum of a block's products (R45). -/
def blockSum (xs ys : List Val) : Val × Flags :=
  (xs.zip ys).foldl (fun (acc : Val × Flags) (p : Val × Val) =>
    let (q, f1) := p.1.mulExact p.2
    let (s, f2) := acc.1.addExact q
    (s, acc.2.or { f1.or f2 with nanIn := f1.nanIn })) (.zero false, {})

/-- One output of a float pairing, or of an integer pairing with its scales: blocks of 32 in ascending K (R45, R46). -/
def dotF (single : Bool) (xs ys : List Val) : Acc32 × Flags :=
  if single then
    (xs.zip ys).foldl (fun (acc : Acc32 × Flags) (p : Val × Val) =>
      let (q, f1) := lane .f32 (p.1.mulExact p.2)
      let (a, f2) := accAdd acc.1 q
      (⟨a.val, a.ovf || (f1.overflow && !a.val.finite && a.val != Val.nan)⟩, acc.2.or (f1.or f2))) (⟨.zero false, false⟩, {})
  else
    ((blocksOf xs.length xs).zip (blocksOf ys.length ys)).foldl (fun (acc : Acc32 × Flags) (b : List Val × List Val) =>
      let (s, f1) := blockSum b.1 b.2
      let (a, f2) := accAdd acc.1 s
      (a, acc.2.or (f1.or f2))) (⟨.zero false, false⟩, {})

/-- An I32 sum that saturates (R26, R46). -/
def satI32 (v : Int) : Int × Flags :=
  if 2147483647 < v then (2147483647, { intSat := true })
  else if v < -2147483648 then (-2147483648, { intSat := true })
  else (v, {})

/-- One output of an integer pairing with its scales ignored (R46). -/
def dotI (xs ys : List Int) : Int × Flags :=
  ((blocksOf xs.length xs).zip (blocksOf ys.length ys)).foldl (fun (acc : Int × Flags) (b : List Int × List Int) =>
    let s := (b.1.zip b.2).foldl (fun t (p : Int × Int) => t + p.1 * p.2) 0
    let (v, f) := satI32 (acc.1 + s)
    (v, acc.2.or f)) (0, {})

/-- The elements of an integer row without their scales (R46). -/
def intRow (f : Fmt) (n : Nat) (bs : List Byte) : List Int :=
  (List.range (ceilDiv n 32)).flatMap fun b =>
    let k := min 32 (n - 32 * b)
    (unpackCodes f.width k ((bs.drop (4 * f.width * b)).take (ceilDiv (k * f.width) 8))).map (signedOf f.width)

/-- The accumulator row of a streamed row against the tile (R45, R46). -/
def passRow (p : PassF) (o : Operand) (sf of_ : Fmt) (src : List Byte) : List Acc32 × Flags :=
  if intAcc of_ p then
    let xs := intRow sf o.kext src
    let rs := o.rows.map fun r => dotI xs (intRow of_ o.kext r)
    (rs.map fun r => ⟨Val.ofRat (r.1 : Rat), false⟩, rs.foldl (fun a r => a.or r.2) {})
  else
    let (xs, fx) := decodeRow sf o.kext src
    let rs := o.rows.map fun r =>
      let (ys, fy) := decodeRow of_ o.kext r
      let (a, fa) := dotF (sf == Fmt.f32 && of_ == Fmt.f32) xs ys
      (a, fy.or fa)
    (rs.map (·.1), rs.foldl (fun a r => a.or r.2) fx)

/-- The accumulator row added to the row at dst (R60): F32, or I32 when the scales are ignored. -/
def addRow (int : Bool) (old : List Byte) (row : List Acc32) : List Acc32 × Flags :=
  let n := row.length
  let (prev, fp) := decodeRow (if int then Fmt.i32 else Fmt.f32) n old
  let rs := (prev.zip row).map fun (v, a) =>
    if int then
      let (s, f) := satI32 ((v.rat + a.val.rat).floor)
      ((⟨Val.ofRat (s : Rat), false⟩ : Acc32), f)
    else
      let (s, f) := accAdd ⟨v, false⟩ a.val
      (⟨s.val, s.ovf || (a.ovf && !s.val.finite && s.val != Val.nan)⟩, f)
  (rs.map (·.1), rs.foldl (fun a r => a.or r.2) fp)

/-- An accumulator that overflowed is written as a finite result that overflowed: R37 and sat_wide decide (R45). -/
def Acc32.written (a : Acc32) : Val :=
  match a.val, a.ovf with
  | .inf neg, true => .beyond neg
  | v, _ => v

/-- The F32 value that the histogram counts (R48): an I32 accumulator's is rounded to F32. -/
def Acc32.counted (int : Bool) (a : Acc32) : Val := if int then (roundTo .f32 a.val).1 else a.val

/-- The bytes a pass writes for one row, with what its write does (R60): flags, histogram values and fates, governor count. -/
structure RowOut where
  bytes : List Byte
  flags : Flags
  vals  : List Val
  fates : List WriteFate
  gov   : Option CtrName
  deriving DecidableEq, Repr

/-- A row converted and written under store or finish, or kept under accumulate (R60, R142). -/
def rowOut (d : Dev) (c : CoreId) (x : Slot) (p : PassF) (int : Bool) (m : Nat) (row : List Acc32) : RowOut :=
  let n := row.length
  if p.wb = 1 then
    let (bs, fl, _) := encodeRow (if int then Fmt.i32 else Fmt.f32) ⟨0, false, 0⟩ 0 none (row.map (·.val))
    ⟨bs, fl, [], [], none⟩
  else
    let g := govern d c x.part p.htag p.dfmt n
    let w : WriteMode := ⟨g.rnd.getD (roundMode d c x.part p.rnd), satWide d c x.part, x.seed⟩
    let (bs, fl, fates) := encodeRow ((fmtOf g.fmt).getD .f32) w (m * n) none (row.map Acc32.written)
    ⟨bs, fl, row.map (Acc32.counted int), fates, if p.htag = 0 then none else g.ctr⟩

/-- Whether two ranges overlap (R64). DESIGN CHOICE (log entry 108): a range runs from its first byte to its last, the gaps that a
pitch leaves between rows included. -/
def overlaps (a n b m : Nat) : Bool := decide (a < b + m) && decide (b < a + n)

/-- What the pass needs: its operand is in place; it waits for the load in progress (R66, R68); it must reload from a record's SLOAD; or it
is refused (R70). -/
inductive PassNeed where
  | here (o : Operand)
  | waits
  | reload (cmd : Nat)
  | refused
  deriving DecidableEq, Repr

/-- A reload from a record, behind a load in progress (R66, R70). -/
def needLoad (a : Arr) (r : Option Nat) : PassNeed :=
  match r with
  | none => .refused
  | some w => if a.load.isSome then .waits else .reload w

/-- The operand of a pass of a slot (R68, R70). -/
def passNeed (a : Arr) (k : SlotId) (epoch : Nat) (p : PassF) : PassNeed :=
  let own (o : Option Operand) : Option Operand := o.filter fun y => y.slot == k && y.epoch == epoch
  let rec_ := tabGet a.recs k ⟨none, none⟩
  if p.swap ∨ a.reload then
    match own a.shadow, a.sh with
    | some o, .full => .here o
    | some _, .loading => .waits
    | _, _ => needLoad a (if p.swap then rec_.last else rec_.act)
  else
    match own a.active with
    | some o => .here o
    | none => needLoad a rec_.act

/-- The array set. -/
def setArr (c : CoreId) (a : Arr) : Act Unit := emit (.arr c a)

/-- The array refuses a command and aborts its task (R61). -/
def arrFault (c : CoreId) (k : SlotId) (code : Nat) : Act Unit := do
  faultReg .ARR_FAULT c k code
  abortSlot c k 0x13 code

/-- The array's next access stands still (R94). -/
def setWait (c : CoreId) (x : Slot) (k : SlotId) (s : Stall) : Act Unit := do
  let d ← look
  setArr c { arrOf d c with wait := some ⟨x.part, x.tid, k, s⟩ }

/-- A task stops for a reason found by an access of one of its rows, wherever the task is now (R102, R163). -/
def rowAbort (c : CoreId) (p : PassRun) (status detail : Nat) (strm : Option (Nat × Nat × Nat)) : Act Unit := do
  onSome strm fun (s, code, addr) => do
    raiseFault c s code addr
    strmFault c p.slot s 0 code addr
  abortTask p.own.part p.own.tid status detail

/-- The passes of an array with one of them changed. -/
def Arr.setPass (a : Arr) (seq : Nat) (p : PartId) (tid : Nat) (f : PassRun → PassRun) : Arr :=
  { a with passes := a.passes.map fun r => if r.seq = seq ∧ r.ofTask p tid then f r else r }

/-- An output row is written (R60, R62): the accumulate read-back, the conversion, its flags, its histogram. False: it stands still, or
its task was aborted. -/
def writeRow (env : PartId → Env) (c : CoreId) (p : PassRun) (o : OutRow) : Act Bool := do
  let d ← look
  let x := p.own
  let f := passF p.cmd
  let off := f.dst + o.row * f.dpitch
  let int := intAcc ((fmtOf p.ofmt).getD .f32) f
  let old := if f.wb = 0 then [] else [(2, off, 4 * p.next)]
  match blocked d c x old [(2, off, dstBytes f p.next)] with
  | some (.stall s) => do
    setWait c x p.slot s
    pure false
  | some (.abort st detail strm) => do
    rowAbort c p st detail strm
    pure false
  | none => do
    let prev ← if f.wb = 0 then pure (some []) else spadGet c x p.env 2 off (4 * p.next)
    match prev with
    | none => do
      rowAbort c p 0x18 0 none
      pure false
    | some bs => do
      let (row, f1) := if f.wb = 0 then (o.acc, {}) else addRow int bs o.acc
      let d ← look
      let out := rowOut d c x f int o.row row
      setFlags c x.part (f1.or out.flags)
      onSome out.gov fun g => count g c.val 1
      let ok ← if f.htag ≠ 0 ∧ f.wb ≠ 1 then histogram (env x.part) c x.part f.htag out.vals out.fates else pure true
      let put ← if ok then spadPut c x p.env 2 off out.bytes else pure false
      if put then do
        let d ← look
        setArr c ((arrOf d c).setPass p.seq x.part x.tid fun r => { r with out := r.out.filter fun y => y.row ≠ o.row })
        pure true
      else do
        rowAbort c p 0x18 0 none
        pure false

/-- The rows that are due by an array cycle are written, oldest first (R62); `fuel` bounds them. False: the array goes no further. -/
def writeDue (env : PartId → Env) (c : CoreId) (n : Nat) : Nat → Act Bool
  | 0 => pure true
  | fuel + 1 => do
    let d ← look
    match (arrOf d c).passes.findSome? fun p => p.out.head?.map fun o => (p, o) with
    | none => pure true
    | some (p, o) =>
      if n < o.born + 256 then pure true
      else if ← writeRow env c p o then writeDue env c n fuel
      else pure false

/-- Rows in the array. -/
def rowsIn (a : Arr) : Nat := (a.passes.map fun p => p.out.length).foldl (· + ·) 0

/-- The array reaches a cycle (R62, R65): its due rows are written, and a DRAINING shadow whose tick has passed is EMPTY. -/
def reachCycle (env : PartId → Env) (c : CoreId) (n : Nat) : Act Bool := do
  let d ← look
  if ← writeDue env c n (rowsIn (arrOf d c) + 1) then do
    let d ← look
    let a := arrOf d c
    let now := max a.cyc n
    setArr c { a with
      cyc := now
      sh := if a.sh = .draining ∧ a.emptyAt ≤ now then .empty else a.sh }
    pure true
  else pure false

/-- Tile rows loaded into the shadow, as far as the data is there (R65–R67). `fuel` bounds the rows. False: the array goes no further. -/
def loadRows (c : CoreId) : Nat → Act Bool
  | 0 => pure true
  | fuel + 1 => do
    let d ← look
    let a := arrOf d c
    match a.load, a.shadow with
    | some r, some o =>
      if o.next ≤ r.row then pure true
      else do
        let x := slotOf d c r.q.slot
        let f := sloadF o.load
        let off := f.src + r.row * f.pitch
        let n := rowLen f.fmt f.kext
        match blocked d c x [(1, off, n)] [] with
        | some (.stall s) => do
          setWait c x r.q.slot s
          pure false
        | some (.abort st detail strm) => do
          stopAbort c r.q.slot st detail strm
          pure true
        | none => do
          match ← spadGet c x r.q.env 1 off n with
          | none => do
            abortSlot c r.q.slot 0x18 0
            pure true
          | some bs => do
            let d ← look
            let a := arrOf d c
            setArr c { a with
              load := some { r with row := r.row + 1 }
              shadow := some { o with rows := o.rows ++ [bs] } }
            loadRows c fuel
    | _, _ => pure true

/-- The cycles for which a command was held are counted once, as it begins (R72, R81). -/
def countHeld (c : CoreId) (q : Queued) : Act Unit := do
  count .ARR_HOLD_CYCLES c.val q.env.held
  count .CORE_FREEZE_ARRAY c.val q.env.held
  bankMeets c q.env

/-- A shadow load begins: the shadow takes the tile, whatever it held (R65, R66). A DRAINING shadow is first EMPTY. -/
def beginLoad (env : PartId → Env) (c : CoreId) (q : Queued) (w : Nat) (reload : Bool) : Act Bool := do
  let d ← look
  let a := arrOf d c
  if ← (if a.sh = .draining then reachCycle env c a.emptyAt else pure true) then do
    let d ← look
    let a := arrOf d c
    let x := slotOf d c q.slot
    let f := sloadF w
    onlyIf (!reload) (countHeld c q)
    let d ← look
    let b := arrOf d c
    setArr c { b with
      q := if reload then a.q else a.q.drop 1
      load := some ⟨q, 0, none⟩
      reload := reload
      sh := .loading
      shadow := some ⟨q.slot, x.epoch, f.cls, f.fmt, f.kext, f.next, [], w⟩
      recs := if reload then a.recs else tabPut a.recs q.slot { tabGet a.recs q.slot ⟨none, none⟩ with last := some w } }
    loadRows c (f.next + 1)
  else pure false

/-- Rows of the feeding pass enter, one a cycle, as the rows due leave (R62); `fuel` bounds them. False: the array goes no further. -/
def feedRows (env : PartId → Env) (c : CoreId) : Nat → Act Bool
  | 0 => pure true
  | fuel + 1 => do
    let d ← look
    let a := arrOf d c
    match a.run, a.active, a.passes.find? (·.feeding) with
    | some r, some o, some p => do
      let f := passF r.q.cmd
      let x := p.own
      if f.rows ≤ r.row then do
        setArr c { a.setPass p.seq x.part x.tid fun y => { y with feeding := false } with run := none }
        pure true
      else if ← reachCycle env c a.cyc then do
        let d ← look
        let off := f.src + r.row * f.spitch
        let n := rowLen f.sfmt o.kext
        match blocked d c x [(0, off, n)] [] with
        | some (.stall s) => do
          setWait c x r.q.slot s
          pure false
        | some (.abort st detail strm) => do
          stopAbort c r.q.slot st detail strm
          pure true
        | none => do
          match ← spadGet c x r.q.env 0 off n with
          | none => do
            abortSlot c r.q.slot 0x18 0
            pure true
          | some bs => do
            let (acc, fl) := passRow f o ((fmtOf f.sfmt).getD .f32) ((fmtOf o.fmt).getD .f32) bs
            setFlags c x.part fl
            let d ← look
            let a := arrOf d c
            setArr c { a.setPass p.seq x.part x.tid fun y => { y with
                rows := y.rows + 1
                out := y.out ++ [⟨r.row, a.cyc, acc⟩] } with
              run := some { r with row := r.row + 1 }
              cyc := a.cyc + 1 }
            feedRows env c fuel
      else pure false
    | _, _, _ => pure true

/-- Row 0 of a pass enters over its operand (R62, R68): the tick of a swap pass takes the shadow with it. -/
def beginPass (env : PartId → Env) (c : CoreId) (q : Queued) (o : Operand) : Act Bool := do
  let d ← look
  let x := slotOf d c q.slot
  let f := passF q.cmd
  countHeld c q
  let d ← look
  let a := arrOf d c
  let swap := f.swap || a.reload
  setArr c { a with
    q := a.q.drop 1
    run := some ⟨q, 0, none⟩
    reload := false
    active := some o
    shadow := if swap then none else a.shadow
    sh := if swap then .draining else a.sh
    emptyAt := if swap then a.cyc + 255 else a.emptyAt
    recs := if swap then tabPut a.recs q.slot { tabGet a.recs q.slot ⟨none, none⟩ with act := some o.load } else a.recs
    passes := a.passes ++ [⟨{ x with
        buf := []
        bad := []
        redo := []
        resume := [] }, q.slot, q.seq, q.cmd, q.env, o.fmt, o.next, 0, x.phys f.dst,
      x.phys f.dst + (f.rows - 1) * f.dpitch + dstBytes f o.next, swap, true, [], false⟩] }
  feedRows env c (f.rows + 2)

/-- The array holds the first command of its queue (R64, R66, R68, R72). -/
def holdHead (c : CoreId) : Act Bool := do
  let d ← look
  setArr c { arrOf d c with hold := true }
  pure false

/-- Whether a PASS names formats that no pass can have (R44, R61): a reserved code, X8, or I32 as an operand. -/
def passFmtBad (p : PassF) : Bool :=
  ((fmtOf p.sfmt).bind classOf).isNone || (fmtOf p.dfmt).isNone || fmtOf p.dfmt == some .x8

/-- The first command of the queue, a PASS (R62–R64, R68, R70). DESIGN CHOICE (log entry 109): of several faults the one of its own formats
is taken first, then the missing record, then the others in the order of R61. False: the array goes no further. -/
def headPass (env : PartId → Env) (c : CoreId) (q : Queued) : Act Bool := do
  let d ← look
  let a := arrOf d c
  let x := slotOf d c q.slot
  let p := passF q.cmd
  let refuse (code : Nat) : Act Bool := do
    arrFault c q.slot code
    pure true
  if passFmtBad p then refuse 1
  else
    match passNeed a q.slot x.epoch p with
    | .refused => refuse 6
    | .waits => holdHead c
    | .reload w =>
      let f := sloadF w
      match passFault x p f.fmt f.cls f.kext f.next with
      | some code => refuse code
      | none => do
        if ← beginLoad env c q w true then holdHead c else pure false
    | .here o =>
      match passFault x p o.fmt o.cls o.kext o.next with
      | some code => refuse code
      | none =>
        let len := (p.rows - 1) * p.spitch + rowLen p.sfmt o.kext
        if a.passes.any fun y => !y.discard && overlaps (x.phys p.src) len y.lo (y.hi - y.lo) then holdHead c
        else do
          if ← reachCycle env c a.cyc then do
            let d ← look
            match blocked d c x [(0, p.src, rowLen p.sfmt o.kext)] [] with
            | some (.stall s) => do
              setWait c x q.slot s
              pure false
            | some (.abort st detail strm) => do
              stopAbort c q.slot st detail strm
              pure true
            | none => beginPass env c q o
          else pure false

/-- The first command of the queue, an SLOAD (R66): it waits for the load in progress. False: the array goes no further. -/
def headLoad (env : PartId → Env) (c : CoreId) (q : Queued) : Act Bool := do
  let d ← look
  match sloadFault (slotOf d c q.slot) q.cmd with
  | some code => do
    arrFault c q.slot code
    pure true
  | none => if (arrOf d c).load.isSome then holdHead c else beginLoad env c q q.cmd false

/-- The array goes on as far as it can (R63, R66, R68): the load in progress, the pass that feeds, then the queue, in order. `fuel` bounds
the commands. -/
def kickArr (env : PartId → Env) (c : CoreId) : Nat → Act Unit
  | 0 => pure ()
  | fuel + 1 => do
    let d ← look
    let a := arrOf d c
    onlyIf (a.hold || a.wait.isSome) (setArr c { a with
      hold := false
      wait := none })
    if ← loadRows c (((a.shadow.map (·.next)).getD 0) + 1) then do
      let d ← look
      let a := arrOf d c
      let on ← match a.run, a.q with
        | some r, _ => feedRows env c ((passF r.q.cmd).rows + 2)
        | none, q :: _ => if q.cmd % 256 = 0x40 then headLoad env c q else headPass env c q
        | none, [] => pure false
      if on then kickArr env c fuel else pure ()
    else pure ()

/-- The slot's records as they stand once its commands in the queue have begun (R70). -/
def queuedRecs (a : Arr) (k : SlotId) : ArrRec :=
  (a.q.filter fun q => q.slot == k).foldl (fun (r : ArrRec) q =>
    if q.cmd % 256 = 0x40 then { r with last := some q.cmd } else if (passF q.cmd).swap then { r with act := r.last } else r)
    (tabGet a.recs k ⟨none, none⟩)

/-- Whether a command that issues names operands that the array cannot pair (R44): its own formats, and those of the tile that the slot's
earlier commands give its pass. -/
def pairingBad (a : Arr) (k : SlotId) (w : Nat) : Bool :=
  if w % 256 = 0x40 then ((fmtOf (sloadF w).fmt).bind classOf).isNone
  else
    let p := passF w
    let r := queuedRecs a k
    passFmtBad p || ((if p.swap then r.last else r.act).map fun l =>
      ((fmtOf p.sfmt).map Fmt.isInt).getD false != ((fmtOf (sloadF l).fmt).map Fmt.isInt).getD false).getD false

/-- SLOAD and PASS go into the array's queue when they issue (R66, R89); one that pairs wrongly is refused then (R44). -/
def arrIssue (op : Op) (e : IslandEnv) (c : CoreId) (k : SlotId) : Act Unit :=
  issue c k (fun o _ => o == op) true fun _ w seq => do
    let d ← look
    if pairingBad (arrOf d c) k w then arrFault c k 1
    else setArr c { arrOf d c with q := (arrOf d c).q ++ [⟨k, seq, w, e, 0, []⟩] }

/-- The last byte of a shadow load arrives: the shadow is FULL (R65). DESIGN CHOICE (log entry 110): a reload is counted as its load
ends (R70). -/
def doShadowDone (c : CoreId) : Act Unit := do
  let d ← look
  let a := arrOf d c
  match a.load, a.shadow with
  | some r, some o =>
    if a.sh = .loading ∧ o.rows.length = o.next then do
      setArr c { a with
        sh := .full
        load := none }
      (if a.reload then count .ARR_RELOAD_COUNT c.val 1
      else
        let x := slotOf d c r.q.slot
        completeCmd x.part x.tid r.q.seq)
    else pure ()
  | _, _ => pure ()

/-- The last output row of the oldest pass is written and the pass completes (R62). While a row's drain chunk is not accepted the pass does
not complete (R164). -/
def doPassDone (env : PartId → Env) (c : CoreId) : Act Unit := do
  let d ← look
  onSome (arrOf d c).passes.head? fun p => onlyIf (!p.feeding) do
    let _ ← reachCycle env c (((p.out.getLast?).map fun o => o.born + 256).getD 0)
    let d ← look
    let a := arrOf d c
    onSome a.passes.head? fun p => onlyIf p.out.isEmpty do
      setArr c { a with
        passes := a.passes.drop 1
        sh := if p.swap ∧ a.sh = .draining ∧ !((a.passes.drop 1).any fun r => r.swap) then .empty else a.sh }
      count .ARR_PASS_COUNT c.val (if p.discard then 0 else 1)
      count .ARR_BUSY_CYCLES c.val (p.rows + (if a.passes.length = 1 then 256 else 0))
      if p.discard then abortDone c p.slot else completeCmd p.own.part p.own.tid p.seq

end Sys2Proof.Machine
end

