-- ==== Sys2Proof/Machine/Lathe.lean ====
section
/-! DEFINITION. The lathe and its chuck (file 05, R132–R138): row statistics, softmax and their backward forms. -/

namespace Sys2Proof.Machine

/-- The fields of a LATHE (R133). -/
structure LatheF where
  htag   : Nat
  poff   : Nat
  soff   : Nat
  ypitch : Nat
  y      : Nat
  gpitch : Nat
  g      : Nat
  xpitch : Nat
  x      : Nat
  ctr    : Option Nat
  rows   : Nat
  n      : Nat
  rnd    : Nat
  yfmt   : Nat
  gfmt   : Nat
  xfmt   : Nat
  ggov   : Bool
  xgov   : Bool
  stat   : Bool
  op     : Nat
  deriving DecidableEq, Repr

/-- A LATHE decoded (R133). -/
def latheF (w : Nat) : LatheF :=
  ⟨bitsOf w 255 240, bitsOf w 239 222, bitsOf w 221 204, bitsOf w 203 182, bitsOf w 181 160, bitsOf w 159 138, bitsOf w 137 116,
   bitsOf w 115 94, bitsOf w 93 72, if bitOf w 69 then some (bitsOf w 68 64) else none, bitsOf w 59 48 + 1, bitsOf w 47 32 + 1,
   bitsOf w 30 28, bitsOf w 27 24, bitsOf w 23 20, bitsOf w 19 16, bitOf w 14, bitOf w 13, bitOf w 12, bitsOf w 11 8⟩

/-- Whether the operation is one of the normalisations, a backward form, a softmax, a copy (R134). -/
def LatheF.norm (f : LatheF) : Bool := decide (f.op ≤ 3)
def LatheF.bwd (f : LatheF) : Bool := f.op == 2 || f.op == 3 || f.op == 6
def LatheF.smax (f : LatheF) : Bool := decide (4 ≤ f.op) && decide (f.op ≤ 6)
def LatheF.copy (f : LatheF) : Bool := f.op == 7 || f.op == 8
/-- Whether the records in the chuck are used (R134, R136): in chuck mode, and always by SMAX_RUN. -/
def LatheF.records (f : LatheF) : Bool := !f.copy && (!f.stat || f.op == 5)
/-- Whether x, g and y are used. -/
def LatheF.usesX (f : LatheF) : Bool := f.op != 8
def LatheF.usesY (f : LatheF) : Bool := f.op != 7

/-- Bytes of a task's chuck range (R132). -/
def Slot.chuckBytes (x : Slot) : Nat := x.size * 4096

/-- The physical chuck offset of an offset in the task's range (R132). -/
def Slot.chuckPhys (x : Slot) (off : Nat) : Nat := x.base * 4096 + off

/-- The format of the x and g reads, and what the governor does with the y write (R142, R144). -/
def latheFmtX (d : Dev) (c : CoreId) (p : PartId) (f : LatheF) : Fmt :=
  (fmtOf (if f.xgov then (govern d c p f.htag f.xfmt f.n).fmt else f.xfmt)).getD .f32
def latheFmtG (d : Dev) (c : CoreId) (p : PartId) (f : LatheF) : Fmt :=
  (fmtOf (if f.ggov then (govern d c p f.htag f.gfmt f.n).fmt else f.gfmt)).getD .f32
def latheGov (d : Dev) (c : CoreId) (p : PartId) (f : LatheF) : Governed := govern d c p f.htag f.yfmt f.n

/-- The refusal code of a LATHE, if it is one (R140). -/
def latheFault (d : Dev) (c : CoreId) (x : Slot) (w : Nat) : Option Nat :=
  let f := latheF w
  let fx := latheFmtX d c x.part f
  let fg := latheFmtG d c x.part f
  let fy := (fmtOf (latheGov d c x.part f).fmt).getD .f32
  let xUsed := f.usesX && !f.copy
  let yUsed := f.usesY && !f.copy
  let used (m : Fmt) (u : Bool) : List Fmt := if u then [m] else []
  let fmts := used fx xUsed ++ used fg f.bwd ++ used fy yUsed
  if 8 < f.op ∨ bitsOf w 71 70 ≠ 0 ∨ bitsOf w 63 60 ≠ 0 ∨ bitOf w 31 ∨ bitOf w 15 ∨ f.poff % 16 ≠ 0 ∨ f.soff % 16 ≠ 0 then some 1
  else if (xUsed && (fmtOf f.xfmt).isNone) || (f.bwd && (fmtOf f.gfmt).isNone) || (yUsed && (fmtOf f.yfmt).isNone) then some 1
  else if fmts.contains .x8 || (xUsed && f.xfmt == 10) || (f.bwd && f.gfmt == 10) || (yUsed && f.yfmt == 10) then some 2
  else if fmts.any fun m => m.scaled && f.n % 32 != 0 then some 3
  else if f.smax && !(ftabOf d c 0).valid then some 4
  else if (xUsed && !x.rowsIn f.x f.xpitch (rowBytes fx f.n) f.rows) || (f.bwd && !x.rowsIn f.g f.gpitch (rowBytes fg f.n) f.rows) ||
      (yUsed && !x.rowsIn f.y f.ypitch (rowBytes fy f.n) f.rows) || (f.op == 7 && !x.inWindow f.x (16 * f.rows)) ||
      (f.op == 8 && !x.inWindow f.y (16 * f.rows)) || ((f.records || f.copy) && decide (x.chuckBytes < f.soff + 16 * f.rows)) ||
      (f.norm && decide (x.chuckBytes < f.poff + 16 + 16 * f.n)) then some 5
  else none

/-- The lathe refuses a command and aborts its task (R140). -/
def latheRefuse (c : CoreId) (k : SlotId) (code : Nat) : Act Unit := do
  faultReg .LATHE_FAULT c k code
  abortSlot c k 0x14 code

/-- Parity errors that the environment brings to chuck words of a range (R101, R102, R132). -/
def chuckParity (c : CoreId) (env : IslandEnv) (a n : Nat) : Act Unit :=
  each (env.parity.filter fun h => decide (524288 ≤ h.word) && decide (n ≠ 0) && decide (a / 8 ≤ h.word - 524288) &&
      decide (h.word - 524288 ≤ (a + n - 1) / 8)) fun h => do
    let d ← look
    let poisoned := (badOf d (.chuck c)).contains (h.word - 524288)
    count .CORE_FREEZE_PARITY c.val (b2n (!poisoned))
    if poisoned then pure ()
    else if h.reread then do
      addBad (.chuck c) [h.word - 524288]
      count .SPAD_POISON_COUNT c.val 1
    else do
      count .SPAD_PARITY_REREAD c.val 1
      corrected

/-- A read of the task's chuck range; none when a word is poisoned. -/
def chuckGet (c : CoreId) (x : Slot) (env : IslandEnv) (off n : Nat) : Act (Option (List Byte)) := do
  let a := x.chuckPhys off
  let d ← look
  count .CORE_FREEZE_PARITY c.val (badIn d (.chuck c) a n).length
  chuckParity c env a n
  let d ← look
  if (badIn d (.chuck c) a n).isEmpty then pure (some (bytesOf d (.chuck c) a n)) else pure none

/-- A write to the task's chuck range. -/
def chuckPut (c : CoreId) (x : Slot) (off : Nat) (bs : List Byte) : Act Unit := do
  emit (.write (.chuck c) (x.chuckPhys off) bs)
  clearBad (.chuck c) (x.chuckPhys off) bs.length

/-! The arithmetic of the lathe: every operation rounds to F32 (R137). -/

/-- Results with the flags gathered. -/
def splitFlags (rs : List (Val × Flags)) : List Val × Flags := (rs.map (·.1), allFlags rs)

/-- x / y in F32. The spec states no quotient by zero or of two infinities: a free value (log entry 2). -/
def laneDiv (x y : Val) : Val × Flags :=
  match x, y with
  | .nan, _ | _, .nan => (.nan, { nanIn := true })
  | .inf _, .inf _ | _, .zero _ => ((decodeElem .f32 (Config.poleValue 0x20 (codeOf .f32 x + 2 ^ 32 * codeOf .f32 y))).1, {})
  | .inf s, _ => (.inf (s != y.sign), {})
  | .zero s, _ => (.zero (s != y.sign), {})
  | _, .inf s => (.zero (s != x.sign), {})
  | .num p, .num q => lane .f32 (.num (p / q), {})

/-- The neighbours at a position of a list replaced by their sum. -/
def pairAt : Nat → List Val → List Val × Flags
  | _, [] => ([], {})
  | _, [v] => ([v], {})
  | 0, v :: w :: rest =>
    let (s, f) := laneAdd .f32 v w
    (s :: rest, f)
  | n + 1, v :: rest =>
    let (r, f) := pairAt n rest
    (v :: r, f)

/-- A group summed by the fixed tree (R137, log entry 5): the order names which neighbours are added next. -/
def treeSum : Nat → List Nat → List Val → Val × Flags
  | 0, _, xs => (xs.headD (.zero false), {})
  | fuel + 1, order, xs =>
    match xs with
    | [] => (.zero false, {})
    | [v] => (v, {})
    | _ =>
      let (ys, f) := pairAt (order.headD 0 % (xs.length - 1)) xs
      let (s, g) := treeSum fuel (order.drop 1) ys
      (s, f.or g)

/-- The list cut into groups of 64 (R137). -/
def laneGroups : Nat → List Val → List (List Val)
  | 0, _ => []
  | fuel + 1, xs => if xs.isEmpty then [] else xs.take 64 :: laneGroups fuel (xs.drop 64)

/-- A row's sum in the lathe's fixed order (R137). -/
def rowSum (xs : List Val) : Val × Flags :=
  (laneGroups xs.length xs).foldl (fun (acc : Val × Flags) g =>
    let (s, f) := treeSum g.length (Config.latheOrder g.length) g
    let (t, h) := laneAdd .f32 acc.1 s
    (t, acc.2.or (f.or h))) (.zero false, {})

/-- A row's mean. -/
def rowMean (xs : List Val) : Val × Flags :=
  let (s, f) := rowSum xs
  let (m, g) := laneDiv s (Val.ofRat (xs.length : Rat))
  (m, f.or g)

/-- Element by element over two rows. -/
def zipF (op : Val → Val → Val × Flags) (xs ys : List Val) : List Val × Flags := splitFlags ((xs.zip ys).map fun p => op p.1 p.2)

/-- μ and ρ of a row: variance from sums about the row's first element (R134, R137). -/
def normStats (rms : Bool) (eps : Val) (xs : List Val) : (Val × Val) × Flags :=
  if rms then
    let (sq, f1) := zipF (laneMul .f32) xs xs
    let (m2, f2) := rowMean sq
    let (ve, f3) := laneAdd .f32 m2 eps
    let (r, f4) := laneRsqrt .f32 ve
    ((.zero false, r), f1.or (f2.or (f3.or f4)))
  else
    let x0 := xs.headD (.zero false)
    let (ds, f1) := splitFlags (xs.map fun v => laneAdd .f32 v x0.neg)
    let (sq, f2) := zipF (laneMul .f32) ds ds
    let (m1, f3) := rowMean ds
    let (m2, f4) := rowMean sq
    let (mu, f5) := laneAdd .f32 x0 m1
    let (m11, f6) := laneMul .f32 m1 m1
    let (var, f7) := laneAdd .f32 m2 m11.neg
    let (ve, f8) := laneAdd .f32 var eps
    let (r, f9) := laneRsqrt .f32 ve
    ((mu, r), [f1, f2, f3, f4, f5, f6, f7, f8, f9].foldl Flags.or {})

/-- x̂ = (x − μ) × ρ. -/
def xhat (mu rho : Val) (xs : List Val) : List Val × Flags :=
  splitFlags (xs.map fun v =>
    let (a, f) := laneAdd .f32 v mu.neg
    let (b, g) := laneMul .f32 a rho
    (b, f.or g))

/-- exp through function slot 0 (R131). -/
def expVal (img : List Byte) (v : Val) : Val × Flags := funcVal img false .f32 v

/-- exp(x − m) of a row. -/
def expRow (img : List Byte) (m : Val) (xs : List Val) : List Val × Flags :=
  splitFlags (xs.map fun v =>
    let (a, f) := laneAdd .f32 v m.neg
    let (b, g) := expVal img a
    (b, f.or g))

/-- The online sweep of maximum and sum of exponentials from a starting m and s (R137): groups of 64, rescaled as m rises. -/
def smaxSweep (img : List Byte) (m0 s0 : Val) (xs : List Val) : (Val × Val) × Flags :=
  (laneGroups xs.length xs).foldl (fun (acc : (Val × Val) × Flags) g =>
    let m := acc.1.1
    let s := acc.1.2
    let m' := if (m :: g).contains .nan then .nan else g.foldl Val.greater m
    if m' = .nan then ((.nan, .nan), acc.2.or { nanIn := true })
    else if m' = .inf true then acc
    else
      let (s1, f1) := if m' = m then (s, {}) else
        let (e, fe) := expRow img m' [m]
        let (p, fp) := laneMul .f32 s (e.headD (.zero false))
        (p, fe.or fp)
      let (es, f2) := expRow img m' g
      let (t, f3) := treeSum es.length (Config.latheOrder es.length) es
      let (s2, f4) := laneAdd .f32 s1 t
      ((m', s2), acc.2.or (f1.or (f2.or (f3.or f4))))) ((m0, s0), {})

/-- m and s of a row (R134, R137): a row of all −infinity gives NaN and invalid. -/
def smaxStats (img : List Byte) (m0 s0 : Val) (xs : List Val) : (Val × Val) × Flags :=
  let ((m, s), f) := smaxSweep img m0 s0 xs
  if m = .inf true then ((.nan, .nan), f.or { invalid := true }) else ((m, s), f)

/-- What one row of a LATHE gives: y, the record, dγ and dβ increments, flags. -/
structure LatheRow where
  y     : List Val
  rec_  : List Val
  dg    : List Val
  db    : List Val
  flags : Flags
  deriving DecidableEq, Repr

/-- The values of a normalisation's row (R134). `given` is the record of chuck mode. DESIGN CHOICE (log entry 104): RMS_BWD in chuck
mode takes μ from the record's word 0, as R136 reads it, also where that word is not 0. -/
def normRow (op : Nat) (eps : Val) (gamma beta xs gs : List Val) (given : Option (Val × Val)) : LatheRow :=
  let ((mu, rho), f0) := match given with
    | some r => (r, ({} : Flags))
    | none => normStats (op % 2 == 1) eps xs
  if op < 2 then
    let (xh, f1) := xhat mu rho xs
    let (p, f2) := zipF (laneMul .f32) xh gamma
    let (y, f3) := zipF (laneAdd .f32) p beta
    ⟨y, [mu, rho, .zero false, .zero false], [], [], f0.or (f1.or (f2.or f3))⟩
  else
    let (xh, f1) := xhat mu rho xs
    let (h, f2) := zipF (laneMul .f32) gs gamma
    let (hx, f3) := zipF (laneMul .f32) h xh
    let (mhx, f4) := rowMean hx
    let (mh, f5) := if op = 2 then rowMean h else (.zero false, {})
    let (y, f6) := splitFlags ((h.zip xh).map fun p =>
      let (a, g1) := if op = 2 then laneAdd .f32 p.1 mh.neg else (p.1, {})
      let (b, g2) := laneMul .f32 p.2 mhx
      let (e, g3) := laneAdd .f32 a b.neg
      let (z, g4) := laneMul .f32 rho e
      (z, g1.or (g2.or (g3.or g4))))
    let (gx, f7) := zipF (laneMul .f32) gs xh
    ⟨y, [], gx, gs, [f0, f1, f2, f3, f4, f5, f6, f7].foldl Flags.or {}⟩

/-- The values of a softmax's row (R134). -/
def smaxRow (img : List Byte) (op : Nat) (xs gs : List Val) (given : Option (Val × Val)) : LatheRow :=
  let z : Val := .zero false
  if op = 5 then
    let (m, s) := given.getD (.inf true, z)
    let ((m', s'), f1) := smaxStats img m s xs
    let (c, f2) := expRow img m' [m]
    let (y, f3) := expRow img m' xs
    ⟨y, [m', s', c.headD z, z], [], [], f1.or (f2.or f3)⟩
  else
    let ((m, s), f0) := match given with
      | some r => (r, ({} : Flags))
      | none => smaxStats img (.inf true) z xs
    let (e, f1) := expRow img m xs
    let (p, f2) := splitFlags (e.map fun v => laneDiv v s)
    if op = 4 then ⟨p, [m, s, z, z], [], [], f0.or (f1.or f2)⟩
    else
      let (gp, f3) := zipF (laneMul .f32) gs p
      let (t, f4) := rowSum gp
      let (y, f5) := splitFlags ((p.zip gs).map fun q =>
        let (a, h1) := laneAdd .f32 q.2 t.neg
        let (b, h2) := laneMul .f32 q.1 a
        (b, h1.or h2))
      ⟨y, [], [], [], [f0, f1, f2, f3, f4, f5].foldl Flags.or {}⟩

/-- F32 values as bytes. -/
def f32Bytes (vs : List Val) : List Byte := vs.flatMap fun v => leBytes 4 (codeOf .f32 v)

/-- Bytes as F32 values, with the flags of reading them as operands (R35). -/
def f32Vals (n : Nat) (bs : List Byte) : List Val × Flags := decodeRow .f32 n bs

/-- The running command of the lathe set. -/
def setLatheRun (c : CoreId) (r : Option Run) : Act Unit := do
  let d ← look
  emit (.lathe c { latheOf d c with run := r })

/-- Island cycles of a row (R134, R138): its sweeps with the bytes they read and write. -/
def latheCycles (f : LatheF) (xb gb yb : Nat) : Nat :=
  let sweep (r w : Nat) : Nat := max (ceilDiv r 128) (ceilDiv w 128) + 4
  if f.copy then sweep (if f.op = 7 then 16 else 0) (if f.op = 8 then 16 else 0)
  else if f.bwd then (if f.stat then sweep xb 0 else 0) + sweep (xb + gb) 0 + sweep (xb + gb) yb
  else sweep xb 0 + sweep xb yb

/-- Adds into dγ or dβ of the parameter block (R135). -/
def addParam (c : CoreId) (x : Slot) (env : IslandEnv) (off n : Nat) (vs : List Val) : Act Bool := do
  match ← chuckGet c x env off (4 * n) with
  | none => pure false
  | some old => do
    let (prev, f0) := f32Vals n old
    let (s, f) := zipF (laneAdd .f32) prev vs
    setFlags c x.part (f0.or f)
    chuckPut c x off (f32Bytes s)
    pure true

/-- One unit of CHUCK_LOAD or CHUCK_STORE (R134). False: a poisoned word. -/
def copyUnit (c : CoreId) (x : Slot) (env : IslandEnv) (f : LatheF) (i : Nat) : Act Bool := do
  if f.op = 7 then
    match ← spadGet c x env 5 (f.x + 16 * i) 16 with
    | none => pure false
    | some bs => do
      chuckPut c x (f.soff + 16 * i) bs
      pure true
  else
    match ← chuckGet c x env (f.soff + 16 * i) 16 with
    | none => pure false
    | some bs => spadPut c x env 6 (f.y + 16 * i) bs

/-- What a row of a statistic reads in the chuck: the record of chuck mode, ε, γ, β, with the flags of reading them. -/
structure LatheParams where
  given : Option (Val × Val)
  eps   : Val
  gamma : List Val
  beta  : List Val
  flags : Flags
  deriving DecidableEq, Repr

/-- The reads that a row of a statistic makes in the chuck: record and parameter block; none when a word is poisoned. β is no
operand of a backward form. -/
def latheParams (c : CoreId) (x : Slot) (env : IslandEnv) (f : LatheF) (i : Nat) : Act (Option LatheParams) := do
  let want := f.records && (f.bwd || f.op == 5)
  let recBytes ← if want then chuckGet c x env (f.soff + 16 * i) 16 else pure (some [])
  let block ← if f.norm then chuckGet c x env f.poff (16 + (if f.bwd then 4 else 8) * f.n) else pure (some [])
  match recBytes, block with
  | some r, some b =>
    let (rv, f1) := f32Vals 2 (r.take 8)
    let (ev, f2) := f32Vals 1 (b.take 4)
    let (gv, f3) := f32Vals f.n (b.drop 16)
    let (bv, f4) := f32Vals (if f.bwd then 0 else f.n) (b.drop (16 + 4 * f.n))
    let fl := (if want then f1 else {}).or
      (if f.norm then ((if want then {} else f2).or (f3.or f4)) else {})
    pure (some ⟨if want then some (rv.getD 0 (.zero false), rv.getD 1 (.zero false)) else none, ev.headD (.zero false), gv, bv, fl⟩)
  | _, _ => pure none

/-- A row of a statistic: x and g read, y written through the governor, record and parameter block brought up to date (R134–R136,
R142). False: a poisoned word was met. -/
def latheRow (env : PartId → Env) (c : CoreId) (x : Slot) (q : Queued) (f : LatheF) (i : Nat) : Act Bool := do
  let d ← look
  let fx := latheFmtX d c x.part f
  let fg := latheFmtG d c x.part f
  let g := latheGov d c x.part f
  let xb ← spadGet c x q.env 5 (f.x + i * f.xpitch) (rowBytes fx f.n)
  let gb ← if f.bwd then spadGet c x q.env 5 (f.g + i * f.gpitch) (rowBytes fg f.n) else pure (some [])
  let ps ← latheParams c x q.env f i
  match xb, gb, ps with
  | some xb, some gb, some ps => do
    let d ← look
    let sat := satWide d c x.part
    let (xd, f1) := decodeRow fx f.n xb
    let (xs, f2) := splitFlags (xd.map (narrowTo sat .f32))
    let (gd, f3) := if f.bwd then decodeRow fg f.n gb else ([], {})
    let (gs, f4) := splitFlags (gd.map (narrowTo sat .f32))
    let r := if f.norm then normRow f.op ps.eps ps.gamma ps.beta xs gs ps.given
      else smaxRow (ftabOf d c 0).image f.op xs gs ps.given
    let w : WriteMode := ⟨g.rnd.getD (roundMode d c x.part f.rnd), satWide d c x.part, x.seed⟩
    let (bs, fl, fates) := encodeRow ((fmtOf g.fmt).getD .f32) w (i * f.n) none r.y
    setFlags c x.part ([f1, f2, f3, f4, ps.flags, r.flags, fl].foldl Flags.or {})
    let ok ← histogram (env x.part) c x.part f.htag r.y fates
    if !ok then pure false
    else do
      onlyIf (f.htag != 0) (onSome g.ctr fun n => count n c.val 1)
      let put ← spadPut c x q.env 6 (f.y + i * f.ypitch) bs
      onlyIf (f.records && !r.rec_.isEmpty) (chuckPut c x (f.soff + 16 * i) (f32Bytes r.rec_))
      if f.norm ∧ f.bwd then do
        let a ← addParam c x q.env (f.poff + 16 + 8 * f.n) f.n r.dg
        let b ← addParam c x q.env (f.poff + 16 + 12 * f.n) f.n r.db
        pure (put && a && b)
      else pure put
  | _, _, _ => pure false

/-- The rows of a LATHE from where it stands, as far as the data is there; `fuel` bounds them. -/
def latheSteps (env : PartId → Env) (c : CoreId) (x : Slot) (q : Queued) (f : LatheF) : Nat → Act Unit
  | 0 => pure ()
  | fuel + 1 => do
    let d ← look
    match (latheOf d c).run with
    | none => pure ()
    | some r =>
      if f.rows ≤ r.row ∨ !stepsOn d c r then pure ()
      else do
        let i := r.row
        let xb := if f.copy then 16 else rowBytes (latheFmtX d c x.part f) f.n
        let gb := rowBytes (latheFmtG d c x.part f) f.n
        let yb := if f.copy then 16 else rowBytes ((fmtOf (latheGov d c x.part f).fmt).getD .f32) f.n
        let reads := (if f.usesX then [(5, f.x + i * (if f.copy then 16 else f.xpitch), xb)] else []) ++
          (if f.bwd then [(5, f.g + i * f.gpitch, gb)] else [])
        let writes := if f.usesY then [(6, f.y + i * (if f.copy then 16 else f.ypitch), yb)] else []
        match blocked d c x reads writes with
        | some (.stall s) => setLatheRun c (some { r with stall := some s })
        | some (.abort st detail strm) => stopAbort c q.slot st detail strm
        | none => do
          countThaw c r
          let ok ← if f.copy then copyUnit c x q.env f i else latheRow env c x q f i
          if !ok then abortSlot c q.slot 0x18 0
          else do
            count .LATHE_ROW_COUNT c.val 1
            count .LATHE_BUSY_CYCLES c.val (latheCycles f xb gb yb)
            setLatheRun c (some { r with row := i + 1, stall := none })
            latheSteps env c x q f fuel

/-- A LATHE begins or goes on (R134). -/
def runLathe (env : PartId → Env) (c : CoreId) (r : Run) : Act Unit := do
  let d ← look
  let x := slotOf d c r.q.slot
  let f := latheF r.q.cmd
  if r.row = 0 then
    match latheFault d c x r.q.cmd with
    | some code => latheRefuse c r.q.slot code
    | none => do
      onlyIf r.stall.isNone do
        bankMeets c r.q.env
        count .LATHE_BUSY_CYCLES c.val 16
      latheSteps env c x r.q f (f.rows + 1)
  else latheSteps env c x r.q f (f.rows + 1)

/-- Whether a running LATHE has done its last row. -/
def latheDone (r : Run) : Bool := decide ((latheF r.q.cmd).rows ≤ r.row)

end Sys2Proof.Machine
end

