-- ==== Sys2Proof/Machine/Update.lean ====
section
/-! DEFINITION. UPDATE and its update program (file 09, R253–R259). -/

namespace Sys2Proof.Machine

/-- An instruction of the update program (R256). -/
structure UpdInstr where
  op   : Nat
  dst  : Nat
  srcs : List Nat
  deriving DecidableEq, Repr

/-- An instruction decoded (R256). -/
def updInstr (w : Nat) : UpdInstr := ⟨bitsOf w 31 27, bitsOf w 26 24, [bitsOf w 23 19, bitsOf w 18 14, bitsOf w 13 9]⟩

/-- The update descriptor (R255). -/
structure UpdDesc where
  g     : Nat
  w     : Nat
  m1    : Nat
  m2    : Nat
  fm    : Nat
  wout  : Nat
  m1out : Nat
  m2out : Nat
  kout  : Nat
  elems : Nat
  first : Nat
  len   : Nat
  kfmt  : Nat
  rnd   : Nat
  useFm : Bool
  useK  : Bool
  ks    : List Nat
  prog  : List Nat
  deriving DecidableEq, Repr

/-- A descriptor decoded (R255). -/
def updDesc (bs : List Byte) : UpdDesc :=
  let o (i : Nat) : Nat := bitsOf (fieldAt bs (4 * i) 4) 21 0
  let len := fieldAt bs 0x2C 1
  ⟨o 0, o 1, o 2, o 3, o 4, o 5, o 6, o 7, o 8, fieldAt bs 0x24 4, fieldAt bs 0x28 4, len, bitsOf (fieldAt bs 0x2D 1) 3 0,
    bitsOf (fieldAt bs 0x2E 1) 2 0, bitOf (fieldAt bs 0x2F 1) 0, bitOf (fieldAt bs 0x2F 1) 1,
    (List.range 8).map fun i => fieldAt bs (0x30 + 4 * i) 4, (List.range (min len 32)).map fun i => fieldAt bs (0x60 + 4 * i) 4⟩

/-- The sources that an update operation uses (R257); none for a reserved one. -/
def updArity : Nat → Option Nat
  | 0x01 | 0x02 | 0x03 | 0x05 | 0x06 => some 2
  | 0x04 | 0x0D | 0x0E => some 3
  | 0x07 | 0x09 | 0x0A | 0x0B | 0x0C | 0x10 | 0x11 => some 1
  | _ => none

/-- Whether an instruction keeps to R256–R258: bdec reads M1 or M2, nothing else does, and benc names a target. -/
def updInstrOk (w : Nat) : Bool :=
  let i := updInstr w
  match updArity i.op with
  | none => false
  | some k =>
    (i.srcs.drop k).all (· == 0) && (i.srcs.take k).all (fun s => decide (s < 0x16)) &&
      (i.srcs.take k).all (fun s => (s == 0x0A || s == 0x0B) == (i.op == 0x10)) && (i.op != 0x11 || decide (i.dst ≤ 2))

/-- Bytes of a row of 2,048 elements (R241). -/
def rowOf (f : Fmt) : Nat := rowBytes f 2048

/-- The byte ranges that UPDATE uses in the window (R255, R259). -/
def UpdDesc.ranges (u : UpdDesc) : List (Nat × Nat) :=
  let rows := u.elems / 2048
  [(u.g, 4 * u.elems), (u.w, 4 * u.elems), (u.m1, rows * rowOf .f8a), (u.m2, rows * rowOf .f8a), (u.wout, 4 * u.elems),
    (u.m1out, rows * rowOf .f8a), (u.m2out, rows * rowOf .f8a)] ++
    (if u.useFm then [(u.fm, u.elems / 8)] else []) ++
    (if u.useK then [(u.kout, rows * rowOf ((fmtOf u.kfmt).getD .f32))] else [])

/-- The refusal code of an UPDATE with its descriptor, if it is one (R258). -/
def updFault (x : Slot) (bs : List Byte) : Option Nat :=
  let u := updDesc bs
  let offs := (List.range 9).map fun i => fieldAt bs (4 * i) 4
  let bencs (t : Nat) : Nat := (u.prog.filter fun w => (updInstr w).op == 0x11 && (updInstr w).dst == t).length
  if offs.any (fun o => bitsOf o 31 22 != 0 || o % 64 != 0) || decide (u.len = 0 ∨ 32 < u.len) || u.elems % 2048 != 0 ||
      decide (262144 < u.elems) || bitsOf (fieldAt bs 0x2D 1) 7 4 != 0 || bitsOf (fieldAt bs 0x2E 1) 7 3 != 0 ||
      bitsOf (fieldAt bs 0x2F 1) 7 2 != 0 || !((bs.drop 0x50).take 16).all (· == 0#8) || u.prog.any (fun w => bitsOf w 8 0 != 0) then some 1
  else if !u.prog.all updInstrOk || bencs 0 != 1 || bencs 1 != 1 || bencs 2 != b2n u.useK then some 2
  else if !(decide (1 ≤ u.kfmt) && decide (u.kfmt ≤ 6)) then some 3
  else if u.ranges.any (fun r => !x.inWindow r.1 r.2) then some 4
  else none

/-- UPDATE refuses and aborts its task (R258). -/
def updRefuse (c : CoreId) (k : SlotId) (code : Nat) : Act Unit := do
  faultReg .UPD_FAULT c k code
  abortSlot c k 0x16 code

/-- What UPDATE has read of one vector: G, W with its bytes, the two moments as values and bytes, the mask bits. -/
structure UpdVec where
  g    : List Val
  w    : List Val
  wRaw : List Byte
  m1   : List Val
  m2   : List Val
  m1b  : List Byte
  m2b  : List Byte
  mask : List Bool
  deriving DecidableEq, Repr

/-- The value of a source for every lane, with the flags of reading it as an operand (R256, R35); the flags of G, W and the moments
are set where they are loaded. -/
def updSrc (d : Dev) (c : CoreId) (k : SlotId) (u : UpdDesc) (v : UpdVec) (s : Nat) : List (Val × Flags) :=
  let loaded (xs : List Val) : List (Val × Flags) := xs.map fun y => (y, {})
  if s < 8 then laneReads d c k .f32 s 256
  else if s = 8 then loaded v.g
  else if s = 9 then loaded v.w
  else if s = 10 then loaded v.m1
  else if s = 11 then loaded v.m2
  else if s < 0x14 then List.replicate 256 (decodeElem .f32 (u.ks.getD (s - 0x0C) 0))
  else if s = 0x14 then List.replicate 256 (.zero false, {})
  else List.replicate 256 (.num 1, {})

/-- A moment or working-copy row with frozen lanes taking their own values (R253). -/
def mixLanes (mask : List Bool) (out cur : List Val) : List Val :=
  (List.range out.length).map fun i => if mask.getD i false then cur.getD i (.zero false) else out.getD i (.zero false)

/-- Encoded moments with the blocks of 32 frozen elements copied bit for bit (R253). -/
def keepFrozen (mask : List Bool) (fresh cur : List Byte) : List Byte :=
  let frozen (b : Nat) : Bool := (List.range 32).all fun i => mask.getD (32 * b + i) false
  (List.range fresh.length).map fun i =>
    let b := if i < 256 then i / 32 else i - 256
    if frozen b then cur.getD i 0#8 else fresh.getD i 0#8

/-- One instruction over a vector (R257, R259). bdec brings the decoded moment to F32 under R36 and R37 (R41). -/
def updStep (c : CoreId) (x : Slot) (q : Queued) (u : UpdDesc) (v : UpdVec) (n w : Nat) : Act Bool := do
  let d ← look
  let i := updInstr w
  let ar := (updArity i.op).getD 1
  let reads := (i.srcs.take ar).map (updSrc d c q.slot u v)
  let srcs := reads.map fun s => s.map (·.1)
  let row := 256 * n / 2048
  let e0 := 256 * n % 2048
  let wm : WriteMode := ⟨roundMode d c x.part u.rnd, satWide d c x.part, x.seed⟩
  let put (f : Fmt) (base : Nat) (bs : List Byte) : Act Bool := putAll c x q.env 4 (sliceRanges f 2048 (base + row * rowOf f) e0 256) bs
  if i.op = 0x11 then
    let s := srcs.getD 0 []
    match i.dst with
    | 0 => do
      let (bs, fl, _) := encodeRow .f8a wm (u.first + 256 * n) none (mixLanes v.mask s v.m1)
      setFlags c x.part fl
      put .f8a u.m1out (keepFrozen v.mask bs v.m1b)
    | 1 => do
      let (bs, fl, _) := encodeRow .f8a wm (u.first + 256 * n) none (mixLanes v.mask s v.m2)
      setFlags c x.part fl
      put .f8a u.m2out (keepFrozen v.mask bs v.m2b)
    | _ => do
      let f := (fmtOf u.kfmt).getD .f32
      let (bs, fl, _) := encodeRow f wm (u.first + 256 * n) none (mixLanes v.mask s v.w)
      setFlags c x.part fl
      put f u.kout bs
  else do
    let rs := (List.range 256).map fun l =>
      let args := srcs.map fun s => s.getD l (.zero false)
      if i.op = 0x10 then narrowTo wm.satWide .f32 (args.getD 0 (.zero false)) else chainOp .f32 i.op args
    setFlags c x.part (allFlags (rs ++ reads.flatMap id))
    setLanes c q.slot .f32 i.dst (rs.map (·.1))
    pure true

/-- The program over a vector. False: the re-read of a merge failed. -/
def updProg (c : CoreId) (x : Slot) (q : Queued) (u : UpdDesc) (v : UpdVec) (n : Nat) : List Nat → Act Bool
  | [] => pure true
  | w :: ws => do
    let a ← updStep c x q u v n w
    let b ← updProg c x q u v n ws
    pure (a && b)

/-- Whether the program decodes a moment (R257). -/
def UpdDesc.decodes (u : UpdDesc) (src : Nat) : Bool :=
  u.prog.any fun w => (updInstr w).op == 0x10 && (updInstr w).srcs.head? == some src

/-- The reads and writes of a vector (R259). -/
def updReads (u : UpdDesc) (n : Nat) : List (Nat × Nat) :=
  let row := 256 * n / 2048
  let e0 := 256 * n % 2048
  [(u.g + 1024 * n, 1024), (u.w + 1024 * n, 1024)] ++
    (if u.decodes 0x0A || u.useFm then sliceRanges .f8a 2048 (u.m1 + row * rowOf .f8a) e0 256 else []) ++
    (if u.decodes 0x0B || u.useFm then sliceRanges .f8a 2048 (u.m2 + row * rowOf .f8a) e0 256 else []) ++
    (if u.useFm then [(u.fm + 32 * n, 32)] else [])

/-- The writes of a vector (R259). -/
def updWrites (u : UpdDesc) (n : Nat) : List (Nat × Nat) :=
  let row := 256 * n / 2048
  let e0 := 256 * n % 2048
  let kf := (fmtOf u.kfmt).getD .f32
  [(u.wout + 1024 * n, 1024)] ++ sliceRanges .f8a 2048 (u.m1out + row * rowOf .f8a) e0 256 ++
    sliceRanges .f8a 2048 (u.m2out + row * rowOf .f8a) e0 256 ++
    (if u.useK then sliceRanges kf 2048 (u.kout + row * rowOf kf) e0 256 else [])

/-- The vectors of an UPDATE from where it stands (R259); `fuel` bounds them. -/
def updSteps (c : CoreId) (x : Slot) (q : Queued) (u : UpdDesc) : Nat → Act Unit
  | 0 => pure ()
  | fuel + 1 => do
    let d ← look
    match (vecOf d c).run with
    | none => pure ()
    | some r =>
      if u.elems / 256 ≤ r.row ∨ !stepsOn d c r then pure ()
      else do
        let n := r.row
        let reads := updReads u n
        let writes := updWrites u n
        match blocked d c x (reads.map fun (o, k) => (3, o, k)) (writes.map fun (o, k) => (4, o, k)) with
        | some (.stall s) => setVecRun c (some { r with stall := some s })
        | some (.abort st detail strm) => stopAbort c q.slot st detail strm
        | none => do
          countThaw c r
          match ← getAll c x q.env 3 reads with
          | none => abortSlot c q.slot 0x18 0
          | some bs => do
            let m (want : Bool) (off : Nat) : List Byte := if want then (bs.drop off).take 264 else []
            let has1 := u.decodes 0x0A || u.useFm
            let has2 := u.decodes 0x0B || u.useFm
            let b1 := m has1 2048
            let b2 := m has2 (2048 + (if has1 then 264 else 0))
            let (gs, f1) := decodeRow .f32 256 (bs.take 1024)
            let (ws, f2) := decodeRow .f32 256 ((bs.drop 1024).take 1024)
            let (v1, f3) := if has1 then decodeRow .f8a 256 b1 else ([], {})
            let (v2, f4) := if has2 then decodeRow .f8a 256 b2 else ([], {})
            let mb := bs.drop (2048 + b1.length + b2.length)
            let mask := if u.useFm then (List.range 256).map fun i => bitOf (mb.getD (i / 8) 0#8).toNat (i % 8) else []
            let v : UpdVec := ⟨gs, ws, (bs.drop 1024).take 1024, v1, v2, b1, b2, mask⟩
            setFlags c x.part (f1.or (f2.or (f3.or f4)))
            let prog ← updProg c x q u v n u.prog
            let d ← look
            let out := bytesOf d (.vreg c q.slot) 0 1024
            let put ← spadPut c x q.env 4 (u.wout + 1024 * n)
              ((List.range 1024).map fun i => if mask.getD (i / 4) false then v.wRaw.getD i 0#8 else out.getD i 0#8)
            let mixed := ((List.range 8).filter fun b =>
              let l := (mask.drop (32 * b)).take 32
              l.any id && l.any (!·)).length
            count .UPD_MIXED_BLOCKS x.part.val mixed
            if !prog || !put then abortSlot c q.slot 0x18 0
            else do
              setVecRun c (some { r with row := n + 1, stall := none })
              updSteps c x q u fuel

/-- An UPDATE begins or goes on (R258, R259). -/
def runUpdate (c : CoreId) (r : Run) : Act Unit := do
  let d ← look
  let x := slotOf d c r.q.slot
  let off := bitsOf r.q.cmd 85 64
  if !r.q.desc.isEmpty then updSteps c x r.q (updDesc r.q.desc) ((updDesc r.q.desc).elems / 256 + 1)
  else if bitsOf r.q.cmd 255 86 ≠ 0 ∨ bitsOf r.q.cmd 63 22 ≠ 0 ∨ bitsOf r.q.cmd 15 8 ≠ 0 ∨ off % 64 ≠ 0 then updRefuse c r.q.slot 1
  else if !x.inWindow off 224 then updRefuse c r.q.slot 4
  else
    match blocked d c x [(3, off, 224)] [] with
    | some (.stall s) => setVecRun c (some { r with stall := some s })
    | some (.abort st detail strm) => stopAbort c r.q.slot st detail strm
    | none => do
      countThaw c r
      match ← spadGet c x r.q.env 3 off 224 with
      | none => abortSlot c r.q.slot 0x18 0
      | some bs =>
        match updFault x bs with
        | some code => updRefuse c r.q.slot code
        | none => do
          bankMeets c r.q.env
          let q := { r.q with desc := bs }
          setVecRun c (some { r with q := q, stall := none })
          updSteps c x q (updDesc bs) ((updDesc bs).elems / 256 + 1)

/-- Whether a running UPDATE has done its last vector. -/
def updDone (r : Run) : Bool := !r.q.desc.isEmpty && decide ((updDesc r.q.desc).elems / 256 ≤ r.row)

end Sys2Proof.Machine
end

