-- ==== Sys2Proof/Machine/Engines.lean ====
section
/-! DEFINITION. The queues of the vector engine with the function unit, of UPDATE, and of the lathe (R126, R134, R259), and the
commands that complete there. -/

namespace Sys2Proof.Machine

/-- Whether a command waits for a function slot that is loading (R131): its FUNC's slot, or slot 0 for a softmax. -/
def waitsForTable (d : Dev) (c : CoreId) (q : Queued) : Bool :=
  let loads (i : Nat) : Bool := (ftabOf d c i).loading.isSome || (ftabOf d c i).lib
  if q.cmd % 256 = 0x42 then loads (vopF q.cmd).fslot
  else if q.cmd % 256 = 0x81 then (latheF q.cmd).smax && loads 0
  else false

/-- The vector engine takes the next command of its queue and runs it as far as it can (R126). `fuel` bounds the commands. -/
def kickVec (env : PartId → Env) (c : CoreId) : Nat → Act Unit
  | 0 => pure ()
  | fuel + 1 => do
    let d ← look
    let e := vecOf d c
    match e.run with
    | none =>
      match e.q with
      | [] => pure ()
      | q :: rest =>
        if waitsForTable d c q then pure ()
        else do
          emit (.vec c ⟨rest, some ⟨q, q.row, none⟩⟩)
          kickVec env c fuel
    | some r => do
      if r.q.cmd % 256 = 0x84 then runUpdate c r else runVec env c r
      let d ← look
      if (vecOf d c).run.isNone then kickVec env c fuel else pure ()

/-- The lathe takes the next command of its queue and runs it as far as it can (R134). -/
def kickLathe (env : PartId → Env) (c : CoreId) : Nat → Act Unit
  | 0 => pure ()
  | fuel + 1 => do
    let d ← look
    let e := latheOf d c
    match e.run with
    | none =>
      match e.q with
      | [] => pure ()
      | q :: rest =>
        if waitsForTable d c q then pure ()
        else do
          emit (.lathe c ⟨rest, some ⟨q, q.row, none⟩⟩)
          kickLathe env c fuel
    | some r => do
      runLathe env c r
      let d ← look
      if (latheOf d c).run.isNone then kickLathe env c fuel else pure ()

/-- VOP, FUNC and UPDATE go into the vector engine's queue when they issue (R89, R126). -/
def vecIssue (want : Op → Nat → Bool) (e : IslandEnv) (c : CoreId) (k : SlotId) : Act Unit :=
  issue c k want true fun _ w seq => do
    let d ← look
    emit (.vec c { vecOf d c with q := (vecOf d c).q ++ [⟨k, seq, w, e, 0, []⟩] })

/-- A LATHE of an operation goes into the lathe's queue when it issues (R89, R134). A LATHE of a reserved operation goes with the
CHUCK_STORE row, and is refused there (R140). -/
def latheIssue (ops : List Nat) (e : IslandEnv) (c : CoreId) (k : SlotId) : Act Unit :=
  issue c k (fun o w => o == .lathe && ops.contains (bitsOf w 11 8)) true fun _ w seq => do
    let d ← look
    emit (.lathe c { latheOf d c with q := (latheOf d c).q ++ [⟨k, seq, w, e, 0, []⟩] })

/-- The running VOP or FUNC has done its last vector: it completes and advances its event counter (R126). -/
def doVecDone (c : CoreId) : Act Unit := do
  let d ← look
  onSome (vecOf d c).run fun r =>
    onlyIf (r.q.cmd % 256 != 0x84 && vecDone r) do
      setVecRun c none
      finishCmd c r.q.slot r.q.seq (vopF r.q.cmd).ctr

/-- The running UPDATE has done its last vector: it completes and advances its event counter (R259). -/
def doUpdDone (c : CoreId) : Act Unit := do
  let d ← look
  onSome (vecOf d c).run fun r =>
    onlyIf (r.q.cmd % 256 == 0x84 && updDone r) do
      setVecRun c none
      finishCmd c r.q.slot r.q.seq (if bitOf r.q.cmd 16 then some (bitsOf r.q.cmd 21 17) else none)

/-- The running LATHE has done its last row: it completes and advances its event counter (R138). -/
def doLatheDone (c : CoreId) : Act Unit := do
  let d ← look
  onSome (latheOf d c).run fun r =>
    onlyIf (latheDone r) do
      setLatheRun c none
      finishCmd c r.q.slot r.q.seq (latheF r.q.cmd).ctr

/-- A function slot's users have completed: no running FUNC or softmax evaluates it (R131). -/
def tableFree (d : Dev) (c : CoreId) (i : Nat) : Bool :=
  !(((vecOf d c).run.map fun r => r.q.cmd % 256 == 0x42 && (vopF r.q.cmd).fslot == i).getD false) &&
    !(((latheOf d c).run.map fun r => (latheF r.q.cmd).smax && i == 0).getD false)

/-- A write of go starts a load, unless one runs on the core (R147). DESIGN CHOICE (log entry 111): the slot's valid bit reads as before
while the load waits or runs. -/
def ftabGo (c : CoreId) (value sel : Nat) : Act Unit := do
  let d ← look
  let busy := (List.range 16).any fun i => (ftabOf d c i).loading.isSome
  let i := bitsOf value 3 0
  onlyIf (bitOf value 31 && !busy) do
    let va := regOf d .VEC_FTAB_SRC_HI c.val * 2 ^ 32 + regOf d .VEC_FTAB_SRC_LO c.val
    emit (.ftab c i { ftabOf d c i with loading := some (va, Fin.ofNat 16 sel) })

/-- A slot whose image cannot be read or is rejected: its earlier tables are not kept, the address of its last accepted load is (R128,
R130). -/
def failedTab (t : FTab) : FTab := { FTab.empty with
  src := t.src
  lib := t.lib }

/-- A load ends (R128, R131, R147): the slot's earlier tables are not kept; an image that cannot be read or fails its checks leaves the
slot invalid. It begins only once its users have completed. -/
def doFtabDone (env : PartId → Env) (c : CoreId) (i : Nat) : Act Unit := do
  let d ← look
  onSome (ftabOf d c i).loading fun (va, p) =>
    onlyIf (tableFree d c i && domOf d (c.val / 25) == .on) do
      match ← vaBytes (env p) p va 6208 with
      | some img => if imageOk img then emit (.ftab c i { ftabOf d c i with
          valid := true
          image := img
          src := some (va, p)
          loading := none }) else emit (.ftab c i (failedTab (ftabOf d c i)))
      | none => emit (.ftab c i (failedTab (ftabOf d c i)))

/-- Firmware's loads of the library that wait are made while the core's domain is ON, each once its slot's users and the load that runs have
completed (R130, R131). -/
def takeLibrary (c : CoreId) : Act Unit := do
  let d ← look
  onlyIf (domOf d (c.val / 25) == .on) <| each ((List.finRange 8).filter fun i => (ftabOf d c i.val).lib && (ftabOf d c i.val).loading.isNone && tableFree d c i.val) fun i =>
    emit (.ftab c i.val ⟨true, libraryImage i, none, none, false⟩)

/-- Firmware loads the library into slots 0–7 of a core that enters a partition's mask, unless they are all valid (R130, R131). -/
def loadLibrary (c : CoreId) : Act Unit := do
  let d ← look
  onlyIf (!(List.range 8).all fun i => (ftabOf d c i).valid) do
    each (List.finRange 8) fun i => emit (.ftab c i.val { ftabOf d c i.val with lib := true })
    takeLibrary c

/-- A core's domain turns OFF: its slots become invalid (R130). -/
def dropTables (c : CoreId) : Act Unit := do
  let d ← look
  each (List.range 16) fun i => emit (.ftab c i { ftabOf d c i with valid := false })

/-- Firmware loads the tables of the Useus compiler into slots 8–15 of a core of a partition at the basic level, when the partition is created
(R150). DESIGN CHOICE (log entry 118): the spec does not say where firmware finds them, so their bytes are free, one image for each slot at
each creation, and a slot that is valid keeps its table. -/
def loadCompiled (n : Nat) (c : CoreId) : Act Unit := do
  let d ← look
  each (List.finRange 8) fun i => onlyIf (!(ftabOf d c (8 + i.val)).valid && (ftabOf d c (8 + i.val)).loading.isNone) do
    let img := (List.range 6208).map (Config.compilerByte n i)
    emit (.ftab c (8 + i.val) ⟨imageOk img && domOf d (c.val / 25) == .on, img, none, none, false⟩)

/-- Firmware loads the slots again from the image address of their last accepted load, those of the library and of the compiler's output from
there (R130, R150). -/
def reloadTables (env : PartId → Env) (c : CoreId) : Act Unit := do
  let d ← look
  each (List.range 16) fun i => do
    let t := ftabOf d c i
    if t.valid ∨ t.lib ∨ t.loading.isSome then pure ()
    else
      match t.src with
      | some (va, p) => do
        match ← vaBytes (env p) p va 6208 with
        | some img => if imageOk img then emit (.ftab c i { t with valid := true, image := img }) else pure ()
        | none => pure ()
      | none =>
        onlyIf (!t.image.isEmpty) (if h : i < 8 then emit (.ftab c i { t with valid := true, image := libraryImage ⟨i, h⟩ })
        else emit (.ftab c i { t with valid := imageOk t.image }))

/-- An engine of the island goes on unless the island is frozen (R84, R94). -/
def onIsland (c : CoreId) (m : Act Unit) : Act Unit := do
  let d ← look
  onlyIf (!frozen d c) m

/-- A core's engines all run as far as they can. While an engine's accesses have to wait the island stands still, every engine of it
(R84, R94); a held command of the array is looked at again, and the other engines go on only once it is held no more (R72). DESIGN
CHOICE (log entry 112): between two freezes the array goes first, then the vector engine, then the lathe. -/
def kickCore (env : PartId → Env) (c : CoreId) : Act Unit := do
  let d ← look
  onlyIf (!frozenStream d c) (kickArr env c 20)
  onIsland c (kickVec env c 20)
  onIsland c (kickLathe env c 12)
  takeLibrary c

end Sys2Proof.Machine
end

