-- ==== Sys2Proof/Machine/Power.lean ====
section
/-! DEFINITION. Power, clocks and heat (file 17): the input and the guard (R477, R489), domains (R478–R483), issue ratios (R486–R488), the
thermal loop and the trip (R490, R491), power-up (R492), the full reset (R514), and the contacts that file 21 drives from them. -/

namespace Sys2Proof.Machine

/-- Power and heat changed. -/
def updPwr (f : Pwr → Pwr) : Act Unit := do
  let d ← look
  emit (.pwr (f d.pwr))

/-- The contacts changed. -/
def updPins (f : Pins → Pins) : Act Unit := do
  let d ← look
  emit (.pins (f d.pins))

/-- A domain in a state. -/
def setDom (i : Nat) (st : DomSt) : Act Unit := updPwr fun x => { x with doms := x.doms.set i st }

/-- Whether the module has its power: neither tripped nor shut down (R477, R491, R556). -/
def awake (d : Dev) : Bool := !d.pwr.trip && !d.pwr.shut

/-- Whether a firmware processor runs (R460). -/
def procRuns (d : Dev) (i : ProcId) : Bool := (procOf d i).st == .running

/-- The processors of R450. -/
def procHIF : ProcId := 0
def procBAL : ProcId := 1
def procLNK : ProcId := 2
def procMEM : ProcId := 3
def procSEC : ProcId := 4
def procSUP : ProcId := 5

/-- A command that needs the module's power: with none it has no effect. -/
def guarded (m : Act Unit) : Act Unit := do
  let d ← look
  onlyIf (awake d) m

/-! Ratios (R486–R490). -/

/-- The guard ratio n − 1, taken to the nearer limit (R495). -/
def safeRatio (d : Dev) : Nat := min 0x7F (max 0x0F (bitsOf (regOf d .PWR_GUARD 0) 7 0))

/-- The module ratio n (R488, R489). -/
def moduleRatio (d : Dev) : Nat := (if d.pwr.guard then safeRatio d else bitsOf (regOf d .PWR_MOD_RATIO 0) 7 0) + 1

/-- A die's thermal ratio n (R490, R496). -/
def dieRatio (d : Dev) (die : Nat) : Nat := bitsOf (regOf d .PWR_DIE_STATUS 0 die) 7 0 + 1

/-- A partition's ratio n, from its estimate and its power charge (R487). -/
def partRatio (d : Dev) (p : PartId) : Nat :=
  let q := bitsOf (regOf d .SCHED_QUOTA_POWER p.val) 15 0
  let e := bitsOf (regOf d .PWR_PART_EST 0 p.val) 15 0
  if q = 0 ∨ e = 0 then 256 else min 256 (256 * q / e)

/-- The issue ratio n of a partition's slots on a core (R486): the product of the three factors, rounded down, and never below 1. -/
def issueRatio (d : Dev) (c : CoreId) (p : PartId) : Nat := max 1 (partRatio d p * moduleRatio d * dieRatio d (c.val / 50) / 65536)

/-- Whether some die is throttled (R494, R498). -/
def throttled (d : Dev) : Bool := (List.range 16).any fun i => dieRatio d i != 256

/-! The registers and outputs that show power. -/

/-- PWR_STATUS as it reads (R494): bits 6:3 are stored, the others show the state. -/
def pwrStatus (d : Dev) : Nat :=
  bitsOf (regOf d .PWR_STATUS 0) 6 3 * 8 + b2n d.pwr.trip * 128 + b2n d.pwr.guard * 4 + b2n (throttled d) * 2 + b2n d.pwr.good

/-- The alert output (R503). -/
def alertOut (d : Dev) : Bool :=
  fatal d || (List.finRange 6).any (fun i => (procOf d i).st == .halted) || d.escs.any (fun x => x.2.st == .inDoubt) ||
    (pwrStatus d &&& 0xE4) != 0 || (regOf d .TOP_ERR_STATUS 0 &&& bitsOf (regOf d .TOP_ERR_CTRL 0) 15 8) != 0

/-- THERMTRIP_N low and PGOOD high (R563, R565). -/
def tripOut (d : Dev) : Bool := d.pwr.trip
def pgoodOut (d : Dev) : Bool := d.pwr.good

/-- Bits of PWR_STATUS set; a change of trip, uv, ov or guard raises a PLDM event on sensor 28 (R568). -/
def statusEvent (before : Nat) : Act Unit := do
  let d ← look
  onlyIf ((pwrStatus d &&& 0xE4) != (before &&& 0xE4)) (emit (.out (.pldmEvent 28)))

/-! Full reset and loss of power. -/

/-- Both ports' links after a reset (R558): port B stays in reset when STRAP3 reads 1, and a port whose PERST# is low waits for its release. -/
def trainPorts : Act Unit := do
  let d ← look
  let held (q : HostPort) : Bool := d.pins.perst.contains q
  let b := bitOf d.pins.straps 3
  updPins fun x => { x with ports := [(.portA, if held .portA then .reset else .up), (.portB, if b ∨ held .portB then .reset else .up)] }
  onlyIf b (setDom 45 .off)

/-- The full reset (R444, R514) with its cause (R517); one that recovers from a trip reads thermal trip. -/
def fullResetNow (cause : Nat) : Act Unit := do
  let d ← look
  each (d.pins.ports.filter fun x => x.2 == .up || x.2 == .l1) fun x => emit (.out (.linkDown x.1))
  emit (.fullReset true)
  setReg .TOP_RESET_CAUSE 0 0 (if d.pwr.trip then 5 else cause)
  trainPorts
  onlyIf (!d.pwr.good) (emit (.out (.pldmEvent 28)))

/-- Whether every sensor reads below 90 °C (R491). -/
def cooled (d : Dev) : Bool :=
  (List.range 16).all (fun i => bitsOf (regOf d .PWR_DIE_STATUS 0 i) 31 24 < 90) &&
    (List.range 8).all fun i => bitsOf (regOf d .PWR_PILE_STATUS 0 i) 31 24 < 90

/-- Whether a full reset can happen now: not without power, and after a trip only once the module has cooled (R491). -/
def resettable (d : Dev) : Bool := !d.pwr.shut && (!d.pwr.trip || cooled d)

/-- What the domains hold is lost (R479, R491): scratchpads, chucks, vector registers, piles, caches. -/
def loseContents : Act Unit := do
  let d ← look
  each (d.mems.map (·.1)) fun r =>
    match r with
    | .pile | .spad _ | .chuck _ | .vreg _ _ | .barrel _ _ => emit (.drop r)
    | _ => pure ()
  emit (.drop .pile)
  emit (.pmap [])
  each allPiles fun pl => emit (.pile pl Pile.empty)

/-- The module trips (R491), or shuts down as for a trip (R489): every domain but always-on and management is OFF, and the links go down. -/
def tripNow (source unit : Nat) : Act Unit := do
  let d ← look
  let before := pwrStatus d
  moduleError source unit
  loseContents
  let now ← look
  emit (.strike { now.strike with snap := none })
  setReg .STRIKE_LATCH_SEQ 0 0 0
  setField .FW_STATUS 0 0 16 16 0
  emit (.fw { now.fw with
    load := none
    notice := none
    pend := []
    procs := now.fw.procs.map fun x => (x.1, { x.2 with pending := false }) })
  updPwr fun x => { x with
    doms := List.replicate 46 .off ++ [.on, .on, .off, .off]
    wakeQ := []
    gated := []
    good := false
    trip := true }
  each (d.pins.ports.filter fun x => x.2 == .up || x.2 == .l1) fun x => emit (.out (.linkDown x.1))
  updPins fun x => { x with ports := x.ports.map fun q => (q.1, PortSt.down) }
  statusEvent before

/-- Every domain turns off, always-on included, as after power loss (R477, R556). -/
def loseAll (broken : Bool) : Act Unit := do
  let d ← look
  each (d.pins.ports.filter fun x => x.2 == .up || x.2 == .l1) fun x => emit (.out (.linkDown x.1))
  emit (.fullReset false)
  updPwr fun x => { x with
    doms := List.replicate 50 .off
    good := false
    shut := true
    aon := 0 }
  updPins fun x => { x with
    broken := broken
    ports := x.ports.map fun q => (q.1, PortSt.down) }

/-- The power-up sequence to step 3 of R492: always-on, management, fabric and PCIe domains ON, power-good asserted, ROM_WAIT. -/
def powerUp : Act Unit := do
  emit (.fullReset false)
  emit (.pwr Pwr.reset)
  trainPorts
  emit (.out (.pldmEvent 28))

/-- POWER_APPLIED (R492, R554, R566): the straps are latched and the module comes up to ROM_WAIT. -/
def doPowerApplied (straps : Nat) : Act Unit := do
  updPins fun x => { x with
    straps := straps % 16
    broken := false }
  powerUp

/-! Samples of the always-on domain. -/

/-- INPUT_SAMPLE (R477): one AON tick with an input voltage in mV. -/
def doInputSample (mv : Nat) : Act Unit := do
  let d ← look
  if d.pwr.shut then pure ()
  else do
    let before := pwrStatus d
    setField .PWR_INPUT 0 0 31 16 (min mv 65535)
    let e := d.pwr.energy + bitsOf (regOf d .PWR_INPUT_W 0) 11 0
    updPwr fun x => { x with
      aon := x.aon + 1
      energy := e % 25000
      lowRun := (if mv < 36000 then x.lowRun + 1 else 0) }
    count .PWR_ENERGY_MJ 0 (e / 25000)
    onlyIf d.pwr.guard (count .PWR_GUARD_TICKS 0 1)
    onlyIf (throttled d) (count .PWR_THERM_TICKS 0 1)
    if mv < 34000 ∨ 48000 < mv ∨ (mv < 36000 ∧ 25000 ≤ d.pwr.lowRun + 1) then loseAll false
    else do
      onlyIf (decide (mv < 38000)) (orReg .PWR_STATUS 0 0 0x40)
      onlyIf (decide (46000 < mv)) (orReg .PWR_STATUS 0 0 0x20)
      onlyIf (decide (mv < 38000 ∨ 46000 < mv)) (updPwr fun x => { x with guard := true })
      statusEvent before

/-- INPUT_RECOVERY (R477): the input has stayed in range for 100 ms, and the module starts again. With VIN_EN_N broken it draws no current
(R554). -/
def doInputRecovery : Act Unit := do
  let d ← look
  onlyIf (d.pwr.shut && !d.pins.broken) powerUp

/-- VIN_EN_BREAK (R556). -/
def doVinBreak : Act Unit := loseAll true

/-- GUARD_CHECK (R489): one AON tick with the input power of the last 1 ms in W, the current and its average over 256 ticks in 10 mA. -/
def doGuardCheck (watts ca avgCa : Nat) : Act Unit := guarded do
  let d ← look
  let before := pwrStatus d
  setReg .PWR_INPUT_W 0 0 (min watts 4095)
  setField .PWR_INPUT 0 0 15 0 (min ca 65535)
  updPwr fun x => { x with
    hiRun := (if 8000 < ca then x.hiRun + 1 else 0)
    cut := x.cut && decide (max 300 (min 2400 (bitsOf (regOf d .PWR_BUDGET 0) 11 0)) < watts) }
  onlyIf (decide (2400 < watts)) (orReg .PWR_STATUS 0 0 0x10)
  onlyIf (decide (7000 < avgCa ∨ 8000 < ca)) (orReg .PWR_STATUS 0 0 8)
  let mv := bitsOf (regOf d .PWR_INPUT 0) 31 16
  if 8000 < ca ∧ 64 ≤ d.pwr.hiRun + 1 then draw >>= tripNow 8
  else do
    if 2400 < watts ∨ 7000 < avgCa then updPwr fun x => { x with guard := true }
    else onlyIf (d.pwr.guard && decide (watts < 2000) && decide (38000 ≤ mv) && decide (mv ≤ 46000)) do
      updPwr fun x => { x with
        guard := false
        held := none }
      onSome d.pwr.held fun v => setReg .PWR_MOD_RATIO 0 0 v
    statusEvent before

/-- THERMAL_SENSOR_SAMPLE (R490, R491): the hottest sensor of each die and pile in °C; a second sample of 105 °C or more in a row trips the
module. -/
def doThermalSample (dies piles : List Nat) : Act Unit := do
  let d ← look
  if d.pwr.shut then pure ()
  else do
    each (List.range 16) fun i => setField .PWR_DIE_STATUS 0 i 31 24 (min 255 (dies.getD i 0))
    each (List.range 8) fun i => setField .PWR_PILE_STATUS 0 i 31 24 (min 255 (piles.getD i 0))
    let hot := (List.range 16).map (fun i => decide (105 ≤ dies.getD i 0)) ++ (List.range 8).map fun i => decide (105 ≤ piles.getD i 0)
    updPwr fun x => { x with hot := hot }
    let twice := (hot.zip d.pwr.hot).map fun x => x.1 && x.2
    let k := twice.idxOf true
    onlyIf (!d.pwr.trip && twice.any id) (tripNow 7 (if k < 16 then k else k - 16))

/-- The throttle threshold, taken to the nearer limit (R496). -/
def thrC (d : Dev) : Nat := min 95 (max 85 (bitsOf (regOf d .PWR_THERM 0) 7 0))

/-- The hottest sensor of a die and of the pile that serves it (R490). -/
def hottest (d : Dev) (die : Nat) : Nat := max (bitsOf (regOf d .PWR_DIE_STATUS 0 die) 31 24) (bitsOf (regOf d .PWR_PILE_STATUS 0 (die / 2)) 31 24)

/-- THERMAL_LOOP_ADJUST (R490): each die's thermal ratio steps by 16/256. -/
def doThermalAdjust : Act Unit := guarded do
  let d ← look
  each (List.range 16) fun i => do
    let n := dieRatio d i
    let n' := if thrC d ≤ hottest d i then max 16 (n - 16) else if hottest d i + 2 < thrC d then min 256 (n + 16) else n
    setField .PWR_DIE_STATUS 0 i 7 0 (n' - 1)

/-- BAL_ESTIMATE_UPDATE (R487). -/
def doBalEstimate (p : PartId) (watts : Nat) : Act Unit := guarded do
  let d ← look
  onlyIf (procRuns d procBAL) (setReg .PWR_PART_EST 0 p.val (watts % 65536))

/-- BAL_BUDGET_ADJUST (R488, R493): while the guard is engaged the value is held. -/
def doBalBudget (ratio : Nat) : Act Unit := guarded do
  let d ← look
  onlyIf (procRuns d procBAL)
    (if d.pwr.guard then updPwr fun x => { x with held := some (ratio % 256) } else setReg .PWR_MOD_RATIO 0 0 (ratio % 256))

/-! Domains (R479–R483). -/

/-- Whether a domain is held from sleeping (R497). -/
def domHeld (d : Dev) (i : Nat) : Bool := bitOf (regOf d .PWR_DOM_HOLD 0 (i / 32)) (i % 32)

/-- The cores of a core domain (R478). -/
def coresOfDom (i : Nat) : List CoreId := allCores.filter fun c => c.val / 25 == i

/-- Whether a core domain has no work (R480). -/
def domIdle (d : Dev) (i : Nat) : Bool :=
  (d.slots.all fun x => x.1.1.val / 25 != i || x.2.st == .free) && (d.streams.all fun x => x.1.1.val / 25 != i) && !d.pwr.wakeQ.contains i &&
    (d.scrubs.all fun x => x.1.val / 25 != i || x.2.isEmpty)

/-- What a core domain that turns off loses (R479): scratchpads and chucks count as scrubbed; the engines start afresh. -/
def coresOff (i : Nat) : Act Unit := each (coresOfDom i) fun c => do
  emit (.drop (.spad c))
  emit (.drop (.chuck c))
  each allSlots fun k => emit (.drop (.vreg c k))
  let d ← look
  onlyIf (tabFind d.arrs c).isSome (emit (.arr c Arr.empty))
  onlyIf (d.ftabs.any fun t => t.1.1 == c) (dropTables c)

/-- Whether a window is granted on a core of a domain (R480). -/
def Window.inDom (w : Window) (i : Nat) : Bool := w.place.map (·.val / 25) == some i

/-- CORE_DOMAIN_SLEEP_TIMER (R480). -/
def doCoreSleep (i : Nat) : Act Unit := guarded do
  let d ← look
  onlyIf (domOf d i == .on && !domHeld d i && domIdle d i) do
    if bitOf (regOf d .PWR_SLEEP 0) 1 ∧ d.wins.all fun w => !w.inDom i then do
      coresOff i
      setDom i .off
    else setDom i .sleep

/-- Core domains that are waking. -/
def wakingCores (d : Dev) : Nat := ((d.pwr.doms.take 32).filter (· == .waking)).length

/-- DOMAIN_WAKE (R479–R483): core domains that were asked to wake do so in domain order, four at a time; another domain begins when what needs
it has asked. -/
def doDomainWake (i : Nat) : Act Unit := guarded do
  let d ← look
  let asleep := domOf d i == .sleep || domOf d i == .off
  if i < 32 then onlyIf (asleep && d.pwr.wakeQ.head? == some i && decide (wakingCores d < 4)) (updPwr fun x => { x with
    doms := x.doms.set i .waking
    wakeQ := x.wakeQ.filter (· ≠ i) })
  else onlyIf (asleep && d.pwr.wakeQ.contains i) (updPwr fun x => { x with
    doms := x.doms.set i .waking
    wakeQ := x.wakeQ.filter (· ≠ i) })

/-- A domain asked to wake. -/
def askWake (i : Nat) : Act Unit := do
  let d ← look
  onlyIf ((domOf d i == .sleep || domOf d i == .off) && !d.pwr.wakeQ.contains i) (updPwr fun x => { x with wakeQ := setIns x.wakeQ i })

/-- DOMAIN_WAKE_COMPLETE (R479): the domain is ON; a pile that was OFF is then trained (R299), and the library slots of a core domain are loaded
again (R130). -/
def doDomainWoken (i : Nat) : Act Unit := guarded do
  let d ← look
  onlyIf (domOf d i == .waking) do
    setDom i .on
    onlyIf (decide (i < 32)) do
      count .PWR_CORE_WAKES 0 1
      each (coresOfDom i) fun c => do
        reloadTables (envOf d) c
        takeLibrary c
    onlyIf (decide (32 ≤ i) && decide (i < 40)) (updPile (Fin.ofNat 8 (i - 32)) fun x => { x with training := !x.ready })

/-- PILE_SELF_REFRESH_TIMER (R482). -/
def doPileSleep (pl : PileId) : Act Unit := guarded do
  let d ← look
  let i := 32 + pl.val
  onlyIf (domOf d i == .on && !domHeld d i && (pileOf d pl).ready && (pileOf d pl).fences.isEmpty) (setDom i .sleep)

/-- Whether a core has issued nothing and its engines stand idle (R479). -/
def coreIdle (d : Dev) (c : CoreId) : Bool :=
  (allSlots.all fun k => (slotOf d c k).st == .free || (slotOf d c k).st == .waiting) && (arrOf d c).run.isNone && (arrOf d c).q.isEmpty &&
    (arrOf d c).load.isNone && (arrOf d c).passes.isEmpty && (strmQ d c).isEmpty && (vecOf d c).run.isNone && (vecOf d c).q.isEmpty && (latheOf d c).run.isNone && (latheOf d c).q.isEmpty

/-- CORE_CLOCK_GATE (R479): the domain's state does not change. -/
def doClockGate (c : CoreId) : Act Unit := guarded do
  let d ← look
  onlyIf (domOf d (c.val / 25) == .on && coreIdle d c) (updPwr fun x => { x with gated := setIns x.gated c.val })

/-- Whether a work ring holds descriptors not fetched (R483). -/
def ringsWait (d : Dev) : Bool := d.fns.any fun f => f.2.rings.any fun r =>
  r.2.bell != r.2.fetched && bitOf (regOf d .HIF_WRING_CTRL f.1.val r.1.val) 8 && !r.2.stopped

/-- FABRIC_SLEEP (R483). -/
def doFabricSleep : Act Unit := guarded do
  let d ← look
  onlyIf (domOf d 48 == .on && !domHeld d 48 && bitOf (regOf d .PWR_SLEEP 0) 0 && !ringsWait d &&
    (d.pwr.doms.take 40).all fun s => s == .sleep || s == .off) (setDom 48 .sleep)

/-- A doorbell, an admin command or an arriving frame wakes the fabric (R483). -/
def wakeFabric : Act Unit := do
  let d ← look
  onlyIf (domOf d 48 == .sleep) (setDom 48 .on)

/-- PCIE_LINK_L1 (R418, R483): a PCIe domain follows its link's power state. -/
def doLinkL1 (port : HostPort) (enter : Bool) : Act Unit := guarded do
  let d ← look
  let st := tabGet d.pins.ports port .up
  let i := match port with
    | .portA => 44
    | .portB => 45
  if enter then onlyIf (st == .up && !domHeld d i) do
    updPins fun x => { x with ports := tabPut x.ports port .l1 }
    setDom i .sleep
  else onlyIf (st == .l1) do
    updPins fun x => { x with ports := tabPut x.ports port .up }
    setDom i .on

end Sys2Proof.Machine
end

