-- ==== Sys2Proof/Machine/Firmware.lean ====
section
/-! DEFINITION. Firmware processors (file 16): the bundle and its checks (R454, R455), start-up (R456), mailboxes (R453), restarts (R458–R463),
loading a bundle while running (R465, R466) and features (R467, R468). -/

namespace Sys2Proof.Machine

/-- Firmware changed. -/
def updFw (f : Fw → Fw) : Act Unit := do
  let d ← look
  emit (.fw (f d.fw))

/-- A processor changed. -/
def updProc (i : ProcId) (f : Proc → Proc) : Act Unit := updFw fun x => { x with procs := tabPut x.procs i (f (tabGet x.procs i Proc.empty)) }

/-- The port of a function (R2). -/
def portOf (f : FnId) : HostPort := if f.val < 8 then .portA else .portB

/-- Whether a function's host reaches the module: the module has power, the port's link is up and the function is not disabled (R441, R444). -/
def reaches (d : Dev) (f : FnId) : Bool :=
  let st := tabGet d.pins.ports (portOf f) .up
  awake d && (st == .up || st == .l1) && (fnOf d f).st != .disabled

/-- Whether a function is a physical function (R2). -/
def isPf (f : FnId) : Bool := pfs.contains f

/-! The bundle (R454, R455). -/

/-- Fields of a bundle's header. -/
def bundleVersion (b : List Byte) : Nat := fieldAt b 8 4
def bundleSvn (b : List Byte) : Nat := fieldAt b 6 2
def bundleFeatures (b : List Byte) : Nat := fieldAt b 0x10 32
def bundleKey (b : List Byte) : List Byte := (b.drop 0x160).take 64

/-- Component entry `j` of a bundle. -/
def bundleEntry (b : List Byte) (j : Nat) : List Byte := (b.drop (0x40 + 48 * j)).take 48

/-- Where entry `j`'s component lies. -/
def entrySpan (b : List Byte) (j : Nat) : Nat × Nat := (fieldAt (bundleEntry b j) 4 4, fieldAt (bundleEntry b j) 8 4)

/-- The component of entry `j`. -/
def entryComp (b : List Byte) (j : Nat) : List Byte := (b.drop (entrySpan b j).1).take (entrySpan b j).2

/-- The component of a processor. -/
def bundleComp (b : List Byte) (i : Nat) : List Byte :=
  match (List.range 6).find? fun j => fieldAt (bundleEntry b j) 0 1 == i with
  | none => []
  | some j => entryComp b j

/-- Whether bytes of a list are zero. -/
def bytesZero (b : List Byte) (lo n : Nat) : Bool := ((b.drop lo).take n).all (· == 0#8)

/-- The fused key hash slot that a key matches and that is not revoked (R455 check 0x3). -/
def keySlot (d : Dev) (key : List Byte) : Option (Fin 4) :=
  (List.finRange 4).find? fun k => Config.bundleKeyHash k == Config.sm3 key && !bitOf d.sec.revoked k.val

/-- The checks of R455 in order, and the code of the first that fails. -/
def bundleFails (d : Dev) (b : List Byte) (dmaErr : Bool) : Option Nat :=
  let len := fieldAt b 0xC 4
  let js := List.range 6
  if ¬ (fieldAt b 0 4 = 0x57464745 ∧ fieldAt b 4 2 = 1 ∧ bytesZero b 0x30 16 ∧ bytesZero b 0x1E0 32 ∧
      js.all fun j => bytesZero (bundleEntry b j) 1 3) then some 1
  else if ¬ (len = b.length ∧ 512 ≤ len ∧ len ≤ 8388608 ∧
      (js.all fun j => let (o, n) := entrySpan b j; decide (o % 64 = 0 ∧ 64 ≤ n ∧ n ≤ 786432 ∧ o + n ≤ len)) ∧
      js.all fun j => js.all fun k => j == k || !meets (entrySpan b j).1 (entrySpan b j).2 (entrySpan b k).1 (entrySpan b k).2) then some 2
  else if (keySlot d (bundleKey b)).isNone then some 3
  else if !Config.sm2Verify (bundleKey b) (Config.sm3 (b.take 0x1A0)) ((b.drop 0x1A0).take 64) then some 4
  else if bundleSvn b < d.sec.svn then some 5
  else if ¬ js.all fun i => ((js.filter fun j => fieldAt (bundleEntry b j) 0 1 == i).length == 1) then some 6
  else if ¬ js.all fun j => Config.sm3 (entryComp b j) == (bundleEntry b j).drop 16 then some 7
  else if dmaErr then some 8
  else none

/-! Features (R467). -/

/-- The features that the running firmware offers: bits 24 up are never offered. -/
def offered (d : Dev) : Nat := bundleFeatures d.fw.running % 2 ^ 24

/-- A function's active features: the base set until its first FEATURES. -/
def activeFeat (d : Dev) (f : FnId) : Nat := if (fnOf d f).feat = 0 then 0xFFFF else (fnOf d f).feat

/-- Whether a feature is active for a function. -/
def hasFeat (d : Dev) (f : FnId) (k : Nat) : Bool := bitOf (activeFeat d f) k

/-! The measurements that change with firmware (R524). -/

/-- The bundle header measured. -/
def measureHeader (b : List Byte) : Act Unit := do
  let d ← look
  emit (.secState d.sec.nonce d.sec.unlock (Config.sm3 (b.take 0x1E0)) d.sec.comps d.sec.conns)

/-- A component measured. -/
def measureComp (i : Nat) (comp : List Byte) : Act Unit := do
  let d ← look
  emit (.secState d.sec.nonce d.sec.unlock d.sec.header (d.sec.comps.set i (Config.sm3 comp)) d.sec.conns)

/-! Start-up (R456). -/

/-- FW_STATUS.state. -/
def fwState (d : Dev) : Nat := bitsOf (regOf d .FW_STATUS 0) 3 0

/-- FW_LOAD_GO (R456, R472): taken from a PF, in ROM_WAIT or REJECTED. -/
def doFwLoadGo (f : FnId) (value : Nat) : Act Unit := do
  let d ← look
  onlyIf (reaches d f && isPf f && bitOf value 31 && (fwState d == 0 || fwState d == 5)) do
    setField .FW_STATUS 0 0 4 0 (1 + 16 * b2n (decide (8 ≤ f.val)))
    emit (.out (.hostRead f (addrPair d .FW_LOAD_ADDR_LO .FW_LOAD_ADDR_HI 0 0) (regOf d .FW_LOAD_SIZE 0)))

/-- BUNDLE_DMA_COMPLETE (R456): the boot ROM holds the bytes and verifies them. -/
def doBundleDma (bundle : List Byte) (dmaErr : Bool) : Act Unit := guarded do
  let d ← look
  onlyIf (fwState d == 1) do
    updFw fun x => { x with
      pend := bundle
      dmaErr := dmaErr }
    setField .FW_STATUS 0 0 3 0 2

/-- A rejected bundle (R455): its code is recorded, counted and logged. -/
def rejectBundle (code : Nat) : Act Unit := do
  setField .FW_STATUS 0 0 11 8 code
  count .FW_LOAD_REJECTS 0 1
  logEvent 4

/-- The components copied to their private regions and the processors released (R456 step 5). -/
def release (b : List Byte) : List Nat → Act Unit
  | [] => pure ()
  | i :: is => do
    updProc (Fin.ofNat 6 i) fun x => { x with
      st := .running
      comp := bundleComp b i }
    measureComp i (bundleComp b i)
    release b is

/-- BUNDLE_VERIFICATION_DONE (R455, R456): rejected, or the processors start, in the order SEC, SUP, BAL, MEM, LNK, HIF. -/
def doBundleVerified : Act Unit := guarded do
  let d ← look
  onlyIf (fwState d == 2)
    (match bundleFails d d.fw.pend d.fw.dmaErr with
    | some code => do
      rejectBundle code
      setField .FW_STATUS 0 0 3 0 5
      updFw fun x => { x with pend := [] }
    | none => do
      setField .FW_STATUS 0 0 11 8 0
      setField .FW_STATUS 0 0 3 0 3
      updFw fun x => { x with
        running := x.pend
        pend := [] }
      setReg .FW_VERSION 0 0 (bundleVersion d.fw.pend)
      measureHeader d.fw.pend
      release d.fw.pend [4, 5, 1, 3, 2, 0])

/-- PROCESSOR_READY (R456, R457): once HIF is ready the state is READY, and MEM has the piles' domains on and trains them (R299). -/
def doProcReady (i : ProcId) : Act Unit := guarded do
  let d ← look
  onlyIf (fwState d == 3 && procRuns d i && i == procHIF) do
    setField .FW_STATUS 0 0 3 0 4
    each allPiles fun pl =>
      if domOf d (32 + pl.val) = .on then updPile pl fun x => { x with training := !x.ready } else askWake (32 + pl.val)

/-! Mailboxes (R453). -/

/-- MAILBOX_MESSAGE (R453): delivered to a running processor, kept for one that is not; a full queue makes the sender wait. -/
def doMailbox (src dst : ProcId) (msg : List Byte) : Act Unit := guarded do
  let d ← look
  let q := tabGet d.fw.mail (src, dst) []
  onlyIf (procRuns d src && src != dst && decide (q.length < 32))
    (if procRuns d dst then updProc dst fun x => { x with inbox := x.inbox ++ [(src, msg)] }
    else updFw fun x => { x with mail := tabPut x.mail (src, dst) (q ++ [msg]) })

/-- The messages that waited for a processor, delivered (R453). -/
def takeMail (dst : ProcId) : Act Unit := each (List.finRange 6) fun src => do
  let d ← look
  let q := tabGet d.fw.mail (src, dst) []
  onlyIf (!q.isEmpty) do
    updProc dst fun x => { x with inbox := x.inbox ++ q.map fun m => (src, m) }
    updFw fun x => { x with mail := tabDel x.mail (src, dst) }

/-! Restarts (R458–R463). -/

/-- A processor's restart begins (R459): its private region is zeroed; one that is restarting goes on (R464). One that no load asked for is
logged at level 0 (R476). -/
def restartProc (i : ProcId) (load : Bool) : Act Unit := do
  let d ← look
  onlyIf ((procOf d i).st == .running) do
    updProc i fun x => { x with
      st := .restarting
      inbox := [] }
    count .FW_RESTART 0 1 i.val
    if load then logEvent 5 else logAt 0 5 none

/-- PROCESSOR_FAULT (R452, R458). -/
def doProcFault (i : ProcId) (why : ProcFault) : Act Unit := guarded (if why = .sharedWord then moduleError 4 i.val else restartProc i false)

/-- PROCESSOR_WATCHDOG_EXPIRY (R458). -/
def doProcWatchdog (i : ProcId) : Act Unit := guarded (restartProc i false)

/-- FW_PROC_RESTART (R458, R473): a PF writes FW_PROC_CTRL. -/
def doProcRestart (f : FnId) (value : Nat) : Act Unit := do
  let d ← look
  onlyIf (reaches d f && isPf f) (each (List.finRange 6) fun i =>
    onlyIf (bitOf value i.val) do
      orReg .FW_PROC_CTRL 0 0 (2 ^ i.val)
      onlyIf ((procOf d i).st == .running || (procOf d i).st == .restarting) (restartProc i false))

/-- Whether BAL is handling a power or thermal emergency (R466). -/
def emergency (d : Dev) : Bool :=
  let mv := bitsOf (regOf d .PWR_INPUT 0) 31 16
  (List.range 16).any (fun i => decide (95 ≤ bitsOf (regOf d .PWR_DIE_STATUS 0 i) 31 24)) ||
    (List.range 8).any (fun i => decide (95 ≤ bitsOf (regOf d .PWR_PILE_STATUS 0 i) 31 24)) ||
    (mv != 0 && (decide (mv < 38000) || decide (46000 < mv))) || decide (2400 < bitsOf (regOf d .PWR_INPUT_W 0) 11 0) || d.pwr.cut

/-- The order of activations (R465): SUP, MEM, LNK, HIF, SEC, BAL. -/
def actOrder : List Nat := [5, 3, 2, 0, 4, 1]

/-- The completion of FW_LOAD (R465). -/
def fwResult (d : Dev) (l : FwLoad) : Nat :=
  bundleVersion d.fw.pend + ((l.done.map fun i => 2 ^ i).foldl (· + ·) 0) * 2 ^ 32 + b2n (bitOf (regOf d .FW_STATUS 0) 16) * 2 ^ 40

/-- The FW_LOAD in progress goes on (R465, R466): the completion once only a deferred BAL is left, the new bundle running once nothing is
left, else the next activation, deferred when it is BAL's in an emergency. -/
def loadProgress : Act Unit := do
  let d ← look
  onSome d.fw.load fun l => do
    onlyIf (l.act.head? == some 1 && procRuns d procBAL && emergency d) (setField .FW_STATUS 0 0 16 16 1)
    let d ← look
    if bitOf (regOf d .FW_STATUS 0) 16 ∨ l.act.isEmpty then do
      onlyIf (!l.told && procRuns d procHIF) do
        adminPost l.f (adminBytes l.tag 0 0 0 (fwResult d l))
        updFw fun x => { x with load := some { l with told := true } }
      onlyIf (l.act.isEmpty && (l.told || procRuns d procHIF)) do
        setReg .FW_VERSION 0 0 (bundleVersion d.fw.pend)
        measureHeader d.fw.pend
        updFw fun x => { x with
          running := x.pend
          pend := []
          load := none }
    else onSome l.act.head? fun i => do
      let p := Fin.ofNat 6 i
      if (procOf d p).st = .halted then do
        updProc p fun x => { x with
          st := .restarting
          inbox := []
          times := [] }
        count .FW_RESTART 0 1 i
        logEvent 5
      else restartProc p true

/-- FW_LOAD (R455, R465, R468): refused with a reason, or the activations begin. The answer is the status and reason of a refusal. -/
def startLoad (f : FnId) (tag : Nat) (b : List Byte) (dmaErr renegotiate : Bool) : Act (Option (Nat × Nat)) := do
  let d ← look
  let none_ := d.parts.all fun x => !x.2.alive
  let feat := bundleFeatures b % 2 ^ 24
  let keeps := allFns.all fun g => activeFeat d g &&& feat == activeFeat d g
  let code := match bundleFails d b dmaErr with
    | some c => c
    | none => if !keeps && !(renegotiate && none_) then 9 else 0
  setField .FW_STATUS 0 0 4 4 (b2n (decide (8 ≤ f.val)))
  if code ≠ 0 then do
    rejectBundle code
    pure (some (1, code))
  else do
    setField .FW_STATUS 0 0 11 8 0
    onlyIf (renegotiate && none_) (each allFns fun g => do
      let d ← look
      emit (.fn g { fnOf d g with feat := 0 }))
    let act := actOrder.filter fun i =>
      let p := procOf d (Fin.ofNat 6 i)
      Config.sm3 p.comp != Config.sm3 (bundleComp b i) || p.st == .halted
    setField .FW_STATUS 0 0 16 16 0
    updFw fun x => { x with
      pend := b
      load := some ⟨f, tag, act, [], false⟩ }
    each (List.range 6) fun i => updProc (Fin.ofNat 6 i) fun x => { x with pending := act.contains i }
    loadProgress
    pure none

/-- The fence of R461 lifted when MEM runs again: the partitions' tables are enabled once their fences are set. -/
def liftRoots : Act Unit := do
  takeFences
  let d ← look
  each (d.parts.filter fun x => x.2.alive && !x.2.frames.isEmpty) fun x => onlyIf (!bitOf (regOf d .PILE_MMU_ROOT_LO x.1.val) 0) do
    setField .PILE_MMU_ROOT_LO x.1.val 0 0 0 1
    latchRegs x.1 [(.PILE_MMU_ROOT_LO, 0)]

/-- PROCESSOR_RESTART_COMPLETE (R459, R463, R465): SEC has checked the component's digest; a processor restarted more than 4 times within
600 s is held HALTED, as is one whose stored component no longer matches. -/
def doRestartDone (i : ProcId) (second : Nat) : Act Unit := guarded do
  let d ← look
  let x := procOf d i
  onlyIf (x.st == .restarting && (i == procSEC || procRuns d procSEC)) do
    let activating := (d.fw.load.map fun l => l.act.head? == some i.val && !(bitOf (regOf d .FW_STATUS 0) 16 && i == procBAL)).getD false
    let store := if activating ∨ Config.sm3 (bundleComp d.fw.running i.val) ≠ Config.sm3 x.comp then d.fw.pend else d.fw.running
    let comp := bundleComp store i.val
    let entry := ((List.range 6).find? fun j => fieldAt (bundleEntry store j) 0 1 == i.val).map (bundleEntry store)
    let times := second :: x.times.filter fun t => decide (second < t + 600)
    setReg .FW_PROC_CTRL 0 0 (regOf d .FW_PROC_CTRL 0 &&& (63 - 2 ^ i.val))
    if (4 < times.length ∧ !activating) ∨ entry.map (·.drop 16) ≠ some (Config.sm3 comp) then do
      updProc i fun y => { y with
        st := .halted
        times := times
        pending := false }
      logEvent 5
      onlyIf (i == procHIF || i == procSEC) (moduleError 5 i.val)
    else do
      updProc i fun y => { y with
        st := .running
        times := times
        comp := comp
        pending := (if activating then false else y.pending) }
      takeMail i
      onlyIf (i == procMEM) liftRoots
      onlyIf activating do
        measureComp i.val comp
        count .FW_ACTIVATIONS 0 1
        logEvent 5
        updFw fun y => { y with load := y.load.map fun l => { l with
          act := l.act.tail
          done := l.done ++ [i.val] } }
    loadProgress

/-- BAL_ACTIVATION_DUE (R466): no emergency has held for 1 s. -/
def doBalDue : Act Unit := guarded do
  let d ← look
  onSome d.fw.load fun l => onlyIf (bitOf (regOf d .FW_STATUS 0) 16 && l.act.head? == some 1 && !emergency d) do
    setField .FW_STATUS 0 0 16 16 0
    restartProc procBAL true

/-! The log (R469). -/

/-- LOG_APPEND (R469, R470): an entry from a running processor. -/
def doLogAppend (e : LogReq) : Act Unit := guarded do
  let d ← look
  onlyIf (procRuns d e.proc) (logAppend e.proc.val e.level.val e.point.toNat e.part e.payload)

end Sys2Proof.Machine
end

