-- ==== Sys2Proof/Machine/Perturb.lean ====
section
/-! DEFINITION. Perturbation by debug registers (file 20, R543–R549): settings of a block, what their change releases, injections armed, and
the end of an unlock (R532). -/

namespace Sys2Proof.Machine

/-- The kind of a block, by its number (R541). -/
inductive BlkKind where
  | core | die | pile | link | other
  deriving DecidableEq, Repr

/-- The kind of a block number (R541). -/
def kindOf (b : Nat) : BlkKind :=
  if b < 0x320 then .core else if b < 0x330 then .die else if b < 0x338 then .pile else if b < 0x378 then .link else .other

/-- A held credit of a block reaches its holder (R545): a stream's credit by being held no longer, a fabric credit by its return, a link
credit by the next link frame. -/
def freeHeld (block : Nat) (h : Nat × Nat) : Act Unit :=
  match h.1 with
  | 2 => giveBack 1 1
  | 3 => freeNow (Fin.ofNat 64 (block - 0x338)) h.2
  | _ => pure ()

/-- Credits of a block released: as many of the oldest withheld as the setting no longer covers, and the delayed ones when they are not to
wait any longer (R544, R545). -/
def releaseHeld (block keep : Nat) (delayed : Bool) : Act Unit := do
  let d ← look
  let b := dbgOf d block
  let n := b.withheld.length - keep
  let out := b.withheld.take n ++ (if delayed then b.delayed else [])
  onlyIf (!out.isEmpty) do
    emit (.dbg block { b with
      withheld := b.withheld.drop n
      delayed := if delayed then [] else b.delayed })
    each out (freeHeld block)

/-- The credit setting of a block written (R544, R545): another kind or index releases everything held, a shorter or removed delay what is
delayed, a lower count what exceeds it. -/
def setCredit (block v : Nat) : Act Unit := do
  let d ← look
  let old := (dbgOf d block).crd
  let same := bitsOf old 31 24 == bitsOf v 31 24
  updDbg block fun x => { x with crd := v }
  releaseHeld block (if same then bitsOf v 23 16 else 0) (!same || decide (bitsOf v 15 0 < bitsOf old 15 0))

/-- The latency setting of a block written (R546). -/
def setLatency (block v : Nat) : Act Unit := updDbg block fun x => { x with lat := v }

/-- Whether an injection of a mode on a path is made in a block (R547). -/
def injectionOk (block path mode : Nat) : Bool :=
  match path, kindOf block with
  | 0, .core => decide (mode ≤ 1)
  | 1, .pile => decide (mode ≤ 2)
  | 2, .link => mode == 0
  | 3, .core | 3, .die | 3, .pile => mode == 0
  | _, _ => false

/-- A write to DBG_PAR within an unlock (R547, R551): its fields are kept, and with go the injection is armed, or refused. -/
def setInjection (block v : Nat) : Act Unit := do
  setReg .DBG_PAR block 0 (v &&& 0x7C1F00FF)
  onlyIf (bitOf v 31)
    (if injectionOk block (bitsOf v 27 26) (bitsOf v 30 28) && bitsOf v 7 0 != 0 then updDbg block fun x => { x with
      inj := bitsOf v 7 0
      mode := bitsOf v 30 28
      path := bitsOf v 27 26
      lane := bitsOf v 20 16 }
    else count .DBG_REFUSED 0 1)

/-- Every setting of a block returns to 0 and everything it holds is released (R532, R543, R549); what has been injected stands. -/
def undoBlock (block : Nat) : Act Unit := do
  releaseHeld block 0 true
  updDbg block fun x => { DbgBlk.empty with marks := x.marks }
  setReg .DBG_PAR block 0 1

/-- The unlock ends (R532, R549). -/
def endUnlock : Act Unit := do
  let d ← look
  onlyIf d.sec.unlock.isSome do
    each (d.dbg.map (·.1)) undoBlock
    let d ← look
    each (d.regs.filter fun r => r.1.name == .DBG_PAR) fun r => emit (.reg r.1 r.1.reset)
    emit (.secState d.sec.nonce none d.sec.header d.sec.comps d.sec.conns)
    setReg .SEC_DEBUG_STATUS 0 0 (regOf d .SEC_DEBUG_STATUS 0 &&& 0xF0)
    setReg .SEC_DEBUG_LEFT 0 0 0

/-- A partition's creation or destruction ends an unlock that names it (R532). -/
def endUnlockOf (p : PartId) : Act Unit := do
  let d ← look
  onSome d.sec.unlock fun u => onlyIf (bitOf u.2 p.val) endUnlock

/-- CREDIT_DELAY_EXPIRY (R544): the oldest delayed credit of a block reaches its holder. -/
def doCreditDelay (block : Nat) : Act Unit := do
  let d ← look
  match (dbgOf d block).delayed with
  | [] => pure ()
  | h :: hs => do
    updDbg block fun x => { x with delayed := hs }
    freeHeld block h

/-- What a FLR or the orphan policy undoes on a partition's cores (R549). -/
def undoCores (p : PartId) : Act Unit := do
  let d ← look
  each ((d.dbg.map (·.1)).filter fun b => kindOf b == .core && coreWithin d b (2 ^ p.val)) undoBlock

end Sys2Proof.Machine
end

