-- ==== Sys2Proof/Machine/Jobs.lean ====
section
/-! DEFINITION. What a job holds and how it ends: scratchpad grants and their scrub (R105, R110, R111), eviction and restore (R108, R109,
R112), cores joining and leaving a partition (R75, R114, R115, R130, R403), the end of a job (R441, R445), and functions that disappear
(R206, R319, R438–R441). -/

namespace Sys2Proof.Machine

/-! Scratchpad slots (R105, R111). -/

/-- The windows of the module changed. -/
def updWins (f : List Window → List Window) : Act Unit := do
  let d ← look
  emit (.wins (f d.wins))

/-- Whether a window holds a slot of a core: where it lies, or where its restore brings it. -/
def Window.holds (w : Window) (c : CoreId) (s : Nat) : Bool :=
  match w.st with
  | .evicted => false
  | .restoring => w.newCore == c && decide (w.newBase ≤ s) && decide (s < w.newBase + w.size)
  | _ => w.core == c && decide (w.base ≤ s) && decide (s < w.base + w.size)

/-- Whether a slot of a core is being scrubbed. A slot is listed as its number, or as its number + 64 when a class 3 grant returns with
it. -/
def inScrub (d : Dev) (c : CoreId) (s : Nat) : Bool := (tabGet d.scrubs c []).contains s

/-- Whether `n` slots from `base` can be granted on a core: held by no window, and, unless the grant may wait for it, not being scrubbed or about to be
(R112). -/
def slotsFit (d : Dev) (c : CoreId) (base n : Nat) (waits : Bool) : Bool :=
  decide (base + n ≤ 64) && (List.range n).all fun i => !(d.wins.any fun w => w.holds c (base + i) && !(waits && w.release)) &&
    (waits || !inScrub d c (base + i))

/-- Slots handed to the scrub (R111). -/
def startScrub (c : CoreId) (base n : Nat) : Act Unit := do
  let d ← look
  emit (.scrubs c (tabGet d.scrubs c [] ++ (List.range n).map fun i => base + i))
  wakeCore c

/-- SCRUB_COMPLETE (R111): the slots and their chuck share are zero with fresh parity, and their grants return. -/
def doScrubDone (c : CoreId) (first n waits : Nat) : Act Unit := guarded do
  let d ← look
  let ss := tabGet d.scrubs c []
  let mine (s : Nat) : Bool := decide (first ≤ s) && decide (s < first + n)
  onlyIf ((List.range n).all fun i => inScrub d c (first + i))
    (if domOf d (c.val / 25) ≠ .on then askWake (c.val / 25)
    else do
      count .CORE_FREEZE_BANK c.val waits
      emit (.zero (.spad c) (first * 65536) (n * 65536))
      clearBad (.spad c) (first * 65536) (n * 65536)
      emit (.zero (.chuck c) (first * 4096) (n * 4096))
      clearBad (.chuck c) (first * 4096) (n * 4096)
      onlyIf ((dbgOf d c.val).marks.any fun m => decide (first * 8192 ≤ m.1) && decide (m.1 < (first + n) * 8192))
        (updDbg c.val fun x => { x with marks := x.marks.filter fun m => !(decide (first * 8192 ≤ m.1) && decide (m.1 < (first + n) * 8192)) })
      emit (.scrubs c (ss.filter fun s => !mine s))
      giveBack 3 (ss.filter mine).length)

/-! Windows (R105–R112). -/

/-- The tasks that are on a window's slots, or suspended there. -/
def windowTasks (d : Dev) (w : Window) : List Task :=
  (tasksOf d w.part).filter fun t => !t.over && t.begun &&
    (if w.arena then (t.arena.map fun a => a.1 == w.core).getD false else t.win == w.id)

/-- A window that is to be released (R105, R110, R112): once no task is there, the streams whose rings lie in it are cancelled (R172), and
then its slots are scrubbed, an arena's window like any other. An evicted window holds no slots: the credits of the streams that left with it
return. -/
def releaseWindow (w : Window) : Act Unit := do
  let d ← look
  onlyIf ((w.st == .granted || w.st == .evicted) && (windowTasks d w).isEmpty) do
    let here (c : CoreId) (x : Stream) : Bool := w.st == .granted && c == w.core && x.ringIn (w.base * 65536) (w.size * 65536)
    cancelStreams fun c x => here c x && (match x.mode with
      | .cancel _ => false
      | _ => true)
    let d ← look
    onlyIf (!(d.streams.any fun y => here y.1.1 y.2)) do
      updWins fun ws => ws.erase w
      each w.strms fun sx => giveBack 0 sx.2.desc.ccount
      onlyIf (w.st == .granted) (startScrub w.core w.base w.size)

/-- Every window that is to be released goes on. -/
def winProgress : Act Unit := do
  let d ← look
  each (d.wins.filter (·.release)) releaseWindow

/-- The admin command that waited for a window completes (R434). -/
def tellWindow (w : Window) (status : Nat) : Act Unit := onSome w.who fun (f, tag) => adminPost f (adminBytes tag status 0 0 0)

/-- Whether a window holds an accumulator of a slice of its partition (R245). -/
def holdsAccumulator (d : Dev) (p : PartId) (w : Window) : Bool :=
  (escOf d p).slices.any fun (s : Slice) => s.elems != 0 && s.core == w.core.val && decide (w.base * 65536 ≤ s.acc) &&
    decide (s.acc < (w.base + w.size) * 65536)

/-- An eviction begins (R108): the tasks of the window are pre-empted and its streams stop issuing. -/
def startEvict (w : Window) (area : Nat) (who : Option (FnId × Nat)) : Act Unit := do
  updWins fun ws => ws.map fun x => if x = w then { x with
    st := .evicting
    area := area
    who := who } else x
  let d ← look
  each (windowTasks d w) fun t => onSome t.core fun (c, k) => preemptSlot c k (.eviction w.id)
  pauseStreams w.core (w.base * 65536) (w.size * 65536)

/-- A window's image: its slots and then its chuck share, with the poisoned words (R108). -/
def windowImage (d : Dev) (w : Window) : List Byte × List Nat :=
  let a := w.base * 65536
  let n := w.size * 65536
  (bytesOf d (.spad w.core) a n ++ bytesOf d (.chuck w.core) (w.base * 4096) (w.size * 4096),
    relBad d (.spad w.core) a n ++ (relBad d (.chuck w.core) (w.base * 4096) (w.size * 4096)).map (· + n / 8))

/-- Whether a message of a SEND of the window's tasks is still to be accepted: it carries on outside its slot, from the window (R400). -/
def windowSends (d : Dev) (w : Window) : Bool :=
  let ids := (windowTasks d w).map (·.tid)
  let mine (o : Owner) : Bool := match o with
    | .task _ p tid _ _ _ => p == w.part && ids.contains tid
    | _ => false
  d.chans.any fun ic => ic.2.jobs.any (fun j => mine j.owner) || ic.2.sents.any (fun j => mine j.owner)

/-- EVICTION_COMPLETE (R108, R183): the image is in the eviction area, and the slots go to the scrub. It waits for the window's tasks to be
saved, for its streams' reads and writes in flight, and, as the window holds what they send, for SENDs that carry on (DESIGN CHOICE, log
entry 116). -/
def doEvictDone (id : Nat) : Act Unit := guarded do
  let d ← look
  onSome (d.wins.find? fun w => w.id == id && !w.arena && w.st == .evicting) fun w =>
    onlyIf ((windowTasks d w).all (fun t => t.core.isNone) && !windowFlying d w.core (w.base * 65536) (w.size * 65536) && !windowSends d w) do
      let (bs, bad) := windowImage d w
      match ← vaWrite (envOf d w.part) w.part {} w.area bs bad with
      | .error _ => pure ()
      | .ok _ => do
        let d ← look
        let xs ← takeStreams w.core (w.base * 65536) (w.size * 65536)
        updWins fun ws => ws.map fun x => if x = w then { x with
          st := .evicted
          strms := xs
          who := none } else x
        startScrub w.core w.base w.size
        tellWindow w 0

/-- Bytes put into a memory with the words among them that are poisoned. -/
def putImage (r : Region) (a : Nat) (bs : List Byte) (bad : List Nat) : Act Unit := do
  emit (.write r a bs)
  clearBad r a bs.length
  addBad r (bad.map (· + a / 8))

/-- Whether the streams of an evicted window can be armed on a core: none of their numbers is armed there (R109, R183). -/
def streamsMove (d : Dev) (w : Window) (c : CoreId) : Bool := w.strms.all fun sx => (streamOf d c sx.1).isNone

/-- An offset of a restored window's old place, at its new one (R109). -/
def Window.moved (w : Window) (a : Nat) : Nat := a - w.base * 65536 + w.newBase * 65536

/-- What is held outside the slots for the tasks of a restored window moves with them (R109): the core of their images, parked RECVs, and the
rounds they have open. -/
def moveTasks (w : Window) : Act Unit := do
  let d ← look
  let ts := (windowTasks d w).filter fun t => t.image.isSome
  let mine (p : PartId) (tid : Nat) : Bool := p == w.part && ts.any fun t => t.tid == tid
  each ts fun t => onSome t.image fun im => emit (.task w.part t.tid (some { t with image := some { im with core := w.newCore } }))
  each d.chans fun ic => onlyIf (ic.2.recvs.any fun (r : RecvJob) => mine r.p r.tid) (setChan ic.1 { ic.2 with
    recvs := ic.2.recvs.map fun (r : RecvJob) => if mine r.p r.tid then { r with
      c := w.newCore
      status := w.moved r.status
      dst := if r.va then r.dst else w.moved r.dst } else r })
  each d.xchs fun ix => onlyIf (ix.2.rounds.any fun (r : Round) => mine r.p r.tid) (setXch ix.1 { ix.2 with
    rounds := ix.2.rounds.map fun (r : Round) => if mine r.p r.tid then { r with
      c := w.newCore
      base := w.moved r.base } else r })

/-- RESTORE_COMPLETE (R109): the image is copied back, and the window's streams and tasks move to the new core. -/
def doRestoreDone (id : Nat) : Act Unit := guarded do
  let d ← look
  onSome (d.wins.find? fun w => w.id == id && !w.arena && w.st == .restoring) fun w =>
    onlyIf (domOf d (w.newCore.val / 25) == .on && streamsMove d w w.newCore) do
      let n := w.size * 65536
      match ← vaRead (envOf d w.part) w.part {} w.area (n + w.size * 4096) with
      | .error _ => pure ()
      | .ok (bs, bad) => do
        putImage (.spad w.newCore) (w.newBase * 65536) (bs.take n) (bad.filter fun i => decide (i < n / 8))
        putImage (.chuck w.newCore) (w.newBase * 4096) (bs.drop n) ((bad.filter fun i => decide (n / 8 ≤ i)).map (· - n / 8))
        putStreams w.newCore (w.base * 65536) (w.newBase * 65536) w.strms
        moveTasks w
        updWins fun ws => ws.map fun x => if x = w then { x with
          st := .granted
          core := w.newCore
          base := w.newBase
          strms := []
          who := none } else x
        tellWindow w 0

/-! Cores of a partition (R75, R114, R115, R130, R403). -/

/-- A core joins a partition: its owner bit, what firmware sets for the basic level (R150), and the library (R130). A governor table has not
been loaded for the partition there (R115, R143). -/
def joinCore (p : PartId) (c : CoreId) : Act Unit := do
  orReg .CORE_OWNER c.val 0 (2 ^ p.val)
  let d ← look
  onlyIf (!(partOf d p).expert) do
    setReg .CORE_GOV_CTRL c.val p.val 1
    basicCores [c]
  updRun p fun r => { r with govOff := setIns r.govOff c.val }
  loadLibrary c

/-- The cores that a partition's mask names and that have not joined it, join (R402, R413). Retired cores leave the mask (R13). -/
def joinCores (p : PartId) : Act Unit := do
  let d ← look
  onlyIf (partOf d p).alive do
    each d.retired fun c => onlyIf (bitOf (regOf d .SCHED_CORE_MASK p.val (c / 32)) (c % 32)) (setField .SCHED_CORE_MASK p.val (c / 32) (c % 32) (c % 32) 0)
    let d ← look
    each allCores fun c => onlyIf (inMask d p c && !bitOf (regOf d .CORE_OWNER c.val) p.val) (joinCore p c)

/-- What a core still has of a partition: tasks, windows, slots under scrub. -/
def coreHas (d : Dev) (p : PartId) (c : CoreId) : Bool :=
  d.slots.any (fun x => x.1.1 == c && x.2.st != .free && x.2.part == p) || d.wins.any (fun w => w.part == p && w.core == c && w.st != .evicted) ||
    (tasksOf d p).any (fun t => (t.arena.map fun a => a.1 == c).getD false) ||
    d.streams.any (fun y => y.1.1 == c && y.2.part == p) || (arrOf d c).passes.any (fun r => r.own.part == p) ||
    (regOf d .CORE_OWNER c.val == 2 ^ p.val && !(tabGet d.scrubs c []).isEmpty)

/-- A core leaves a partition (R75, R115): the partition's copies return to their reset values, and the last partition's operands and records go
with it. -/
def leaveCore (p : PartId) (c : CoreId) : Act Unit := do
  let d ← look
  let left := regOf d .CORE_OWNER c.val &&& (65535 - 2 ^ p.val)
  setReg .CORE_OWNER c.val 0 left
  each (d.regs.filter fun r => r.1.name.perPart && r.1.unit == c.val && r.1.idx == p.val) fun r => emit (.reg r.1 r.1.reset)
  each (d.evs.filter fun e => e.1.1 == c && e.1.2.1 == p) fun e => emit (.ev c p e.1.2.2 0)
  onlyIf (left == 0) do
    onlyIf (tabFind d.arrs c).isSome (emit (.arr c Arr.empty))
    each allSlots fun k => onlyIf (tabFind d.slots (c, k)).isSome (emit (.slot c k { Slot.empty with epoch := (slotOf d c k).epoch + 1 }))

/-- Cores outside a partition's mask leave it once nothing of the partition is there (R403, R406). -/
def leaveCores : Act Unit := do
  let d ← look
  each (d.regs.filter fun r => r.1.name == .CORE_OWNER && r.2 != 0#32) fun r => each allParts fun p => do
    let d ← look
    let c : CoreId := Fin.ofNat 800 r.1.unit
    onlyIf (bitOf (regOf d .CORE_OWNER c.val) p.val && !inMask d p c && !coreHas d p c) (leaveCore p c)

/-! The end of a job (R441, R445). -/

/-- A window at the end of its job (R112): an eviction or a restore stops, and what is granted is released. -/
def Window.ended (w : Window) : Window :=
  match w.st with
  | .evicting => { w with
    st := .granted
    release := true
    who := none }
  | .restoring => { w with
    st := .granted
    core := w.newCore
    base := w.newBase
    release := true
    who := none }
  | _ => { w with
    release := true
    who := none }

/-- The runs of pool sectors that a partition's barrel entries hold: addresses and bytes (R285). -/
def entRuns (d : Dev) (p : PartId) : List (Nat × Nat) :=
  ((barrelOf d p).ents.filter fun (e : Ent) => !e.spills).flatMap fun e => e.frames.filterMap fun f => f.place.map fun a => (a, 64 * f.size)

/-- Runs of sectors that no fence covers yet go to the scrubber (R219, R301). -/
def fenceRuns (runs : List (Nat × Nat)) : Act Unit := each runs fun r => do
  let d ← look
  onlyIf (!fenced d r.1 r.2) (setFence r.1 r.2 0)

/-- The end of a partition's job: it abandons a step that it has not passed, and of one that it has passed only the state goes (R270; R18, R110, R172, R219, R271, R351, R385, R411, R441, R549): `by_` is the function that ends it, `reset` whether a reset or
the orphan policy does. While MEM does not run the partition's tables are turned off (R461). -/
def endJob (p : PartId) (by_ : Option FnId) (reset : Bool) : Act Unit := do
  let d ← look
  let runs := entRuns d p
  each ((fnsOf d p).filter fun f => some f != by_) fun f => notice f 3 p.val
  onlyIf reset do
    orReg .TOP_ERR_STATUS 0 0 8
    logAny 0 (some p)
    undoCores p
  let d ← look
  let passed := !((escOf d p).st == .running || (escOf d p).st == .idle)
  onlyIf (!passed) (abandonStep p)
  let d ← look
  onSome (partOf d p).step fun _ => closeStep p (if passed then 2 else 1)
  abortTasks p 0x19
  let d ← look
  each (runOf d p).items fun i => postItem p i 0x19
  each (tasksOf d p) fun t => emit (.task p t.tid none)
  updRun p fun r => { r with
    crit := []
    defer := []
    banks := []
    items := [] }
  updPart p fun y => { y with
    ctxUsed := []
    running := false
    held := false
    susp := false
    begin? := none
    heads := []
    skip := none
    lastRing := none }
  let d ← look
  each (d.chans.filter fun ic => ic.2.part == p) fun ic => chanKill ic.1
  dropRounds fun r => r.p == p
  let d ← look
  each d.xchs fun ix => onlyIf (ix.2.q.any fun q => q.p == p) (setXch ix.1 { ix.2 with q := ix.2.q.filter fun q => q.p != p })
  cancelStreams fun _ x => x.part == p
  let d ← look
  each (d.wins.filter fun w => w.part == p) fun w => tellWindow w 6
  updWins fun ws => ws.map fun w => if w.part = p then w.ended else w
  winProgress
  onlyIf (!procRuns d procMEM) do
    setField .PILE_MMU_ROOT_LO p.val 0 0 0 0
    latchRegs p [(.PILE_MMU_ROOT_LO, 0)]
  scrubAllocs p fun a => decide (a.owner ≤ 1)
  onlyIf reset (fenceRuns runs)
  onlyIf (!(partOf d p).expert) (each [.UPD_GOV_LO, .UPD_GOV_HI, .UPD_HIST_LO, .UPD_HIST_HI] fun n => setReg n p.val 0 0)
  endEsc p
  updRun p fun r => { r with gov := [] }

/-- The end policy applies to an orphaned partition (R439, R440): what its functions' hold queues hold is lost with the job. -/
def endPolicy (p : PartId) : Act Unit := do
  let d ← look
  each (fnsOf d p) fun f => do
    let d ← look
    emit (.fn f { fnOf d f with
      hold := []
      full := false })
  updPart p fun y => { y with gone := true }
  endJob p none true
  scrubEsc p

/-! Functions that disappear (R438–R441). -/

/-- The tier-2 targets and spill areas behind a function are lost (R206, R319). -/
def fnTargetsLost (f : FnId) : Act Unit := do
  let d ← look
  let names (b : List Byte) : Bool := fieldAt b 0 1 % 4 == 1 && fieldAt b 1 1 % 16 == f.val
  each d.runs fun (p, r) => onlyIf (r.t2.any names) (updRun p fun r => { r with
    t2lost := ((List.range r.t2.length).filter fun i => names (r.t2.getD i [])).foldl setIns r.t2lost })
  targetLost fun _ q => q.tag.isNone && q.tgt == f.val
  each d.parts fun (p, y) => onlyIf (y.alive && spillsTo d p 1 f.val 16) (spillTargetGone p)

/-- A function's place in its partition goes with its rings: a STEP_BEGIN that waits, a ring that is being skipped, and
what is still to be fetched of the step in flight. -/
def dropRings (f : FnId) : Act Unit := do
  let d ← look
  onSome (fnOf d f).part fun p => updPart p fun y => { y with
    begin? := (if (y.begin?.map (·.fn)) = some f then none else y.begin?)
    skip := (if (y.skip.map (·.1)) = some f then none else y.skip)
    heads := y.heads.filter fun h => h.1 != f
    step := y.step.map fun s => if s.fn = f then { s with cut := true } else s }

/-- A function reset or disabled (R441, R445, R578). -/
def resetFn (f : FnId) (after : FnSt) : Act Unit := do
  let d ← look
  let x := fnOf d f
  each (d.wins.filter fun w => (w.who.map (·.1)) == some f) fun w => tellWindow w 6
  updWins fun ws => ws.map fun w => if (w.who.map (·.1)) = some f then { w with who := none } else w
  updFw fun y => { y with load := y.load.map fun l => if l.f = f then { l with told := true } else l }
  let d ← look
  emit (.fn f { fnOf d f with st := .resetting })
  onSome x.part fun p => onlyIf ((partOf d p).running && ((partOf d p).jobFn == f || (partOf d p).held)) (endJob p (some f) true)
  dropRings f
  fnTargetsLost f
  emit (.drop (.admin f))
  emit (.wipeFn f)
  emit (.latch f none)
  emit (.fn f { Fn.empty with
    st := after
    part := x.part })

/-- A function is orphaned (R438–R440, R578), and with the last of its functions its partition (R439). -/
def orphanFn (f : FnId) : Act Unit := do
  let d ← look
  let x := fnOf d f
  onlyIf (x.st == .active) (onSome x.part fun p => do
    dropRings f
    emit (.wipeFn f)
    emit (.latch f none)
    emit (.fn f { x with
      st := .orphaned
      rings := []
      adb := 0
      aDone := 0
      live := none
      same := 0
      feat := 0 })
    fnTargetsLost f
    let d ← look
    let y := partOf d p
    onlyIf ((fnsOf d p).all fun g => (fnOf d g).st != .active) do
      each (fnsOf d p) fun g => notice g 2 p.val
      onlyIf y.running
        (if bitOf (regOf d .HIF_ORPHAN p.val) 12 then endPolicy p
        else do
          updPart p fun y => { y with held := true }
          onSome y.step fun s => onlyIf (!s.ended) (abandonStep p)))

/-- REATTACH on a function (R440): the hold queues of the partition's orphaned functions go to completion ring 0, and the partition opens
steps again. -/
def reattach (f : FnId) (p : PartId) : Act Unit := do
  let d ← look
  let src := (fnsOf d p).filter fun g => (fnOf d g).st == .orphaned
  let all := (src.flatMap fun g => (fnOf d g).hold).mergeSort fun a b => a.1 ≤ b.1
  each src fun g => do
    let d ← look
    emit (.fn g { fnOf d g with
      hold := []
      full := false })
  let d ← look
  emit (.fn f { fnOf d f with
    st := .active
    hold := all.map fun h => (h.1, 0, h.2.2)
    full := decide (256 ≤ all.length) })
  updPart p fun y => { y with held := false }
  drainHold (all.length + 1) f

end Sys2Proof.Machine
end

