-- ==== Sys2Proof/Machine/Security.lean ====
section
/-! DEFINITION. Identity, attestation and debug unlock (file 19, R521–R532), the strike's controls and sources (R536–R542), and the sideband's
messages (R567–R569). -/

namespace Sys2Proof.Machine

/-- SEC's changing state set. -/
def setSec (s : Sec) : Act Unit := emit (.secState s.nonce s.unlock s.header s.comps s.conns)

/-! Fuses (R521, R522). -/

/-- SEC_SVN_COMMIT (R522): the svn minimum rises to the running bundle's svn, at most 255. -/
def svnCommit (v : Nat) : Act Unit := do
  let d ← look
  let n := min (bundleSvn d.fw.running) 255
  onlyIf (bitOf v 0 && decide (d.sec.svn < n)) do
    emit (.burnSvn n)
    logAt 1 4 none

/-- SEC_KEY_CTRL (R522): a key hash slot is revoked, unless the running bundle's key is the slot's or no slot would be left. -/
def keyRevoke (v : Nat) : Act Unit := do
  let d ← look
  onlyIf (bitOf v 3) do
    let k := v % 4
    if Config.bundleKeyHash (Fin.ofNat 4 k) = Config.sm3 (bundleKey d.fw.running) ∨ (d.sec.revoked ||| 2 ^ k) % 16 = 15 then
      orReg .SEC_KEY_CTRL 0 0 4
    else onlyIf (!bitOf d.sec.revoked k) do
      emit (.burnKey k)
      logAt 1 4 none

/-! Debug unlock (R530–R532). -/

/-- Free bytes (log entry 2). -/
def drawBytes : Nat → Act (List Byte)
  | 0 => pure []
  | n + 1 => do
    let b ← draw
    let bs ← drawBytes n
    pure (BitVec.ofNat 8 b :: bs)

/-- A challenge (R531 step 1): a nonce from SEC's random source; an earlier one becomes void. -/
def debugChallenge : Act Unit := do
  let n ← drawBytes 16
  each (List.range 4) fun i => setReg .SEC_DEBUG_NONCE 0 i (fieldAt n (4 * i) 4)
  let d ← look
  setSec { d.sec with nonce := some n }

/-- The token as written (R530). -/
def tokenBytes (d : Dev) : List Byte := (List.range 48).flatMap fun i => leBytes 4 (regOf d .SEC_DEBUG_TOKEN 0 i)

/-- The checks of R531 in order, and the code of the first that fails. -/
def tokenFails (d : Dev) (f : FnId) (b : List Byte) : Option Nat :=
  let key := (b.drop 0x40).take 64
  if !hasFeat d f 23 then some 1
  else if ¬ (fieldAt b 0 4 = 0x4B544744 ∧ fieldAt b 4 2 = 1 ∧ fieldAt b 6 2 < 4 ∧ fieldAt b 0x22 2 ≠ 0 ∧ bytesZero b 0x24 28) then some 2
  else if fieldAt b 8 8 ≠ Config.serial.toNat then some 3
  else if d.sec.nonce ≠ some ((b.drop 0x10).take 16) then some 4
  else if Config.sm3 key ≠ Config.debugKeyHash then some 5
  else if !Config.sm2Verify key (Config.sm3 (b.take 0x80)) ((b.drop 0x80).take 64) then some 6
  else none

/-- A token submitted by a PF (R531 steps 3 and 4): the challenge is used up; an unlock takes the place of the one in effect. -/
def debugSubmit (f : FnId) : Act Unit := do
  let d ← look
  let b := tokenBytes d
  match tokenFails d f b with
  | some code => do
    setSec { d.sec with nonce := none }
    setField .SEC_DEBUG_STATUS 0 0 7 4 code
    count .SEC_DEBUG_REJECTS 0 1
  | none => do
    endUnlock
    let d ← look
    setSec { d.sec with
      nonce := none
      unlock := some (fieldAt b 6 2, fieldAt b 0x20 2) }
    setReg .SEC_DEBUG_STATUS 0 0 ((regOf d .SEC_DEBUG_STATUS 0 &&& 0xF0) + fieldAt b 0x20 2 * 65536 + fieldAt b 6 2 * 4 + 2)
    setReg .SEC_DEBUG_LEFT 0 0 (fieldAt b 0x22 2)
    count .SEC_DEBUG_UNLOCKS 0 1

/-- A write to a register that SEC acts on. -/
def secAct (n : RegName) (f : FnId) (v : Nat) : Act Unit :=
  match n with
  | .SEC_SVN_COMMIT => svnCommit v
  | .SEC_KEY_CTRL => keyRevoke v
  | .SEC_DEBUG_CTRL => do
    onlyIf (bitOf v 1) (debugSubmit f)
    onlyIf (bitOf v 0) debugChallenge
  | _ => pure ()

/-- A write to a register that SEC acts on: at once while SEC runs, after its restart while it restarts (R460). Locking is hardware's
(R532). -/
def secWrite (n : RegName) (f : FnId) (v : Nat) : Act Unit := do
  onlyIf (n == .SEC_DEBUG_CTRL && bitOf v 2) endUnlock
  onlyIf (n == .SEC_KEY_CTRL && bitOf v 2) (setField .SEC_KEY_CTRL 0 0 2 2 0)
  let d ← look
  if procRuns d procSEC then secAct n f v
  else onlyIf ((procOf d procSEC).st == .restarting) (updFw fun x => { x with late := x.late ++ [.sec n f v] })

/-- DEBUG_UNLOCK_EXPIRY (R532). -/
def doUnlockExpiry : Act Unit := endUnlock

/-! Attestation (R523–R526). -/

/-- A measurement block (R524). -/
def measurement (d : Dev) (i : Nat) : List Byte :=
  match i with
  | 1 => Config.romDigest
  | 2 => d.sec.header
  | 9 => leBytes 8 (d.sec.svn + d.sec.revoked * 256 + d.pins.straps * 4096)
  | 10 =>
    match d.sec.unlock with
    | none => leBytes 8 0
    | some (scope, parts) => leBytes 8 (scope + parts * 4 + 2 ^ 18)
  | i => d.sec.comps.getD (i - 3) []

/-- Every measurement block in order. -/
def measurements (d : Dev) : List Byte := (List.range 10).flatMap fun i => measurement d (i + 1)

/-- Whether a binding carries messages (R567, R569): the management domain is ON; over PCIe, the port's link is up. -/
def bindingUp (d : Dev) (b : Binding) : Bool :=
  let up (p : HostPort) : Bool := awake d && (tabGet d.pins.ports p .up == .up || tabGet d.pins.ports p .up == .l1)
  match b with
  | .sideband => domOf d 47 == .on
  | .pcieA => up .portA
  | .pcieB => up .portB

/-- A response over MCTP: its kind and what it carries; the message's bytes are laid down by documents the spec names (log entry 7). -/
def mctpSay (b : Binding) (kind : Nat) (payload : List Byte) : Act Unit := emit (.out (.mctp b (Config.mctpBody kind payload)))

/-- The kinds of responses. -/
def sayVersion : Nat := 1
def sayCapabilities : Nat := 2
def sayAlgorithms : Nat := 3
def sayDigests : Nat := 4
def sayCertificate : Nat := 5
def sayChallenge : Nat := 6
def sayMeasurements : Nat := 7
def saySpdmError : Nat := 8
def saySensor : Nat := 9
def sayEffecter : Nat := 10
def sayPldmError : Nat := 11
def sayControl : Nat := 12

/-- An SPDM error response (R525, R535). -/
def spdmError (b : Binding) (code : Nat) : Act Unit := do
  count .SEC_SPDM_ERRORS 0 1
  mctpSay b saySpdmError (leBytes 1 code)

/-- SPDM error codes: InvalidRequest and UnsupportedRequest (log entry 7). -/
def errInvalid : Nat := 1
def errUnsupported : Nat := 7

/-- Bytes followed by their signature under the identity key (R525). -/
def signedBytes (bs : List Byte) : List Byte := bs ++ Config.sm2Sign bs

/-- SEC answers a request (R523–R526). -/
def answerSpdm (b : Binding) (r : SpdmReq) : Act Unit := do
  let d ← look
  count .SEC_SPDM_REQS 0 1
  match r with
  | .version => mctpSay b sayVersion []
  | .capabilities => mctpSay b sayCapabilities []
  | .algorithms sm2 sm3 =>
    if sm2 ∧ sm3 then do
      setSec { d.sec with conns := (if d.sec.conns.contains b then d.sec.conns else d.sec.conns ++ [b]) }
      mctpSay b sayAlgorithms []
    else do
      setSec { d.sec with conns := d.sec.conns.filter (· != b) }
      spdmError b errInvalid
  | .digests => mctpSay b sayDigests (Config.sm3 Config.certChain)
  | .certificate slot off len =>
    if slot = 0 then mctpSay b sayCertificate ((Config.certChain.drop off).take len) else spdmError b errInvalid
  | .challenge slot nonce =>
    if slot = 0 then mctpSay b sayChallenge (signedBytes (Config.sm3 Config.certChain ++ measurements d ++ nonce)) else spdmError b errInvalid
  | .measurements index signed nonce =>
    let body := if index = 0 then some (leBytes 1 10)
      else if index ≤ 10 then some (measurement d index)
      else if index = 255 then some (measurements d)
      else none
    match body with
    | none => spdmError b errInvalid
    | some m => mctpSay b sayMeasurements (if signed then signedBytes (m ++ nonce) else m)
  | .other _ => spdmError b errUnsupported

/-- An SPDM request arrives: answered while SEC runs, after the restart while it restarts (R460, R526). -/
def doSpdm (b : Binding) (r : SpdmReq) : Act Unit := do
  let d ← look
  onlyIf (bindingUp d b)
    (if procRuns d procSEC then answerSpdm b r
    else onlyIf ((procOf d procSEC).st == .restarting) (updFw fun x => { x with late := x.late ++ [.spdm b r] }))

/-! The sideband (R567–R569). -/

/-- BAL takes a new budget (R488): the draw is above a cut budget until BAL has brought it down. -/
def setBudget (w : Nat) : Act Unit := do
  let d ← look
  let v := max 300 (min 2400 w)
  setReg .PWR_BUDGET 0 0 v
  updPwr fun x => { x with cut := decide (v < bitsOf (regOf d .PWR_INPUT_W 0) 11 0) }

/-- PLDM_BUDGET_EFFECTER_SET (R488, R569): over the sideband only; it waits for BAL (R460, R493). -/
def doBudget (b : Binding) (w : Nat) : Act Unit := do
  let d ← look
  onlyIf (bindingUp d b)
    (if b ≠ .sideband then mctpSay b sayPldmError []
    else do
      if procRuns d procBAL then setBudget w else updFw fun x => { x with late := x.late ++ [.budget w] }
      mctpSay b sayEffecter [])

/-- The value of a sensor (R568). -/
def sensorValue (d : Dev) (id : Nat) : Nat :=
  if id = 1 then bitsOf (regOf d .PWR_INPUT 0) 31 16
  else if id = 2 then bitsOf (regOf d .PWR_INPUT 0) 15 0
  else if id = 3 then bitsOf (regOf d .PWR_INPUT_W 0) 11 0
  else if id < 20 then bitsOf (regOf d .PWR_DIE_STATUS 0 (id - 4)) 31 24
  else if id < 28 then bitsOf (regOf d .PWR_PILE_STATUS 0 (id - 20)) 31 24
  else if id = 28 then pwrStatus d
  else ctrOf d .PWR_ENERGY_MJ 0

/-- PLDM_SENSOR_READ (R568, R569): answered while the management domain is ON. -/
def doSensor (b : Binding) (id : Nat) : Act Unit := do
  let d ← look
  onlyIf (bindingUp d b) (mctpSay b saySensor (leBytes 1 id ++ leBytes 8 (sensorValue d id)))

/-- MCTP_CONTROL_MESSAGE (R567, R568): control messages and PLDM of types 0 and 2 are answered, SPDM goes to SEC's own commands, and every
other type is refused. -/
def doMctpControl (b : Binding) (type : Nat) (msg : List Byte) : Act Unit := do
  let d ← look
  onlyIf (bindingUp d b)
    (if type = 0 then mctpSay b sayControl msg
    else onlyIf (type == 1) (if fieldAt msg 1 1 % 64 = 0 ∨ fieldAt msg 1 1 % 64 = 2 then mctpSay b sayControl msg else mctpSay b sayPldmError msg))

/-- DYNAMIC_ADDRESS_ASSIGNMENT (R567): in I3C mode only. -/
def doDynamicAddress (a : Nat) : Act Unit := do
  let d ← look
  onlyIf (bindingUp d .sideband && !bitOf d.pins.straps 2) (updPins fun x => { x with dyn := some a })

/-! Counters cleared (R78, R577). -/

/-- The gauges, which no cnt_clear affects (R225, R277, R306). -/
def CtrName.isGauge : CtrName → Bool
  | .PILE_POOL_FREE | .BARL_POOL_USE | .BARL_SPILL_USE | .ESC_TOKENS_OUT => true
  | _ => false

/-- cnt_clear: the counters that a control register governs are zeroed; an engine's are those of its four links (R78, R361). The highest use of
the pool since the clear begins at its present use (R225). -/
def clearCounters (n : RegName) (unit : Nat) : Act Unit := do
  let d ← look
  let mine (k : CtrKey) : Bool :=
    (k.name.row.bind (·.ctl)) == some n && !k.name.isGauge && (if n = .TYL_ENG_CTRL then k.unit / 4 == unit else k.unit == unit)
  each (d.ctrs.filter fun c => mine c.1) fun c => emit (.ctr c.1 0#64)
  onlyIf (n == .BARL_CTRL) (gauge .BARL_PEAK_BYTES unit (ctrOf d .BARL_POOL_USE unit))

/-- The domain of the block that a control register belongs to: none for those of the fabric and of firmware (R478, R577). -/
def RegName.domain (n : RegName) (unit : Nat) : Option Nat :=
  match n.row.map (fun (r : RegRow) => r.blk) with
  | some .core => some (unit / 25)
  | some .pile => some (32 + unit)
  | some .eng => some (40 + unit / 4)
  | some .link => some (40 + unit / 16)
  | _ => none

/-- Whether the domain of a control register's block is ON, so that a write takes effect at once (R577). -/
def blockOn (d : Dev) (n : RegName) (unit : Nat) : Bool := ((n.domain unit).map fun i => domOf d i == .on).getD true

/-! What waited for a processor or for a domain (R460, R577). -/

/-- Whether what something waits for is there: its processor runs, or its block's domain is ON. -/
def lateReady (d : Dev) : Late → Bool
  | .spdm _ _ | .sec _ _ _ => procRuns d procSEC
  | .budget _ => procRuns d procBAL
  | .log _ _ _ => procRuns d procSUP
  | .note _ _ => procRuns d procMEM
  | .clear n unit => blockOn d n unit

/-- It happens. -/
def doLate : Late → Act Unit
  | .spdm b r => do
    let d ← look
    onlyIf (bindingUp d b) (answerSpdm b r)
  | .sec n f v => secAct n f v
  | .budget w => setBudget w
  | .log n i v => setReg n 0 i v
  | .note level p => logAt level 3 p
  | .clear n unit => clearCounters n unit

/-- Everything that need not wait any more happens, in the order in which it came. -/
def flushLate : Act Unit := do
  let d ← look
  onlyIf (d.fw.late.any (lateReady d)) do
    updFw fun x => { x with late := x.late.filter fun y => !lateReady d y }
    each (d.fw.late.filter (lateReady d)) doLate

/-! Strikes (R536–R542). -/

/-- STRIKE_FIRE (R537). -/
def strikeFire (v : Nat) : Act Unit := onlyIf (bitOf v 0) (raiseStrike 1)

/-- STRIKE_INPUT_EDGE (R537). -/
def doStrikeInput : Act Unit := guarded do
  let d ← look
  onlyIf (bitOf (regOf d .STRIKE_CTRL 0) 6) (raiseStrike 0x20)

/-- The snapshots held go (R539). -/
def dropSnap : Act Unit := do
  let d ← look
  emit (.strike { d.strike with snap := none })
  setReg .STRIKE_LATCH_SEQ 0 0 0

/-- The debug domain turns off and its snapshots are lost, unless it is held (R483, R497, R539). -/
def debugOff : Act Unit := do
  let d ← look
  onlyIf (!domHeld d 49) do
    dropSnap
    setDom 49 .off

/-- The enables and arm of STRIKE_CTRL written (R539): arm = 1 wakes the debug domain, arm = 0 lets it turn off. -/
def strikeControl (v : Nat) : Act Unit := do
  setReg .STRIKE_CTRL 0 0 (v % 256)
  if bitOf v 0 then askWake 49
  else do
    updPwr fun x => { x with wakeQ := x.wakeQ.filter (· ≠ 49) }
    debugOff

/-- STRIKE_CTRL.release (R539). -/
def strikeRelease (v : Nat) : Act Unit := onlyIf (bitOf v 8) dropSnap

end Sys2Proof.Machine
end

