-- ==== Sys2Proof/Machine/Admin.lean ====
section
/-! DEFINITION. Admin commands (file 15, R432–R436, R601): the ring, the checks every command meets, the completion, and the commands on
functions, jobs, quotas, scheduling, suspension, alignment and orphans. -/

namespace Sys2Proof.Machine

/-- What carrying out an admin command comes to: it waits in its ring, it completes with a status, a detail and a result, or its completion
follows. -/
inductive Reply where
  | wait
  | done (status detail result : Nat)
  | later
  deriving DecidableEq, Repr

/-- A completion with a status alone. -/
def refuse (status : Nat) : Act Reply := pure (.done status 0 0)

/-- A completion with a result. -/
def reply (result : Nat) : Act Reply := pure (.done 0 0 result)

/-! The ring (R432, R434). -/

/-- The command at the head of a function's admin ring. -/
def adminHead (d : Dev) (f : FnId) : List Byte := bytesOf d (.admin f) (64 * ((fnOf d f).aDone % 256)) 64

/-- Fields of a command. -/
def cmdOp (e : List Byte) : Nat := fieldAt e 0 1
def cmdFlags (e : List Byte) : Nat := fieldAt e 1 1
def cmdPart (e : List Byte) : Nat := fieldAt e 2 2
def cmdTag (e : List Byte) : Nat := fieldAt e 4 4
def cmdParams (e : List Byte) : List Byte := (e.drop 8).take 56

/-- Whether HIF takes the head of a function's admin ring (R432, R435, R438, R440): it runs, a command is there, room for its completion is
there, and the function's last command has completed. Of an orphaned function only REATTACH is taken, once its liveness word has been
written again. -/
def adminReady (d : Dev) (f : FnId) : Bool :=
  let x := fnOf d f
  let e := adminHead d f
  awake d && procRuns d procHIF && (x.st == .active || (x.st == .orphaned && x.live.isSome && cmdOp e == 0x16)) && x.adb != x.aDone &&
    x.aWait.isEmpty && !adminFull d f && (d.wins.all fun w => w.who.map (·.1) != some f) &&
    ((d.fw.load.map fun l => l.told || l.f != f).getD true) && (badIn d (.admin f) (64 * (x.aDone % 256)) 64).isEmpty

/-- Whether only the named bytes of a block are other than zero (R601). -/
def fieldsOnly (bs : List Byte) (fs : List (Nat × Nat)) : Bool :=
  ((List.range bs.length).zip bs).all fun x => x.2 == 0#8 || fs.any fun f => decide (f.1 ≤ x.1) && decide (x.1 < f.1 + f.2)

/-- The fields of an inline parameter block, by opcode (R601). -/
def inlineFields : Nat → List (Nat × Nat)
  | 0x01 => [(0, 32)]
  | 0x04 => [(0, 2)]
  | 0x05 | 0x09 | 0x17 => [(0, 16)]
  | 0x07 => [(0, 6), (8, 16)]
  | 0x08 | 0x14 => [(0, 8)]
  | 0x0A | 0x0B | 0x0F => [(0, 4)]
  | 0x0C => [(0, 4), (8, 8)]
  | 0x0D => [(0, 7)]
  | 0x0E => [(0, 13), (0x10, 12)]
  | 0x10 => [(0, 1), (8, 8)]
  | 0x11 => [(0, 3)]
  | 0x15 => [(0, 1), (2, 4)]
  | 0x18 => [(0, 2)]
  | _ => []

/-- Whether a command's block lies in host memory (R601). -/
def inHost (e : List Byte) : Bool := bitOf (cmdFlags e) 0

/-- A command's parameter block (R601): inline, or for PARTITION_CREATE and the core mask of QUOTA the bytes read from host memory, of the
length the command gives. None: its place or a reserved byte is wrong. -/
def blockOf (e host : List Byte) : Option (List Byte) :=
  let prm := cmdParams e
  if cmdOp e = 0x02 ∨ (cmdOp e = 0x10 ∧ inHost e) then
    if inHost e ∧ fieldsOnly prm [(0, 12)] then some ((padTo (fieldAt prm 8 4) 0#8 host).take (fieldAt prm 8 4)) else none
  else if inHost e ∨ !fieldsOnly prm (inlineFields (cmdOp e)) then none
  else some prm

/-- Module-scope commands, and commands that act on no partition that exists yet (R434, R435). -/
def moduleScope (op : Nat) : Bool := op == 2 || op == 3 || op == 4 || op == 0x17 || op == 0x18
def noPart (op : Nat) : Bool := op == 1 || op == 2 || op == 0x17 || op == 0x18

/-- What every command meets before its own checks (R434, R435, R444, R512): the status of a refusal. -/
def adminRefused (d : Dev) (f : FnId) (e : List Byte) : Option Nat :=
  let op := cmdOp e
  if op = 0 ∨ 0x18 < op ∨ 1 < cmdFlags e then some 1
  else if op ≠ 0x18 ∧ d.fw.notice.isSome then some 5
  else if op ≠ 0x18 ∧ fatal d then some 3
  else if moduleScope op ∧ !isPf f then some 2
  else if !noPart op ∧ (15 < cmdPart e ∨ !(partOf d (Fin.ofNat 16 (cmdPart e))).alive) then some 1
  else if !moduleScope op ∧ op ≠ 1 ∧ !isPf f ∧ (fnOf d f).part ≠ some (Fin.ofNat 16 (cmdPart e)) then some 2
  else none

/-- The command at the head is taken. -/
def adminTaken (f : FnId) : Act Unit := do
  let d ← look
  emit (.fn f { fnOf d f with aDone := ((fnOf d f).aDone + 1) % 2 ^ 32 })

/-- The command at the head of a function's ring, when it is one of a row's, is carried out (R435). `host` is what a read of its block in
host memory brings. -/
def adminCmd (f : FnId) (mine : List Byte → Bool) (host : List Byte) (body : FnId → PartId → Nat → List Byte → Act Reply) : Act Unit := do
  wakeFabric
  let d ← look
  let e := adminHead d f
  onlyIf (adminReady d f && mine e) do
    let r ← (match adminRefused d f e with
      | some st => refuse st
      | none => do
        onlyIf (inHost e) (emit (.out (.hostRead f (fieldAt e 8 8) (fieldAt e 0x10 4))))
        match blockOf e host with
        | none => refuse 1
        | some b => body f (Fin.ofNat 16 (cmdPart e)) (cmdTag e) b)
    match r with
    | .wait => pure ()
    | .later => adminTaken f
    | .done st detail res => do
      adminTaken f
      adminPost f (adminBytes (cmdTag e) st detail 0 res)

/-- Whether a command bears an opcode. -/
def isOp (op : Nat) (e : List Byte) : Bool := cmdOp e == op

/-! Functions (R467, R435). -/

/-- FEATURES (R467). -/
def doFeatures (f : FnId) (_ : PartId) (_ : Nat) (b : List Byte) : Act Reply := do
  let d ← look
  let bm := fieldAt b 0 32
  if bm % 65536 ≠ 65535 then refuse 1
  else if ((fnOf d f).part.map fun q => (partOf d q).running).getD false then refuse 3
  else do
    emit (.fn f { fnOf d f with feat := bm &&& (offered d ||| 0xFFFF) })
    reply (bundleVersion d.fw.running)

/-- A function leaves its partition (R435): what its rings have begun goes, and one whose host has gone is active again. -/
def unbindFn (g : FnId) : Act Unit := do
  dropRings g
  let d ← look
  let x := fnOf d g
  emit (.fn g { x with
    part := none
    st := (if x.st = .orphaned then FnSt.active else x.st) })

/-- BIND (R435): between steps. -/
def doBind (_ : FnId) (p : PartId) (_ : Nat) (b : List Byte) : Act Reply := do
  let d ← look
  let n := fieldAt b 0 1
  let g : FnId := Fin.ofNat 16 n
  if 15 < n ∨ fieldAt b 1 1 ≠ 0 then refuse 1
  else if (partOf d p).step.isSome ∨ (fnOf d g).part.isSome then refuse 3
  else do
    emit (.fn g { fnOf d g with part := some p })
    reply 0

/-- UNBIND (R435): between steps. -/
def doUnbind (_ : FnId) (p : PartId) (_ : Nat) (b : List Byte) : Act Reply := do
  let d ← look
  let n := fieldAt b 0 1
  let g : FnId := Fin.ofNat 16 n
  if 15 < n then refuse 1
  else if (partOf d p).step.isSome ∨ (fnOf d g).part ≠ some p then refuse 3
  else do
    unbindFn g
    reply 0

/-! Jobs (R227, R395, R435, R603). -/

/-- The cores that a partition's mask names and that are not retired. -/
def maskCores (d : Dev) (p : PartId) : List CoreId := allCores.filter fun c => inMask d p c && !d.retired.contains c.val

/-- Places for an arena of `n` slots on a core. -/
def basesFor (d : Dev) (c : CoreId) (n : Nat) (waits : Bool) : List Nat := (List.range 65).filter fun b => slotsFit d c b n waits

/-- The arena windows of a job granted on cores that all have room (R395, R508). -/
def grantArenas (p : PartId) (n : Nat) : List CoreId → Act Unit
  | [] => pure ()
  | c :: cs => do
    let d ← look
    match ← pick (fun b => slotsFit d c b n false) (List.range 65) with
    | none => pure ()
    | some b => do
      updWins fun ws => ws ++ [⟨0, p, c, b, n, true, .granted, 0, false, 0, 0, none, []⟩]
      grant 3 n
    wakeCore c
    grantArenas p n cs

/-- Firmware's areas for the governor of the basic level (R603): page 9 of its range holds the governor table, and the histogram records
follow it. -/
def openAreas (p : PartId) : Act Unit := do
  let st ← fwPages p 1 9 7
  let d ← look
  onlyIf (st == 0) (onSome (partOf d p).fwBase fun b => do
    let gov := b + 65536 * 9
    setReg .UPD_GOV_LO p.val 0 (gov % 2 ^ 32)
    setReg .UPD_GOV_HI p.val 0 (gov / 2 ^ 32)
    setReg .UPD_HIST_LO p.val 0 ((gov + 4096) % 2 ^ 32)
    setReg .UPD_HIST_HI p.val 0 ((gov + 4096) / 2 ^ 32))

/-- JOB_START (R227, R278, R395, R435, R603). -/
def doJobStart (f : FnId) (p : PartId) (_ : Nat) (b : List Byte) : Act Reply := do
  let d ← look
  let y := partOf d p
  let chunk := fieldAt b 0 4
  let secs := fieldAt b 4 2
  let ms := fieldAt b 6 2
  let serve := fieldAt b 8 4
  let base := fieldAt b 12 4
  let cores := if y.arena = 0 then [] else maskCores d p
  if y.running then refuse 3
  else if chunk % 2048 ≠ 0 ∨ chunk < 2048 ∨ 65536 < chunk ∨ secs = 0 ∨ 4095 < secs ∨ ms = 0 ∨
      (if y.serving then bitsOf serve 31 24 = 0 else serve ≠ 0 ∨ base ≠ 0) then refuse 1
  else if cores.any fun c => (basesFor d c y.arena true).isEmpty then refuse 4
  else if cores.any fun c => (basesFor d c y.arena false).isEmpty then pure .wait
  else do
    let id := (← draw) % 2 ^ 32
    setField .ESC_CTRL p.val 0 31 4 (secs * 2 ^ 16 + ms)
    onlyIf y.serving do
      setReg .SCHED_SERVE p.val 0 serve
      setReg .SCHED_SERVE_BASE p.val 0 base
    grantArenas p y.arena cores
    updPart p fun y => { y with
      running := true
      job := id
      chunk := chunk
      jobFn := f
      gone := false }
    onlyIf (!y.expert) (openAreas p)
    reply id

/-- JOB_END (R435). -/
def doJobEnd (f : FnId) (p : PartId) (_ : Nat) (_ : List Byte) : Act Reply := do
  let d ← look
  if !(partOf d p).running then refuse 3
  else do
    endJob p (some f) false
    reply 0

/-! Quotas, scheduling, suspension, alignment, orphans (R272, R399, R402, R405–R407, R439, R440). -/

/-- The module totals of the quotas that are reserved (R402): thread slots, channel ends, and units of pile outside the poison maps. -/
def totalSlots : Nat := 6400
def totalChans : Nat := 65536
def totalPile : Nat := 8 * (2 ^ 20 - 64)

/-- A quota summed over the other partitions. -/
def othersQuota (d : Dev) (p : PartId) (n : RegName) (hi : Nat) : Nat :=
  ((allParts.filter fun q => q != p && (partOf d q).alive).map fun q => bitsOf (regOf d n q.val) hi 0).foldl (· + ·) 0

/-- Whether quotas fit in what the other partitions leave unreserved (R402). -/
def quotasFit (d : Dev) (p : PartId) (slots chans pile : Nat) : Bool :=
  decide (othersQuota d p .SCHED_QUOTA_SLOTS 15 + slots ≤ totalSlots) && decide (othersQuota d p .SCHED_QUOTA_CHAN 15 + chans ≤ totalChans) &&
    decide (othersQuota d p .SCHED_QUOTA_PILE 31 + pile ≤ totalPile)

/-- A partition's power charge (R407, R508). -/
def setPower (p : PartId) (w : Nat) : Act Unit := do
  let d ← look
  let old := bitsOf (regOf d .SCHED_QUOTA_POWER p.val) 15 0
  if w < old then giveBack 7 (old - w) else grant 7 (w - old)
  setReg .SCHED_QUOTA_POWER p.val 0 w

/-- A core mask given to a partition: retired cores stay out, and new cores join it (R402, R403, R413). -/
def setMask (p : PartId) (bs : List Byte) : Act Unit := do
  each (List.range 25) fun i => setReg .SCHED_CORE_MASK p.val i (fieldAt bs (4 * i) 4)
  joinCores p

/-- QUOTA (R405–R407, R601). -/
def doQuota (_ : FnId) (p : PartId) (_ : Nat) (b : List Byte) : Act Reply := do
  let d ← look
  let code := fieldAt b 0 1
  let v := fieldAt b 8 8
  let low (n : RegName) : Nat := bitsOf (regOf d n p.val) 15 0
  let limit := match code with
    | 0 => 6400
    | 1 | 2 => 2 ^ 32 - 1
    | 6 => 0
    | _ => 65535
  if 6 < code ∨ limit < v ∨ (code = 6) ≠ (b.length ≠ 56) ∨ (code = 6 ∧ (b.length ≠ 116 ∨ !fieldsOnly b [(0, 1), (16, 100)])) then refuse 1
  else if code = 0 ∧ (partOf d p).ctx.length < v then refuse 4
  else if !quotasFit d p (if code = 0 then v else low .SCHED_QUOTA_SLOTS) (if code = 3 then v else low .SCHED_QUOTA_CHAN)
      (if code = 1 then v else regOf d .SCHED_QUOTA_PILE p.val) then refuse 4
  else do
    match code with
    | 0 => setReg .SCHED_QUOTA_SLOTS p.val 0 v
    | 1 => setReg .SCHED_QUOTA_PILE p.val 0 v
    | 2 => setReg .SCHED_QUOTA_BARL p.val 0 v
    | 3 => setReg .SCHED_QUOTA_CHAN p.val 0 v
    | 4 => setReg .SCHED_QUOTA_LINK p.val 0 v
    | 5 => setPower p v
    | _ => setMask p (b.drop 16)
    reply 0

/-- SCHED_SET (R402, R601). -/
def doSchedSet (_ : FnId) (p : PartId) (_ : Nat) (b : List Byte) : Act Reply := do
  let valid := fieldAt b 0 1
  if 3 < valid ∨ (bitOf valid 0 ∧ 3 < fieldAt b 1 1) ∨ (bitOf valid 1 ∧ 7 < fieldAt b 2 1) then refuse 1
  else do
    onlyIf (bitOf valid 0) (setField .SCHED_PART_CTRL p.val 0 5 4 (fieldAt b 1 1))
    onlyIf (bitOf valid 1) (setField .SCHED_PART_CTRL p.val 0 10 8 (fieldAt b 2 1))
    reply 0

/-- SUSPEND (R399): every slot of the partition is pre-empted, and no task of it is placed until RESUME. -/
def doSuspend (_ : FnId) (p : PartId) (_ : Nat) (_ : List Byte) : Act Reply := do
  updPart p fun y => { y with susp := true }
  let d ← look
  each ((slotsInUse d).filter fun x => x.2.part == p) fun x => preemptSlot x.1.1 x.1.2 .command
  reply 0

/-- RESUME (R401). -/
def doResume (_ : FnId) (p : PartId) (_ : Nat) (_ : List Byte) : Act Reply := do
  updPart p fun y => { y with susp := false }
  reply 0

/-- GEN_ALIGN (R272). -/
def doGenAlign (_ : FnId) (p : PartId) (_ : Nat) (b : List Byte) : Act Reply := do
  let st ← alignEsc p (fieldAt b 0 8)
  refuse st

/-- ORPHAN_SET (R439, R446, R601). -/
def doOrphanSet (f : FnId) (p : PartId) (_ : Nat) (b : List Byte) : Act Reply := do
  let policy := fieldAt b 0 1
  let hold := fieldAt b 2 2
  let ms := fieldAt b 4 2
  if 1 < policy ∨ hold = 0 ∨ 3600 < hold ∨ (ms ≠ 0 ∧ (ms < 100 ∨ 60000 < ms)) then refuse 1
  else do
    setReg .HIF_ORPHAN p.val 0 (policy * 4096 + hold)
    onlyIf (ms != 0) (setReg .HIF_LIVE_CTRL f.val 0 ms)
    reply 0

/-- REATTACH (R440): from one of the functions of a held partition, or an orphaned one, until the end policy has begun. -/
def doReattach (f : FnId) (p : PartId) (_ : Nat) (_ : List Byte) : Act Reply := do
  let d ← look
  let y := partOf d p
  if y.gone ∨ (fnOf d f).part ≠ some p ∨ !(y.held || (fnOf d f).st == .orphaned) then refuse 3
  else do
    reattach f p
    reply 0

/-! Firmware and the module (R444, R445, R465, R601). -/

/-- FW_LOAD (R464–R466): a load whose BAL component alone is still pending is replaced; the answer of a bundle that is accepted follows once it is active. -/
def doFwLoad (bundle : List Byte) (dmaErr : Bool) (f : FnId) (_ : PartId) (tag : Nat) (b : List Byte) : Act Reply := do
  let d ← look
  if !procRuns d procSEC then pure .wait
  else if (d.fw.load.map fun l => !l.told).getD false then do
    rejectBundle 10
    pure (.done 5 10 0)
  else do
    emit (.out (.hostRead f (fieldAt b 0 8) (fieldAt b 8 4)))
    match ← startLoad f tag ((padTo (fieldAt b 8 4) 0#8 bundle).take (fieldAt b 8 4)) dmaErr (bitOf (fieldAt b 12 4) 0) with
    | some (st, detail) => pure (.done st detail 0)
    | none => pure .later

/-- The reset notice on both PFs, 1 s ahead (R432, R436, R444), with the cause of the reset that follows. -/
def resetNotice (cause : Nat) : Act Unit := do
  each pfs fun g => do
    notice g 1 1000
    emit (.write (.admin g) 0x5008 (leBytes 4 1000))
  updFw fun x => { x with notice := some cause }

/-- MODULE_RESET (R444): the notice; a second one changes nothing (R445). -/
def doModuleReset (_ : FnId) (_ : PartId) (_ : Nat) (b : List Byte) : Act Reply := do
  let d ← look
  if fieldAt b 0 1 ≠ 0 then refuse 1
  else do
    onlyIf d.fw.notice.isNone (resetNotice 1)
    reply 0

/-- MODULE_RESET with action 1 (R601): HIF_RESET_CTRL.hot_full set. -/
def doSetHotFull (_ : FnId) (_ : PartId) (_ : Nat) (b : List Byte) : Act Reply := do
  if 1 < fieldAt b 1 1 then refuse 1
  else do
    setReg .HIF_RESET_CTRL 0 0 (fieldAt b 1 1)
    reply 0

end Sys2Proof.Machine
end

