-- ==== Sys2Proof/Machine/AdminPart.lean ====
section
/-! DEFINITION. Partitions and what they are granted by admin commands: creation and destruction (R402, R602, R320), allocations (R310–R316),
windows, eviction and restore (R105–R112), and channels (R349, R351). -/

namespace Sys2Proof.Machine

/-! Cache ways (R320, R321). -/

/-- Ways that the partitions hold exclusively on a pile. -/
def takenWays (d : Dev) (q : Nat) : Nat :=
  (allParts.filter fun p => (partOf d p).alive).foldl (fun m p => m ||| (partOf d p).exWays.getD q 0) 0

/-- The lowest `n` ways that a mask leaves free (R320). -/
def freeWays (taken n : Nat) : Nat := (((List.range 16).filter fun w => !bitOf taken w).take n).foldl (fun m w => m ||| 2 ^ w) 0

/-- The way masks of every partition (R320): its exclusive ways, with the ways that no partition holds exclusively when it shares. -/
def setWays (new : Option PartId) : Act Unit := do
  let d ← look
  each (allParts.filter fun p => (partOf d p).alive && (new == some p || !(partOf d p).expert)) fun p => do
    each (List.range 8) fun q =>
      setReg .PILE_WAYS p.val q ((partOf d p).exWays.getD q 0 ||| (if (partOf d p).shared then 0xFFFF - takenWays d q else 0))
    onlyIf (new == some p) (latchRegs p ((List.range 8).map fun q => (.PILE_WAYS, q)))

/-! PARTITION_CREATE (R402, R602). -/

/-- The fields of the creation block (R602). -/
def createFields : List (Nat × Nat) := [(0, 12), (0x10, 100), (0x78, 17), (0x90, 27), (0xB0, 16)]

/-- Record `i` of the tier-2 targets that a creation block carries. -/
def createRecord (b : List Byte) (i : Nat) : List Byte := (b.drop (256 + 16 * i)).take 16

/-- Byte `q` of an eight-byte array of a creation block. -/
def pileByte (b : List Byte) (off q : Nat) : Nat := fieldAt b (off + q) 1

/-- The barrel byte's fields. -/
def createStat (b : List Byte) : Nat := bitsOf (fieldAt b 0xAA 1) 1 0
def createSpill (b : List Byte) : Nat := bitsOf (fieldAt b 0xAA 1) 3 2
def createLossy (b : List Byte) : Bool := bitOf (fieldAt b 0xAA 1) 4

/-- Whether a creation block keeps the ranges of R402 and R602. -/
def createOk (b : List Byte) : Bool :=
  let f (off n : Nat) : Nat := fieldAt b off n
  b.length == 256 + 16 * f 0xA 2 && decide (f 0xA 2 ≤ 4096) && fieldsOnly (b.take 256) createFields && decide (f 0 1 ≤ 1) && decide (f 1 1 ≤ 1) &&
    decide (f 4 1 ≤ 3) && decide (f 5 1 ≤ 64) && decide (f 6 1 ≤ 7) && decide (f 7 1 ≤ 1) && decide (1 ≤ f 8 2) && decide (f 8 2 ≤ 3600) &&
    (List.range 8).all (fun q => decide (pileByte b 0x80 q ≤ 16)) && decide (f 0x88 1 ≤ 1) && decide (f 0x90 2 ≤ 6400) &&
    f 0xA0 8 % 2097152 == 0 && decide (f 0xA0 8 < 2 ^ 48) && decide (f 0xAA 1 < 32) && createStat b != 3 && createSpill b != 3 &&
    f 0xB0 8 % 4096 == 0 && !(createSpill b == 2 && decide (2 ^ 48 ≤ f 0xB0 8)) && !(createSpill b == 1 && decide (16 ≤ f 0xBC 4))

/-- Whether the issuing function has the features that a creation block needs (R467). -/
def createAllowed (d : Dev) (f : FnId) (b : List Byte) : Bool :=
  let need (on : Bool) (k : Nat) : Bool := !on || hasFeat d f k
  need (fieldAt b 0 1 == 1) 16 && need (fieldAt b 1 1 == 1) 17 && need (createSpill b == 1) 18 && need (createSpill b == 2) 19 &&
    need (createLossy b) 20 && need ((List.range (fieldAt b 0xA 2)).any fun i => fieldAt (createRecord b i) 0 1 % 4 == 2) 22

/-- The functions that a creation block names. -/
def createFns (b : List Byte) : List FnId := allFns.filter fun g => bitOf (fieldAt b 2 2) g.val

/-- Why a creation is refused for what other partitions hold (R402, R320): the status. -/
def createTaken (d : Dev) (b : List Byte) : Option Nat :=
  let live := allParts.filter fun p => (partOf d p).alive
  let count (m : Nat) : Nat := popcount m
  if live.length = 16 then some 4
  else if (createFns b).any fun g => (fnOf d g).part.isSome then some 3
  else if (List.range 8).any fun q => live.any fun p => ((partOf d p).groups.getD q 0 &&& pileByte b 0x78 q) != 0 then some 4
  else if (List.range 8).any fun q => decide (16 < count (takenWays d q) + pileByte b 0x80 q) then some 4
  else if ((live.map fun p => bitsOf (regOf d .SCHED_QUOTA_SLOTS p.val) 15 0).foldl (· + ·) 0 + fieldAt b 0x90 2 > totalSlots) ∨
      ((live.map fun p => bitsOf (regOf d .SCHED_QUOTA_CHAN p.val) 15 0).foldl (· + ·) 0 + fieldAt b 0x92 2 > totalChans) ∨
      ((live.map fun p => regOf d .SCHED_QUOTA_PILE p.val).foldl (· + ·) 0 + fieldAt b 0x98 4 > totalPile) then some 4
  else none

/-- The partition's record (R402). -/
def createPart (d : Dev) (b : List Byte) : Part :=
  { Part.empty with
    alive := true
    expert := fieldAt b 0 1 == 1
    serving := fieldAt b 1 1 == 1
    arena := fieldAt b 5 1
    groups := (List.range 8).map (pileByte b 0x78)
    exWays := (List.range 8).map fun q => freeWays (takenWays d q) (pileByte b 0x80 q)
    shared := fieldAt b 0x88 1 == 1
    ctx := List.range (fieldAt b 0x90 2) }

/-- The partition's registers (R402, R412–R414, R446, R220–R223, R602). -/
def createRegs (p : PartId) (b : List Byte) : Act Unit := do
  setReg .SCHED_PART_CTRL p.val 0 (fieldAt b 1 1 * 2048 + fieldAt b 6 1 * 256 + fieldAt b 4 1 * 16 + 1)
  setReg .SCHED_QUOTA_SLOTS p.val 0 (fieldAt b 0x90 2)
  setReg .SCHED_QUOTA_CHAN p.val 0 (fieldAt b 0x92 2)
  setReg .SCHED_QUOTA_LINK p.val 0 (fieldAt b 0x94 2)
  setPower p (fieldAt b 0x96 2)
  setReg .SCHED_QUOTA_PILE p.val 0 (fieldAt b 0x98 4)
  setReg .SCHED_QUOTA_BARL p.val 0 (fieldAt b 0x9C 4)
  setReg .HIF_ORPHAN p.val 0 (fieldAt b 7 1 * 4096 + fieldAt b 8 2)
  setReg .BARL_APER_LO p.val 0 (fieldAt b 0xA0 4)
  setReg .BARL_APER_HI p.val 0 (fieldAt b 0xA4 2)
  setReg .BARL_APER_SIZE p.val 0 (fieldAt b 0xA8 2)
  setReg .BARL_SPILL_LO p.val 0 (fieldAt b 0xB0 4)
  setReg .BARL_SPILL_HI p.val 0 (fieldAt b 0xB4 4)
  setReg .BARL_SPILL_SIZE p.val 0 (fieldAt b 0xB8 4)
  setReg .BARL_SPILL_TGT p.val 0 (fieldAt b 0xBC 4)
  setReg .BARL_CTRL p.val 0 (createStat b * 64 + createSpill b * 16 + b2n (createLossy b && fieldAt b 0 1 == 1) * 8 +
    b2n (fieldAt b 0xA8 2 != 0) * 4 + 1)

/-- The root of the partition's tables, when its quota has room for it; otherwise it comes with the first allocation. -/
def createRoot (p : PartId) : Act Unit := do
  let d ← look
  onlyIf (decide (1 ≤ regOf d .SCHED_QUOTA_PILE p.val)) do
    match ← chooseFrames p [(hintPiles d p 0, 65536)] [] with
    | some [fr] => do
      makeTables p [((1, 0), fr)]
      grant 10 1
      showUse p
    | _ => pure ()

/-- The tier-2 target table written on a page of firmware's own (R315, R602): 0, or the status of a refusal. -/
def createT2 (p : PartId) (b : List Byte) : Act Nat := do
  let n := fieldAt b 0xA 2
  if n = 0 then pure 0
  else do
    let st ← fwPages p 2 8 1
    let d ← look
    match st, (partOf d p).fwBase with
    | 0, some base => do
      let va := base + 65536 * 8
      let _ ← vaWrite (envOf d p) p { inner := true } va (b.drop 256) []
      setReg .PILE_T2TAB_LO p.val 0 (va % 2 ^ 32)
      setReg .PILE_T2TAB_HI p.val 0 (va / 2 ^ 32)
      setReg .PILE_T2TAB_COUNT p.val 0 n
      pure 0
    | _, _ => pure 4

/-- A partition destroyed (R435, R532, R578): its job ends, everything it holds returns, and its page shows reset values. -/
def destroyPart (p : PartId) (by_ : Option FnId) : Act Unit := do
  let d ← look
  if (partOf d p).running then endJob p by_ false
  else do
    each (d.chans.filter fun ic => ic.2.part == p) fun ic => chanKill ic.1
    cancelStreams fun _ x => x.part == p
  scrubEsc p
  scrubAllocs p fun _ => true
  let d ← look
  fenceFrames (partOf d p).frames false
  setPower p 0
  each (fnsOf d p) unbindFn
  each allCores fun c => do
    let d ← look
    onlyIf (bitOf (regOf d .CORE_OWNER c.val) p.val) (leaveCore p c)
  let d ← look
  each (d.regs.filter fun r => onPartPage r.1.name && r.1.unit == p.val) fun r => emit (.reg r.1 r.1.reset)
  each (d.ctrs.filter fun r => ctrOnPartPage r.1.name && r.1.unit == p.val) fun r => emit (.ctr r.1 0#64)
  emit (.barrel p Barrel.empty)
  emit (.esc p Esc.empty)
  emit (.run p PartRun.empty)
  emit (.part p Part.empty)
  setWays none
  endUnlockOf p
where
  /-- The register is on the partition's page (R590). -/
  onPartPage (n : RegName) : Bool := ((n.row.map fun y => y.blk == Blk.sched || y.blk == Blk.orphan || y.blk == Blk.barl || y.blk == Blk.upd ||
    y.blk == Blk.mmu)).getD false
  /-- The counter is on the partition's page (R590). -/
  ctrOnPartPage (n : CtrName) : Bool := ((n.row.map fun y => y.blk == Blk.sched || y.blk == Blk.barl || y.blk == Blk.upd ||
    y.blk == Blk.mmu)).getD false

/-- Piles that a creation needs and that have still to come up (R299): creation waits for them. -/
def pilesPending (d : Dev) (b : List Byte) : Bool :=
  allPiles.any fun q => pileByte b 0x78 q.val != 0 && !(pileOf d q).ready && !(pileOf d q).failed

/-- PARTITION_CREATE (R402, R435, R467, R602). -/
def doPartCreate (f : FnId) (_ : PartId) (_ : Nat) (b : List Byte) : Act Reply := do
  let d ← look
  if !createOk b then refuse 1
  else if !createAllowed d f b then refuse 2
  else
    match createTaken d b with
    | some st => refuse st
    | none =>
      if pilesPending d b then pure .wait
      else do
        match ← pick (fun p => !(partOf d p).alive) allParts with
        | none => refuse 4
        | some p => do
          emit (.part p (createPart d b))
          endUnlockOf p
          createRegs p b
          setWays (some p)
          createRoot p
          let st ← createT2 p b
          if st ≠ 0 then do
            destroyPart p (some f)
            refuse st
          else do
            setMask p (b.drop 0x10)
            onlyIf (fieldAt b 0 1 != 1) do
              let n ← draw
              let d ← look
              each (allCores.filter (inMask d p)) (loadCompiled n)
            each (createFns b) fun g => do
              let d ← look
              emit (.fn g { fnOf d g with part := some p })
            reply p.val

/-- PARTITION_DESTROY (R435, R578). -/
def doPartDestroy (f : FnId) (p : PartId) (_ : Nat) (_ : List Byte) : Act Reply := do
  destroyPart p (some f)
  reply 0

/-! Allocations (R310–R316). -/

/-- Record `i` of the target table as it stands at its registers (R315). -/
def liveRecord (p : PartId) (i : Nat) : Act (Option (List Byte)) := do
  let d ← look
  if regOf d .PILE_T2TAB_COUNT p.val ≤ i then pure none
  else vaBytes (envOf d p) p (regOf d .PILE_T2TAB_HI p.val * 2 ^ 32 + regOf d .PILE_T2TAB_LO p.val + 16 * i) 16

/-- Whether a record is valid for a tier of the hint word (R310, R315): 2 a host of the partition, 3 a channel of it with remote memory
access. -/
def recordFits (d : Dev) (p : PartId) (tier : Nat) (r : List Byte) : Bool :=
  let base := fieldAt r 8 8
  fieldAt r 2 2 == 0 && base % 65536 == 0 &&
    (if tier = 2 then fieldAt r 0 1 == 1 && decide (fieldAt r 1 1 < 16) && (fnOf d (Fin.ofNat 16 (fieldAt r 1 1))).part == some p
    else fieldAt r 0 1 == 2 && decide (base < 2 ^ 48) && (envOf d p).chanOk (fieldAt r 4 4))

/-- An offset in a target, in units of 64 KiB, that firmware chooses: free, and a multiple of 32 for 2 MiB pages (R316). -/
def chooseOff (p : PartId) (target bytes hint : Nat) : Act (Option Nat) := do
  let d ← look
  let unit := hintPage hint / 65536
  let n := bytes / 65536
  let used := (partOf d p).allocs.filter fun (a : Alloc) => hintTier a.hint ≠ 1 && a.target == target
  let r ← pickNat (fun i => decide (i * unit + n ≤ 2 ^ 26) && !(used.any fun (a : Alloc) => meets (i * unit) n a.off (a.bytes / 65536))) (2 ^ 26 / unit)
  pure (r.map (· * unit))

/-- Piles that an allocation needs and that have still to come up. -/
def allocWaits (d : Dev) (p : PartId) (hint : Nat) : Bool :=
  hintTier hint == 1 && (hintPiles d p hint).any fun q => !(pileOf d (Fin.ofNat 8 q)).ready && !(pileOf d (Fin.ofNat 8 q)).failed

/-- ALLOC (R310–R316, R435, R601). -/
def doAlloc (f : FnId) (p : PartId) (_ : Nat) (b : List Byte) : Act Reply := do
  let d ← look
  let hint := fieldAt b 0 4
  let target := fieldAt b 4 2
  let bytes := fieldAt b 8 8
  let want := fieldAt b 0x10 8
  let page := hintPage hint
  let tier := hintTier hint
  if !hintOk hint ∨ bytes = 0 ∨ bytes % page ≠ 0 ∨ want % page ≠ 0 ∨ 2 ^ 48 < want + bytes ∨ (tier = 1 ∧ target ≠ 0) ∨ 4095 < target then refuse 1
  else if tier = 3 ∧ !hasFeat d f 22 then refuse 2
  else if allocWaits d p hint then pure .wait
  else do
    let rec_ ← (if tier = 1 then pure none else liveRecord p target)
    let d ← look
    if tier ≠ 1 ∧ !((rec_.map (recordFits d p tier)).getD false) then refuse 1
    else if want ≠ 0 ∧ !vaFree d p want bytes then refuse 3
    else do
      let va ← (if want = 0 then chooseVa p bytes page else pure (some want))
      let off ← (if tier = 1 then pure (some 0) else chooseOff p target bytes hint)
      match va, off with
      | some va, some off => do
        let pools := ((partOf d p).allocs.flatMap fun (a : Alloc) => a.pool).length + poolFrames (bitsOf hint 23 20) (bytes / page) + 8
        let st0 ← (if hintComp hint then fwPages p 2 0 (min 8 (ceilDiv (8 * pools) 65536)) else pure 0)
        let st ← (if st0 = 0 then grantAlloc p va bytes hint target off 0 else pure st0)
        if st ≠ 0 then refuse st
        else do
          onlyIf (hintComp hint) (writePoolList p)
          reply va
      | _, _ => refuse 4

/-- FREE (R301, R349, R435): a page that holds the ring of an end in use is not freed. -/
def doFree (_ : FnId) (p : PartId) (_ : Nat) (b : List Byte) : Act Reply := do
  let d ← look
  match (partOf d p).allocs.find? fun (a : Alloc) => a.owner == 0 && a.va == fieldAt b 0 8 && a.bytes != 0 with
  | none => refuse 1
  | some a =>
    if d.chans.any fun ic => ic.2.part == p && ic.2.st != .free && meets ic.2.ring ic.2.ringBytes a.va a.bytes then refuse 3
    else do
      freeAlloc p a
      reply 0

/-- Whether an access of a partition's streams to a range of addresses is still in flight: a read that has not landed, a write not accepted
(R284). -/
def rangeFlying (d : Dev) (p : PartId) (va n : Nat) : Bool :=
  d.streams.any fun y => y.2.part == p && y.2.chunks.any fun k => k.left.any fun q => q.spans.any fun (z : Span) => meets z.va z.len va n

/-- INVALIDATE (R284): this model keeps no translation beyond its use, so none remains; the command waits for the accesses of the range that
are in flight. -/
def doInvalidate (_ : FnId) (p : PartId) (_ : Nat) (b : List Byte) : Act Reply := do
  let d ← look
  if fieldAt b 0 8 % 65536 ≠ 0 ∨ fieldAt b 8 8 % 65536 ≠ 0 then refuse 1
  else if rangeFlying d p (fieldAt b 0 8) (fieldAt b 8 8) then pure .wait
  else reply 0

/-! Windows (R105, R108–R112). -/

/-- A window of a partition that an admin command names; arenas have no name. -/
def windowBy (d : Dev) (p : PartId) (id : Nat) : Option Window := d.wins.find? fun w => w.id == id && w.part == p && !w.arena && !w.release

/-- Bases that a command lets firmware take: the one named, or any (R601). -/
def baseList (base : Nat) : List Nat := if base = 0xFF then List.range 64 else [base]

/-- Cores that a command lets firmware take: the one named, or any of the mask (R601). -/
def coreList (d : Dev) (p : PartId) (core : Nat) : List CoreId := (maskCores d p).filter fun c => core == 0xFFFF || core == c.val

/-- Whether a core offers one of some bases. -/
def coreFits (d : Dev) (n : Nat) (bases : List Nat) (waits : Bool) (c : CoreId) : Bool := bases.any fun b => slotsFit d c b n waits

/-- A place that firmware chooses for a window: a core and a base. -/
def choosePlace (n : Nat) (bases : List Nat) (cores : List CoreId) (ok : CoreId → Bool) : Act (Option (CoreId × Nat)) := do
  let d ← look
  match ← pick (fun c => ok c && coreFits d n bases false c) cores with
  | none => pure none
  | some c => do
    let b ← pick (fun b => slotsFit d c b n false) bases
    pure (b.map fun b => (c, b))

/-- A window identifier that no window bears, and not 0 (which names none, R103). -/
def freshId (d : Dev) (n : Nat) : Nat :=
  if n % 2 ^ 32 ≠ 0 ∧ (d.wins.all fun w => w.id != n % 2 ^ 32) then n % 2 ^ 32 else d.wins.foldl (fun m w => max m w.id) 0 + 1

/-- WINDOW_GRANT (R105, R111, R112, R601). -/
def doWindowGrant (_ : FnId) (p : PartId) (_ : Nat) (b : List Byte) : Act Reply := do
  let d ← look
  let core := fieldAt b 0 2
  let n := fieldAt b 2 1
  let base := fieldAt b 3 1
  let cores := coreList d p core
  if n = 0 ∨ 64 < n ∨ (63 < base ∧ base ≠ 0xFF) ∨ (core ≠ 0xFFFF ∧ cores.isEmpty) then refuse 1
  else if !(partOf d p).running then refuse 3
  else if !cores.any (coreFits d n (baseList base) true) then refuse 4
  else do
    match ← choosePlace n (baseList base) cores (fun _ => true) with
    | none => pure .wait
    | some (c, at_) => do
      let id := freshId d (← draw)
      updWins fun ws => ws ++ [⟨id, p, c, at_, n, false, .granted, 0, false, 0, 0, none, []⟩]
      grant 3 n
      wakeCore c
      reply id

/-- WINDOW_RELEASE (R105, R110, R112). -/
def doWindowRelease (_ : FnId) (p : PartId) (_ : Nat) (b : List Byte) : Act Reply := do
  let d ← look
  match windowBy d p (fieldAt b 0 4) with
  | none => refuse 1
  | some w => do
    updWins fun ws => ws.map fun x => if x = w then { x with release := true } else x
    winProgress
    reply 0

/-- Whether an area is writable tier-1 pages (R108, R601). -/
def areaOk (d : Dev) (p : PartId) (va n : Nat) : Bool :=
  decide (va + n ≤ 2 ^ 48) && (List.range (n / 65536 + 2)).all fun i =>
    let a := if i = 0 then va else (va / 65536 + i) * 65536
    decide (va + n ≤ a) || (match (locate d p (envOf d p).odd (envOf d p).chanOk {} true a).1 with
      | .plain _ | .comp _ _ _ => true
      | _ => false)

/-- EVICT (R108, R601). -/
def doEvict (f : FnId) (p : PartId) (tag : Nat) (b : List Byte) : Act Reply := do
  let d ← look
  match windowBy d p (fieldAt b 0 4) with
  | none => refuse 1
  | some w =>
    if w.st ≠ .granted then refuse 3
    else if (partOf d p).step.isSome && holdsAccumulator d p w then refuse 3
    else if !areaOk d p (fieldAt b 8 8) (w.size * 65536 + w.size * 4096) then refuse 1
    else do
      startEvict w (fieldAt b 8 8) (some (f, tag))
      pure .later

/-- RESTORE (R109, R120, R601). -/
def doRestore (f : FnId) (p : PartId) (tag : Nat) (b : List Byte) : Act Reply := do
  let d ← look
  let core := fieldAt b 4 2
  let base := fieldAt b 6 1
  let cores := coreList d p core
  match windowBy d p (fieldAt b 0 4) with
  | none => refuse 1
  | some w =>
    if (63 < base ∧ base ≠ 0xFF) ∨ (core ≠ 0xFFFF ∧ cores.isEmpty) then refuse 1
    else if !(partOf d p).expert ∧ (core ≠ 0xFFFF ∨ base ≠ 0xFF) then refuse 2
    else if w.st ≠ .evicted then refuse 3
    else if !cores.any (fun c => streamsMove d w c && coreFits d w.size (baseList base) true c) then refuse 4
    else do
      match ← choosePlace w.size (baseList base) cores (streamsMove d w) with
      | none => pure .wait
      | some (c, at_) => do
        updWins fun ws => ws.map fun x => if x = w then { x with
          st := .restoring
          newCore := c
          newBase := at_
          who := some (f, tag) } else x
        grant 3 w.size
        wakeCore c
        pure .later

/-! Channels (R349, R351, R460). -/

/-- CHANNEL_CREATE (R349, R360, R467, R601). -/
def doChanCreate (f : FnId) (p : PartId) (_ : Nat) (b : List Byte) : Act Reply := do
  let d ← look
  if !procRuns d procLNK then pure .wait
  else if bitOf (fieldAt b 12 1) 0 ∧ !hasFeat d f 22 then refuse 2
  else do
    match ← createChan p ⟨fieldAt b 0 2, fieldAt b 4 4, fieldAt b 2 1, fieldAt b 3 1, fieldAt b 8 1, fieldAt b 9 1, fieldAt b 10 2, fieldAt b 0x10 8,
        fieldAt b 12 1, fieldAt b 0x18 4⟩ with
    | .ok h => reply h
    | .error st => refuse st

/-- CHANNEL_DESTROY (R351, R360). -/
def doChanDestroy (_ : FnId) (p : PartId) (_ : Nat) (b : List Byte) : Act Reply := do
  let d ← look
  if !procRuns d procLNK then pure .wait
  else
    match chanBy d (fieldAt b 0 4) with
    | none => refuse 1
    | some (i, c) =>
      if c.part ≠ p then refuse 1
      else do
        destroyChan i
        reply 0

end Sys2Proof.Machine
end

