-- ==== Sys2Proof/Machine/Rings.lean ====
section
/-! DEFINITION. Doorbells and the enabling of work rings (R423, R428, R430–R432), and the MSI-X moderation timer (R431). -/

namespace Sys2Proof.Machine

/-- A RING_ERROR completion (R423, R428): the rule gives it no status, which is a free value (log entry 2). -/
def ringError (f : FnId) (r : RingId) (cnt : Nat) : Act Unit := do
  let d ← look
  setRing f r { ringOf d f r with stopped := true }
  orReg .HIF_WRING_CTRL f.val r.val 0x200
  let st ← draw
  post f r (entryBytes 0 5 (st % 256) 0 cnt)

/-- WORK_DOORBELL (R423, R483): a count that moves backwards or runs ahead is a ring error; a ring that is not enabled or has met one
takes no doorbell. -/
def doWorkDoorbell (f : FnId) (r : RingId) (cnt : Nat) : Act Unit := do
  let d ← look
  onlyIf (reaches d f) do
    wakeFabric
    let x := ringOf d f r
    let ctl := regOf d .HIF_WRING_CTRL f.val r.val
    onlyIf (bitOf ctl 8 && !x.stopped)
      (if 2 ^ 31 ≤ (cnt + 2 ^ 32 - x.bell) % 2 ^ 32 ∨ 2 ^ bitsOf ctl 4 0 < (cnt + 2 ^ 32 - x.fetched) % 2 ^ 32 then ringError f r cnt
      else setRing f r { x with bell := cnt })

/-- What a change of HIF_WRING_CTRL.enable brings (R423): set, it starts the ring and its completion ring at 0, and entries that were held are
then written. -/
def ringEnabled (f : FnId) (r : RingId) (before : Nat) : Act Unit := do
  let d ← look
  onlyIf (!bitOf before 8 && bitOf (regOf d .HIF_WRING_CTRL f.val r.val) 8) do
    setRing f r Ring.empty
    onSome (fnOf d f).part fun p => updPart p fun y => { y with heads := y.heads.filter (· ≠ (f, r)) }
    let d ← look
    onlyIf ((fnOf d f).st == .active) (drainHold ((fnOf d f).hold.length + 1) f)

/-- COMPLETION_DOORBELL (R428, R430): entries the host has consumed make room for those held. -/
def doCplDoorbell (f : FnId) (r : RingId) (cnt : Nat) : Act Unit := do
  let d ← look
  onlyIf (reaches d f) do
    wakeFabric
    setRing f r { ringOf d f r with consumed := cnt }
    let d ← look
    onlyIf ((fnOf d f).st == .active) (drainHold ((fnOf d f).hold.length + 1) f)

/-- MSIX_MODERATION_TIMER (R431): mod_us have passed since the first entry not yet signalled. -/
def doMsixTimer (f : FnId) (r : RingId) : Act Unit := guarded do
  let d ← look
  let x := ringOf d f r
  onlyIf ((fnOf d f).st == .active && x.unsig != 0) do
    setRing f r { x with unsig := 0 }
    emit (.out (.msix f (bitsOf (regOf d .HIF_CRING_CTRL f.val r.val) 13 8)))

/-- HIF_ADB written (R432, R483). -/
def adminBell (f : FnId) (cnt : Nat) : Act Unit := do
  wakeFabric
  let d ← look
  emit (.fn f { fnOf d f with adb := cnt })

end Sys2Proof.Machine
end

