-- ==== Sys2Proof/Machine/Bar.lean ====
section
/-! DEFINITION. What a BAR0 offset names (R420, R421, R579–R591), and what a register reads (R3, R578 and the field tables). -/

namespace Sys2Proof.Machine

/-- What lies at a BAR0 offset: a register, a counter's half, an audit counter's half (R519: 0 grants, 1 returns, 2 and 3 their
snapshots), a word of the snapshot window, a word of the log ring window, or nothing that a table names (R575). -/
inductive BarAt where
  | reg (row : RegRow) (unit idx : Nat)
  | ctr (row : CtrRow) (unit idx : Nat) (high : Bool)
  | audit (kind k : Nat) (high : Bool)
  | snap (off : Nat)
  | log (off : Nat)
  | none
  deriving DecidableEq, Repr

/-- The block of the module page at an offset, its unit, and the offset within the block (R580). -/
def modBlock (o : Nat) : Option (Blk × Nat × Nat) :=
  let r := o % 4096
  if 0x20000 ≤ o ∧ o < 0x30000 then some (.eng, o / 4096 - 0x20, r)
  else if 0x30000 ≤ o ∧ o < 0x40000 then some (.link, o / 0x400 - 0xC0, o % 0x400)
  else if 0x40000 ≤ o ∧ o < 0x48000 then some (.pile, o / 4096 - 0x40, r)
  else match o / 4096 with
    | 0x0 => some (.top, 0, r)
    | 0x1 => some (.pwr, 0, r)
    | 0x2 => some (.sec, 0, r)
    | 0x3 => some (.fw, 0, r)
    | 0x4 => some (.strike, 0, r)
    | 0xC => some (.dbg, 0, r)
    | 0xD => some (.hifReset, 0, r)
    | 0x10 => some (.tylMod, 0, r)
    | _ => none

/-- The block of a die page at an offset (R579, R589). -/
def dieBlock (d o : Nat) : Option (Blk × Nat × Nat) :=
  if o < 4096 then some (.die, d, o)
  else if 0x20000 ≤ o ∧ (o - 0x20000) / 0x4000 < 50 then some (.core, 50 * d + (o - 0x20000) / 0x4000, (o - 0x20000) % 0x4000)
  else none

/-- The block of a partition page at an offset (R590). -/
def partBlock (p o : Nat) : Option (Blk × Nat × Nat) :=
  match o / 4096 with
  | 0 => some (.sched, p, o % 4096)
  | 1 => some (.orphan, p, o % 4096)
  | 2 => some (.barl, p, o % 4096)
  | 3 => some (.upd, p, o % 4096)
  | 4 => some (.mmu, p, o % 4096)
  | _ => none

/-- The block at a BAR0 offset, for accesses of a function (R420, R579). -/
def barBlock (f : FnId) (o : Nat) : Option (Blk × Nat × Nat) :=
  if o < 0x1000000 then modBlock o
  else if o < 0x2000000 then dieBlock (o / 0x100000 - 0x10) (o % 0x100000)
  else if o < 0x3000000 then partBlock (o / 0x100000 - 0x20) (o % 0x100000)
  else if o < 0x3100000 then some (.fn, f.val, o - 0x3000000)
  else none

/-- The partition of a core's copies that a function's accesses reach (R115). -/
def copyPart (d : Dev) (f : FnId) (c : Nat) : Nat :=
  if isPf f then bitsOf (regOf d .CORE_PART_SEL c) 3 0 else (((fnOf d f).part.map (·.val)).getD 0)

/-- What a BAR0 offset names. -/
def barAt (d : Dev) (f : FnId) (o : Nat) : BarAt :=
  if 0x8000 ≤ o ∧ o < 0xC000 then .snap (o - 0x8000)
  else if 0xC00000 ≤ o ∧ o < 0x1000000 then .log (o - 0xC00000)
  else if 0x100 ≤ o ∧ o < 0x300 then .audit (o / 128 - 2) (o % 128 / 8) (o % 8 == 4)
  else match barBlock f o with
    | none => .none
    | some (b, u, r) =>
      match regAt b r with
      | some (row, i) => .reg row u (if row.name.perPart then copyPart d f u else i)
      | none =>
        match ctrAt b r with
        | some (row, i, high) => .ctr row u i high
        | none => .none

/-- Whether a core lies in the mask of the partition that a function is bound to. -/
def coreOfFn (d : Dev) (f : FnId) (c : Nat) : Bool :=
  ((fnOf d f).part.map fun p => bitOf (regOf d .SCHED_CORE_MASK p.val (c / 32)) (c % 32)).getD false

/-- Whether a function's BAR0 decodes an offset for a read (R421): a PF's decodes everything. -/
def barDecodes (d : Dev) (f : FnId) (o : Nat) : Bool :=
  if isPf f then true
  else if o < 0x1000000 then false
  else if o < 0x2000000 then
    match dieBlock (o / 0x100000 - 0x10) (o % 0x100000) with
    | some (.core, c, _) => coreOfFn d f c
    | some (_, k, _) => (List.range 50).any fun i => coreOfFn d f (50 * k + i)
    | none => false
  else if o < 0x3000000 then (fnOf d f).part.map (·.val) == some (o / 0x100000 - 0x20)
  else decide (o < 0x3100000)

/-! What registers read. -/

/-- The low 32 bits of a 64-bit value, or its high ones, by the index of its half. -/
def half (v i : Nat) : Nat := v / 2 ^ (32 * i) % 2 ^ 32

/-- A sum of bits `2 ^ i` over the numbers that a condition picks. -/
def bitSum (n : Nat) (f : Nat → Bool) : Nat := ((List.range n).map fun i => b2n (f i) * 2 ^ i).foldl (· + ·) 0

/-- The code of a domain's state (R497). -/
def DomSt.code : DomSt → Nat
  | .off => 0
  | .sleep => 1
  | .waking => 2
  | .on => 3

/-- The code of a processor's state (R473). -/
def ProcSt.code : ProcSt → Nat
  | .off => 0
  | .running => 1
  | .restarting => 2
  | .halted => 3

/-- The code of a link's state (R330). -/
def LinkSt.code : LinkSt → Nat
  | .down => 0
  | .training => 1
  | .up => 2
  | .narrow => 3
  | .failed => 4

/-- The code of a slot's state (R90). -/
def SlotSt.code : SlotSt → Nat
  | .free => 0
  | .placed => 1
  | .ready => 2
  | .waiting => 3
  | .saving => 4
  | .ending => 5
  | .aborting => 6

/-- The code of the shadow's state (R79). -/
def ShadowSt.code : ShadowSt → Nat
  | .empty => 0
  | .loading => 1
  | .full => 2
  | .draining => 3

/-- The code of a function's state (R446). -/
def FnSt.code : FnSt → Nat
  | .active => 0
  | .orphaned => 1
  | .resetting => 2
  | .disabled => 3

/-- The block that DBG_SEL names. -/
def dbgSel (d : Dev) : Nat := bitsOf (regOf d .DBG_SEL 0) 11 0

/-- Registers of the module page that show state (R473–R475, R494, R497, R533, R550, R551, R582). -/
def readModule (d : Dev) (n : RegName) (unit idx : Nat) : Nat :=
  match n with
  | .TOP_CORES => 800 - d.retired.length
  | .PWR_STATUS => pwrStatus d
  | .PWR_DOM_STATE => ((List.range 16).map fun k => (if 16 * idx + k < 50 then (domOf d (16 * idx + k)).code else 0) * 4 ^ k).foldl (· + ·) 0
  | .SEC_SERIAL => half Config.serial.toNat idx
  | .SEC_SVN => d.sec.svn + d.sec.revoked * 256
  | .SEC_DEBUG_TOKEN => 0
  | .FW_PROC_STATUS => ((List.range 6).map fun i => (procOf d (Fin.ofNat 6 i)).st.code * 16 ^ i).foldl (· + ·) 0 +
      bitSum 6 (fun i => (procOf d (Fin.ofNat 6 i)).pending) * 2 ^ 24
  | .FW_LOG_HEAD => half d.fw.logNext idx
  | .FW_FEAT_FW => half (offered d) idx
  | .STRIKE_STATUS => regOf d .STRIKE_STATUS 0 + b2n d.strike.snap.isSome * 2 + b2n (strikeReady d)
  | .DBG_CRD => (dbgOf d (dbgSel d)).crd
  | .DBG_LAT => (dbgOf d (dbgSel d)).lat
  | .DBG_PAR => regOf d .DBG_PAR (dbgSel d)
  | .DBG_STATUS => (dbgOf d (dbgSel d)).withheld.length * 65536 + (dbgOf d (dbgSel d)).inj * 256 + b2n (inUnlock d 0 (dbgSel d))
  | n => regOf d n unit idx

/-- Registers of links, piles and dies that show state (R303, R362, R388, R415). -/
def readUnit (d : Dev) (n : RegName) (unit idx : Nat) : Nat :=
  let l := linkOf d (Fin.ofNat 64 unit)
  let pl := pileOf d (Fin.ofNat 8 unit)
  let busy := (d.slots.filter fun s => s.1.1.val / 50 == unit && s.2.st != .free).length
  match n with
  | .TYL_LINK_STATUS => l.st.code * 2 ^ 29 + popcount l.txMask * 2 ^ 23 + l.peer % 4096 * 2 ^ 11 + l.peerEng % 16 * 128 + l.peerPort % 4 * 32
  | .TYL_LINK_MASK => l.txMask % 2 ^ 32
  | .TYL_LINK_RTT => l.rtt % 2 ^ 13
  | .PILE_STATUS => regOf d .PILE_STATUS unit + pl.fences.length + b2n pl.failed * 2 ^ 14 + b2n pl.ready * 2 ^ 15
  | .XCH_STATUS => (xchOf d (Fin.ofNat 16 unit)).q.length % 256 * 2 ^ 16 + ((xchOf d (Fin.ofNat 16 unit)).rounds.filter Round.isOpen).length
  | .SCHED_DIE_STATUS => busy * 2 ^ 16 + (400 - busy)
  | n => regOf d n unit idx

/-- Registers of a core that show state (R79, R113, R116, R117, R147, R186). DESIGN CHOICE (log entry 120): shadow_slot reads 0 while the
shadow is EMPTY or DRAINING and has no owner. -/
def readCore (d : Dev) (n : RegName) (unit idx : Nat) : Nat :=
  let c : CoreId := Fin.ofNat 800 unit
  let a := arrOf d c
  match n with
  | .CORE_ID => b2n (d.retired.contains unit) * 2 ^ 31 + unit * 2 ^ 16 + unit / 50 * 256 + unit % 50 / 10 * 16 + unit % 10
  | .CORE_SLOT_STATE => ((List.range 8).map fun k => (slotOf d c (Fin.ofNat 8 k)).st.code * 16 ^ k).foldl (· + ·) 0
  | .SPAD_WINDOW =>
    let x := slotOf d c (Fin.ofNat 8 idx)
    if x.st = .free ∨ x.size = 0 then 0 else 2 ^ 31 + x.base % 64 * 2 ^ 16 + (x.size - 1) % 64
  | .ARR_STATUS => b2n (!a.passes.isEmpty) * 2 ^ 15 + ((a.active.map fun o => 2 ^ 11 + o.slot.val * 2 ^ 12).getD 0) +
      ((a.shadow.map fun o => o.slot.val * 256).getD 0) + a.sh.code * 64
  | .VEC_FTAB_STATUS => bitSum 16 (fun i => (ftabOf d c i).loading.isSome) * 2 ^ 16 + bitSum 16 (fun i => (ftabOf d c i).valid)
  | .STRM_ARMED => bitSum 16 (fun i => ((streamOf d c (Fin.ofNat 16 i)).map fun x => x.desc.drain).getD false) * 2 ^ 16 +
      bitSum 16 (fun i => (streamOf d c (Fin.ofNat 16 i)).isSome)
  | n => regOf d n unit idx

/-- Registers of a partition page that show state (R224, R275, R414, R415). -/
def readPart (d : Dev) (n : RegName) (unit idx : Nat) : Nat :=
  let p : PartId := Fin.ofNat 16 unit
  let y := partOf d p
  let r := runOf d p
  let b := barrelOf d p
  let e := escOf d p
  let use (u : Nat) : Nat := regOf d n unit % 65536 + u % 65536 * 65536
  match n with
  | .SCHED_STATUS => b2n y.susp * 2 ^ 29 + b2n (!y.heads.isEmpty) * 2 ^ 28 + r.crit.length % 2 ^ 14 * 2 ^ 14 + r.defer.length % 2 ^ 14
  | .SCHED_QUOTA_SLOTS => use (slotUse d p)
  | .SCHED_QUOTA_CHAN => use (chansUsed d p)
  | .SCHED_QUOTA_LINK => use (weightUsed d p)
  | .SCHED_QUOTA_POWER => use (regOf d .PWR_PART_EST 0 unit)
  | .BARL_STATUS => regOf d .BARL_STATUS unit + b2n b.lost * 8 + b2n b.spilling * 2 + b2n y.step.isSome
  | .ESC_STATUS => regOf d .ESC_STATUS unit + e.outA % 4 * 16 + e.st.code
  | .ESC_GEN => half e.gen idx
  | .ESC_STEP => half e.step idx
  | n => regOf d n unit idx

/-- Registers of a function's page that show state (R446, R474). -/
def readFn (d : Dev) (n : RegName) (unit idx : Nat) : Nat :=
  let f : FnId := Fin.ofNat 16 unit
  let x := fnOf d f
  match n with
  | .HIF_FN_STATUS => ((x.part.map fun p => b2n ((partOf d p).running && (partOf d p).jobFn == f) * 2 ^ 11 + 2 ^ 10 + p.val * 64).getD 0) + x.st.code
  | .FW_FEAT_ACT => half x.feat idx
  | n => regOf d n unit idx

/-- The blocks of a partition page. -/
def Blk.inPart : Blk → Bool
  | .sched | .orphan | .barl | .upd | .mmu => true
  | _ => false

/-- What a register reads: the page of a partition that does not exist reads its reset values (R578). -/
def regValue (d : Dev) (row : RegRow) (unit idx : Nat) : Nat :=
  match row.blk with
  | .eng | .link | .pile | .die => readUnit d row.name unit idx
  | .core => readCore d row.name unit idx
  | .sched | .orphan | .barl | .upd | .mmu => if (partOf d (Fin.ofNat 16 unit)).alive then readPart d row.name unit idx else row.reset
  | .fn => readFn d row.name unit idx
  | _ => readModule d row.name unit idx

/-- An audit counter (R519). -/
def auditValue (d : Dev) (kind k : Nat) : Nat :=
  (tabGet (match kind with
    | 0 => d.grants
    | 1 => d.returns
    | 2 => d.snapG
    | _ => d.snapR) k 0#64).toNat

/-- The 64-bit value of a counter at a BAR0 offset, whichever half the offset names, and whether it is the high half. -/
def counterAt (d : Dev) (f : FnId) (o : Nat) : Option (Nat × Bool) :=
  match barAt d f o with
  | .ctr row unit idx high => some (ctrOf d row.name unit idx, high)
  | .audit kind k high => if o % 4 = 0 then some (auditValue d kind k, high) else none
  | _ => none

end Sys2Proof.Machine
end

