-- ==== Sys2Proof/Machine/Registers.lean ====
section
/-! DEFINITION. BAR0 accesses (R3, R5, R7, R81, R115, R421, R540, R575–R578): reads with the counter latch, writes with their checks, and what
a write to each register does. -/

namespace Sys2Proof.Machine

/-- An access counted as a violation (R7, R421, R575). -/
def violation (f : FnId) : Act Unit := count .HIF_ACC_VIOL f.val 1

/-! Reads. -/

/-- The clock of a block's snapshot (R540): 0 core, 1 fabric, 2 AON. -/
def snapClock (block : Nat) : Nat := if block < 0x320 then 0 else if block = 0x37C then 2 else 1

/-- A word of the snapshot window (R540): the header's sequence number, block, clock and valid; the layout of the control part and the
data are free values (log entry 2), and the data part reads zero outside an unlock of scope bit 1. -/
def snapWord (o : Nat) : Act Nat := do
  let d ← look
  let b := bitsOf (regOf d .STRIKE_SNAP_SEL 0) 11 0
  if o < 4 then pure (regOf d .STRIKE_LATCH_SEQ 0)
  else if o < 8 then pure (b + snapClock b * 65536 + b2n d.strike.snap.isSome * 2 ^ 24)
  else if 0x10 ≤ o ∧ o < 0x40 then pure 0
  else if 0x2000 ≤ o ∧ !inUnlock d 1 b then pure 0
  else do
    let v ← draw
    pure (v % 2 ^ 32)

/-- The value of an aligned 4 B read (R81, R421, R575, R576): a counter's low word latches its high word. -/
def barRead (f : FnId) (o : Nat) : Act Nat := do
  let d ← look
  if !barDecodes d f o then pure 0
  else match counterAt d f o with
    | some (v, false) => do
      emit (.latch f (some (o, toWord (v / 2 ^ 32))))
      pure (v % 2 ^ 32)
    | some (v, true) =>
      match tabFind d.latches f with
      | some (low, w) => pure (if low + 4 = o then w.toNat else v / 2 ^ 32)
      | none => pure (v / 2 ^ 32)
    | none =>
      match barAt d f o with
      | .reg row unit idx => pure (regValue d row unit idx)
      | .snap s => snapWord s
      | .log s => pure (leNat (bytesOf d .log s 4))
      | _ => pure 0

/-- COUNTER_LOW_READ (R81, R575–R577): a BAR0 read of 4 B. -/
def doBarRead (f : FnId) (o : Nat) : Act Unit := do
  let d ← look
  onlyIf (reaches d f) do
    wakeFabric
    if o % 4 ≠ 0 then do
      violation f
      emit (.out (.regRead f o 0))
    else do
      let v ← barRead f o
      emit (.out (.regRead f o v))

/-! What writes do. -/

/-- A register's bits after a write (R3): RW bits from the value, W1C bits cleared, W1S bits set. -/
def written (row : RegRow) (old v : Nat) : Nat :=
  (((old &&& (0xFFFFFFFF - row.rw)) ||| (v &&& row.rw)) &&& (0xFFFFFFFF - (v &&& row.w1c))) ||| (v &&& row.w1s)

/-- A write to a perturbation register acts only within an unlock of scope bit 0; credits of a pile are the module's (R543). -/
def debugWrite (n : RegName) (v : Nat) : Act Unit := do
  let d ← look
  let b := dbgSel d
  let whole := unlockOf d 0 == some 0xFFFF
  let pileWide := n == .DBG_CRD || (n == .DBG_PAR && bitsOf v 27 26 == 3)
  if inUnlock d 0 b ∧ (whole ∨ kindOf b ≠ .pile ∨ !pileWide) then
    match n with
    | .DBG_CRD => setCredit b v
    | .DBG_LAT => setLatency b v
    | _ => setInjection b v
  else count .DBG_REFUSED 0 1

/-- Whether some engine of an optical domain is enabled (R483). -/
def opticalOn (d : Dev) (k : Nat) : Bool := (List.range 4).any fun i => bitOf (regOf d .TYL_ENG_CTRL (4 * k + i)) 5

/-- PWR_DOM_HOLD written (R497): a domain that is held no longer turns off when nothing has it on. -/
def holdChanged : Act Unit := do
  let d ← look
  each (List.range 4) fun k => onlyIf (!domHeld d (40 + k) && !opticalOn d k) (setDom (40 + k) .off)
  onlyIf (!bitOf (regOf d .STRIKE_CTRL 0) 0) debugOff

/-- TYL_ENG_CTRL.enable switches the engine's optical domain and, cleared, takes its links down (R361, R483). -/
def engineEnabled (e before : Nat) : Act Unit := do
  let d ← look
  let dom := 40 + e / 4
  onlyIf (bitOf before 5 && !bitOf (regOf d .TYL_ENG_CTRL e) 5) (engineDown chanFail e)
  if opticalOn d (e / 4) then onlyIf (domOf d dom == .off) (setDom dom .waking) else onlyIf (!domHeld d dom) (setDom dom .off)

/-- A level or a trace mask written by a host waits for SUP's restart (R460). -/
def logSetting (n : RegName) (idx v : Nat) : Act Unit := do
  let d ← look
  if (procOf d procSUP).st = .restarting then updFw fun x => { x with late := x.late ++ [.log n idx v] } else setReg n 0 idx v

/-- What a write of a register that stands does (R3 and the field tables): the register's bits, and what its fields trigger. The bits
of PWR_DOM_HOLD_1 above domain 49 are reserved (R497). -/
def regWrite (f : FnId) (row : RegRow) (unit idx v : Nat) : Act Unit := do
  let d ← look
  let old := regOf d row.name unit idx
  let new := written row old v
  let p : PartId := Fin.ofNat 16 unit
  let ring : RingId := Fin.ofNat 8 idx
  match row.name with
  | .TOP_AUDIT_CTRL => onlyIf (bitOf v 0) auditSnap
  | .SEC_SVN_COMMIT | .SEC_KEY_CTRL | .SEC_DEBUG_CTRL => secWrite row.name f v
  | .SEC_DEBUG_TOKEN => setReg row.name 0 idx v
  | .FW_PROC_CTRL => doProcRestart f v
  | .FW_LOAD_CTRL => doFwLoadGo f v
  | .FW_LOG_CTRL | .FW_TRACE_MASK => logSetting row.name idx new
  | .STRIKE_CTRL => do
    strikeRelease v
    strikeControl v
  | .STRIKE_FIRE => strikeFire v
  | .STRIKE_THR_SEL | .STRIKE_THR_LO | .STRIKE_THR_HI => do
    setReg row.name unit idx new
    emit (.strike { d.strike with below := d.strike.below.set idx false })
  | .DBG_CRD | .DBG_LAT | .DBG_PAR => debugWrite row.name v
  | .TYL_ENG_CTRL => do
    setReg row.name unit idx new
    engineEnabled unit old
  | .VEC_FTAB_LOAD => ftabGo (Fin.ofNat 800 unit) v (bitsOf (regOf d .CORE_PART_SEL unit) 3 0)
  | .PWR_DOM_HOLD => do
    setReg row.name unit idx (if idx = 1 then new % 2 ^ 18 else new)
    holdChanged
  | .SCHED_CORE_MASK => do
    setReg row.name unit idx (((List.range 32).filter fun i => d.retired.contains (32 * idx + i)).foldl (fun w i => setBit w i false) new)
    joinCores p
  | .SCHED_QUOTA_POWER => setPower p (v % 65536)
  | .BARL_SPILL_LO | .BARL_SPILL_HI | .BARL_SPILL_SIZE | .BARL_SPILL_TGT => do
    setReg row.name unit idx new
    setBarrel p { barrelOf d p with unusable := false }
  | .HIF_WRING_CTRL => do
    setReg row.name unit idx new
    ringEnabled f ring old
  | .HIF_WDB => doWorkDoorbell f ring v
  | .HIF_CDB => doCplDoorbell f ring v
  | .HIF_ADB => adminBell f v
  | n => setReg n unit idx new
  onlyIf (bitOf v 1 && ctrMap.any fun r => r.ctl == some row.name)
    (if blockOn d row.name unit then clearCounters row.name unit else updFw fun x => { x with late := x.late ++ [.clear row.name unit] })

/-- The partition to which a register's field belongs (R7): that of its page, or of the copies on a core that the access reaches. -/
def fieldPart (row : RegRow) (unit idx : Nat) : Option PartId :=
  if row.blk.inPart then some (Fin.ofNat 16 unit) else if row.name.perPart then some (Fin.ofNat 16 idx) else none

/-- Whether a write to a register stands (R7): an expert-only field of a partition when that is at the expert level, one of a shared block
when a PF with the expert control level writes it; never by the partition to which the writer is bound. The budget comes only from the board
management controller (R499, R569). -/
def writeStands (d : Dev) (f : FnId) (row : RegRow) (unit idx : Nat) : Bool :=
  let shared := isPf f && hasFeat d f 16
  row.name != .PWR_BUDGET && (!row.expert ||
    match fieldPart row unit idx with
    | some p => (partOf d p).expert
    | none => shared)

/-- Whether a VF's BAR0 decodes a write (R115, R421): its partition's page, its copies of CORE_ARITH_CTRL, CORE_ARITH_STATUS and CORE_GOV_CTRL
on its partition's cores, its HIF page. -/
def writeDecodes (d : Dev) (f : FnId) (o : Nat) : Bool :=
  isPf f || (barDecodes d f o &&
    match barAt d f o with
    | .reg row _ _ => row.blk.inPart || row.blk == .fn || (row.name.perPart && row.name != .CORE_GOV_STEP)
    | _ => decide (0x2000000 ≤ o))

/-- A BAR0 write (R3, R7, R421, R575, R578). -/
def barWrite (f : FnId) (o width v : Nat) : Act Unit := do
  let d ← look
  onlyIf (reaches d f) do
    wakeFabric
    if width ≠ 4 ∨ o % 4 ≠ 0 ∨ !writeDecodes d f o then violation f
    else match barAt d f o with
      | .reg row unit idx =>
        if row.blk.inPart ∧ !(partOf d (Fin.ofNat 16 unit)).alive then pure ()
        else if writeStands d f row unit idx then regWrite f row unit idx v
        else violation f
      | _ => pure ()

/-- A write of a value to a register of the module page or of a core by its name. -/
def writeNamed (f : FnId) (n : RegName) (unit idx v : Nat) : Act Unit := do
  let d ← look
  onlyIf (reaches d f) do
    wakeFabric
    if !isPf f then violation f
    else onSome n.row fun row => if writeStands d f row unit idx then regWrite f row unit idx v else violation f

/-- COUNTER_CLEAR (R78, R118, R145, R185 …): 1 written to the cnt_clear of the control register at an offset, its other bits as they stand. -/
def doCounterClear (f : FnId) (o : Nat) : Act Unit := do
  let d ← look
  match barAt d f o with
  | .reg row unit idx => onlyIf (ctrMap.any fun r => r.ctl == some row.name) (barWrite f o 4 (regOf d row.name unit idx ||| 2))
  | _ => pure ()

/-- WORK_RING_ENABLE (R423): a function's own HIF_WRING_CTRL written. -/
def doRingEnable (f : FnId) (r : RingId) (v : Nat) : Act Unit := barWrite f (0x3000110 + 0x40 * r.val) 4 v

/-- STRIKE_THRESHOLD_SAMPLE (R542): a source fires at the first sample that reaches its threshold after one below it, and clears its own
enable. -/
def doThreshold (i : Fin 4) : Act Unit := guarded do
  let d ← look
  let off := bitsOf (regOf d .STRIKE_THR_SEL 0 i.val) 25 3 * 8
  match counterAt d 0 off with
  | some (v, false) => do
    let thr := regOf d .STRIKE_THR_HI 0 i.val * 2 ^ 32 + regOf d .STRIKE_THR_LO 0 i.val
    let below := d.strike.below.getD i.val false
    emit (.strike { d.strike with below := d.strike.below.set i.val (decide (v < thr)) })
    onlyIf (decide (thr ≤ v) && below && bitOf (regOf d .STRIKE_CTRL 0) (1 + i.val)) do
      setField .STRIKE_CTRL 0 0 (1 + i.val) (1 + i.val) 0
      raiseStrike 8
  | _ => pure ()

end Sys2Proof.Machine
end

