-- ==== Sys2Proof/Machine/Host.lean ====
section
/-! DEFINITION. BAR2 accesses (R432, R433, R438, R440), functions and ports that disappear or are reset (R437–R445, R558), full resets (R444,
R513, R514, R565) and the retirement of a core (R507). -/

namespace Sys2Proof.Machine

/-! BAR2. -/

/-- Host bytes stored into a range of a function's admin area, as far as they meet it. -/
def adminStore (f : FnId) (lo hi off : Nat) (bs : List Byte) (poisoned : Bool) : Act Unit := do
  let a := max off lo
  let b := min (off + bs.length) hi
  onlyIf (decide (a < b)) do
    let part := (bs.drop (a - off)).take (b - a)
    putImage (.admin f) a part (if poisoned then allWords a part.length else [])

/-- What a write of the liveness word brings (R438, R440): all ones is a clean detach; an orphaned function's host has come back. -/
def livenessWritten (f : FnId) : Act Unit := do
  let d ← look
  let w := leNat (bytesOf d (.admin f) 0x5000 4)
  let x := fnOf d f
  if w = 0xFFFFFFFF then orphanFn f
  else onlyIf (x.st == .orphaned) (emit (.fn f { x with live := some w }))

/-- Whether a range of BAR2 meets bytes `lo` to `hi - 1`. -/
def rangeMeets (off n lo hi : Nat) : Bool := decide (off < hi) && decide (lo < off + n)

/-- The virtual address that a data window offset names, with the partition (R433). -/
def windowVa (d : Dev) (f : FnId) (off n : Nat) : Option (PartId × Nat) :=
  let va := addrPair d .HIF_WIN_BASE_LO .HIF_WIN_BASE_HI f.val 0 + (off - 0x100000)
  (fnOf d f).part.bind fun p => if va + n ≤ 2 ^ 48 then some (p, va) else none

/-- DATA_WINDOW_READ (R432, R433, R501): a BAR2 read. -/
def doWindowRead (f : FnId) (off n : Nat) : Act Unit := do
  let d ← look
  onlyIf (reaches d f) do
    wakeFabric
    if off < 0x100000 then emit (.out (.dataRead f (bytesOf d (.admin f) off n) (!(badIn d (.admin f) off n).isEmpty)))
    else do
      let ones : Act Unit := do
        violation f
        emit (.out (.dataRead f (List.replicate n 0xFF#8) false))
      match windowVa d f off n with
      | none => ones
      | some (p, va) =>
        match ← vaRead (envOf d p) p {} va n with
        | .error _ => ones
        | .ok (bs, bad) => emit (.out (.dataRead f bs (!bad.isEmpty)))

/-- DATA_WINDOW_WRITE (R432, R433, R438, R501): a BAR2 write; the host writes the admin command ring, its liveness word and its consumed
count. -/
def doWindowWrite (f : FnId) (off : Nat) (bs : List Byte) (poisoned : Bool) : Act Unit := do
  let d ← look
  onlyIf (reaches d f) do
    wakeFabric
    if off < 0x100000 then do
      adminStore f 0 0x4000 off bs poisoned
      adminStore f 0x5000 0x5008 off bs poisoned
      onlyIf (rangeMeets off bs.length 0x5000 0x5004) (livenessWritten f)
    else match windowVa d f off bs.length with
      | none => violation f
      | some (p, va) =>
        match ← vaWrite (envOf d p) p {} va bs (if poisoned then allWords va bs.length else []) with
        | .error _ => violation f
        | .ok _ => pure ()

/-! Functions. -/

/-- LIVENESS_SAMPLE (R437, R438): two samples in a row that find the word unchanged orphan the function. -/
def doLiveness (f : FnId) : Act Unit := guarded do
  let d ← look
  let x := fnOf d f
  onlyIf (procRuns d procHIF && x.st == .active && x.part.isSome) do
    let w := leNat (bytesOf d (.admin f) 0x5000 4)
    let same := if x.live = some w then x.same + 1 else 0
    emit (.fn f { x with
      live := some w
      same := same })
    onlyIf (decide (2 ≤ same)) (orphanFn f)

/-- ORPHAN_HOLD_EXPIRY (R439, R460). -/
def doHoldExpiry (p : PartId) : Act Unit := guarded do
  let d ← look
  onlyIf (procRuns d procHIF && (partOf d p).held) (endPolicy p)

/-- FLR (R441). -/
def doFlr (f : FnId) : Act Unit := guarded (resetFn f .active)

/-- FUNCTION_DISABLE (R441). -/
def doFnDisable (f : FnId) : Act Unit := guarded (resetFn f .disabled)

/-! Ports. -/

/-- The functions of a port (R2). -/
def portFns (port : HostPort) : List FnId := allFns.filter fun f => portOf f == port

/-- A full reset asked for while the module works (R444): with HIF running its notice comes first, one second ahead. -/
def askReset (cause : Nat) : Act Unit := do
  let d ← look
  if d.fw.notice.isSome then pure ()
  else if procRuns d procHIF then resetNotice cause
  else onlyIf (resettable d) (fullResetNow cause)

/-- A hot reset or link disable of a port (R443). -/
def portReset (port : HostPort) : Act Unit := do
  let d ← look
  if bitOf (regOf d .HIF_RESET_CTRL 0) 0 then askReset 2 else each (portFns port) fun f => resetFn f .active

/-- Whether STRAP3 keeps a port in reset (R558, R566). -/
def strapped (d : Dev) (port : HostPort) : Bool := port == .portB && bitOf d.pins.straps 3

/-- PCIE_HOT_RESET (R443). -/
def doHotReset (port : HostPort) : Act Unit := guarded do
  let d ← look
  onlyIf (!strapped d port) (portReset port)

/-- PCIE_LINK_DOWN (R438): the link trains again by itself. -/
def doLinkDown (port : HostPort) : Act Unit := guarded do
  let d ← look
  onlyIf (!strapped d port) (each (portFns port) orphanFn)

/-- PERST_ASSERT (R558): the port is in reset until its PERST# is released; port B ignores it under STRAP3. -/
def doPerst (port : HostPort) : Act Unit := do
  let d ← look
  onlyIf (!strapped d port && !d.pins.perst.contains port) do
    updPins fun x => { x with perst := x.perst ++ [port] }
    onlyIf (awake d) do
      portReset port
      updPins fun x => { x with ports := tabPut x.ports port .reset }

/-- PERST_RELEASE (R558): the port trains. -/
def doPerstRelease (port : HostPort) : Act Unit := do
  let d ← look
  onlyIf (d.pins.perst.contains port) do
    updPins fun x => { x with perst := x.perst.filter (· != port) }
    onlyIf (awake d && !strapped d port) (updPins fun x => { x with ports := tabPut x.ports port .up })

/-! Full resets. -/

/-- RESET_NOTICE_EXPIRY (R444): the reset follows its notice. -/
def doNoticeExpiry : Act Unit := do
  let d ← look
  onSome d.fw.notice fun cause => onlyIf (resettable d) (fullResetNow cause)

/-- FULL_RESET (R514): the cause is that of the notice or of the module error that stands; with neither the rules name none, and it is a free
one (log entry 2). -/
def doFullReset : Act Unit := do
  let d ← look
  onlyIf (resettable d) do
    let v ← draw
    fullResetNow (match d.fw.notice with
      | some cause => cause
      | none => if fatal d then 4 else 1 + v % 4)

/-- RESET_INPUT (R565): RESET_N low for that many AON ticks; with a notice pending its reset is the notice's (R574). -/
def doResetInput (low : Nat) : Act Unit := do
  let d ← look
  onlyIf (decide (2500 ≤ low) && resettable d && d.fw.notice.isNone) (fullResetNow 3)

/-- Whether SUP resets the module by itself after a module error (R513): sources 0x7 and 0x8 follow R491. -/
def autoResets (d : Dev) : Bool :=
  let src := bitsOf (regOf d .TOP_ERR_FIRST 0) 31 28
  fatal d && bitOf (regOf d .TOP_ERR_CTRL 0) 2 && procRuns d procSUP && src != 7 && src != 8

/-- AUTO_RESET_TIMER (R513). -/
def doAutoReset : Act Unit := guarded do
  let d ← look
  onlyIf (autoResets d) (fullResetNow 4)

/-- What follows a module error at once (R512, R513): every open step is abandoned, and with HIF running the notice of the reset is posted. -/
def fatalProgress : Act Unit := do
  let d ← look
  onlyIf (fatal d) do
    each allParts fun p => onlyIf ((partOf d p).alive && (partOf d p).step.isSome) (abandonStep p)
    let d ← look
    onlyIf (autoResets d && procRuns d procHIF && d.fw.notice.isNone) (resetNotice 4)

/-! Retirement (R13, R507). -/

/-- The tasks of a core: on its slots, and those suspended that could resume only there (R394). -/
def coreTasks (d : Dev) (c : CoreId) (p : PartId) : List Task :=
  (tasksOf d p).filter fun t => !t.over && ((t.core.map (·.1)) == some c || (t.arena.map (·.1)) == some c ||
    (t.begun && t.win != 0 && d.wins.any fun w => w.id == t.win && w.part == p && w.core == c))

/-- CORE_RETIREMENT (R13, R411, R504, R507): SUP runs. The core's tasks are aborted, its windows and arenas go to the scrub, it leaves every mask,
its bit is written into the retirement map, and both PFs are told; a step that had a task there is discarded. -/
def doRetire (c : CoreId) : Act Unit := guarded do
  let d ← look
  onlyIf (procRuns d procSUP && !d.retired.contains c.val) do
    let hit := allParts.filter fun p => (partOf d p).alive && !(coreTasks d c p).isEmpty
    each hit fun p => abortTasks p 0x19 fun t => ((coreTasks d c p).map (·.tid)).contains t.tid
    let d ← look
    each (d.wins.filter fun w => w.core == c) fun w => tellWindow w 6
    updWins fun ws => ws.map fun w => if w.core = c ∧ w.st ≠ .evicted then w.ended else w
    winProgress
    emit (.retire c)
    each allParts fun p => onlyIf (bitOf (regOf d .SCHED_CORE_MASK p.val (c.val / 32)) (c.val % 32))
      (setField .SCHED_CORE_MASK p.val (c.val / 32) (c.val % 32) (c.val % 32) 0)
    each pfs fun f => notice f 4 c.val
    each hit abandonStep

end Sys2Proof.Machine
end

