-- ==== Sys2Proof/Machine/Events.lean ====
section
/-! DEFINITION. Accesses to the barrel's aperture that come without a stream (R199–R202, R205), the start and the end of a link's training (R329,
R362), and which admin commands the FEATURES row takes. -/

namespace Sys2Proof.Machine

/-- BARREL_APERTURE_WRITE (R199–R202): a write that the entry refuses leaves it as it is. -/
def doApertureWrite (p : PartId) (va : Nat) (bs : List Byte) (close : Bool) : Act Unit := do
  let _ ← barrelWrite p va bs [] close none
  pure ()

/-- BARREL_APERTURE_READ (R202): the written bytes of a closed entry, decoded; a read of an open entry waits. -/
def doApertureRead (p : PartId) (va n : Nat) : Act Unit := do
  let d ← look
  match barrelRead d p va n with
  | .data bs => emit (.out (.pileData bs (apertureBad d p va n)))
  | _ => pure ()

/-- SPILL_WRITE_TIMEOUT (R205, R206): the step's spill target is lost. -/
def doSpillTimeout (p : PartId) : Act Unit := do
  let d ← look
  let b := barrelOf d p
  onlyIf (b.active && b.spilling && !b.lost && bitsOf (latched d p .BARL_CTRL) 5 4 != 0) (spillLost p)

/-- Whether the links are at the basic level: no PF has the expert control level active (R7, R362). -/
def linksBasic (d : Dev) : Bool := !pfs.any fun f => hasFeat d f 16

/-- LINK_TRAINING and LINK_TRAINING_RETRY (R329, R460, R479): LNK runs, and the engine's optical domain is ON. -/
def doTraining (l : LinkId) (retry : Bool) : Act Unit := do
  let d ← look
  onlyIf (procRuns d procLNK && domOf d (40 + l.val / 16) == .on) (startTraining l (linksBasic d) retry)

/-- LINK_TRAINING_DONE (R329): LNK runs. -/
def doTrainingDone (l : LinkId) (r : TrainResult) : Act Unit := do
  let d ← look
  onlyIf (procRuns d procLNK) (endTraining l r)

/-- The admin commands of the FEATURES row: its own, and those that bear no opcode of the table, which are refused (R435, R601). -/
def isFeatures (e : List Byte) : Bool := cmdOp e == 1 || cmdOp e == 0 || decide (0x18 < cmdOp e)

end Sys2Proof.Machine
end

