-- ==== Sys2Proof/Machine/Settle.lean ====
section
/-! DEFINITION. What the module's own engines do after a command, without being asked (log entry 8): engines take what stands in their queues
(R61, R126, R134), ending tasks let go of their streams (R173), RECVs take the messages that wait for them (R356), the escapement and the step
builder go on (R263, R392), released windows go to the scrub (R110), and what waited for a processor happens (R460). -/

namespace Sys2Proof.Machine

/-- The cores whose engines hold commands, or for which firmware has function tables to load. -/
def busyCores (d : Dev) : List CoreId :=
  ((d.arrs.filter fun (x : CoreId × Arr) => !x.2.q.isEmpty || x.2.run.isSome).map (·.1)) ++
    ((d.vecs.filter fun (x : CoreId × Eng) => !x.2.q.isEmpty || x.2.run.isSome).map (·.1)) ++
    ((d.lathes.filter fun (x : CoreId × Eng) => !x.2.q.isEmpty || x.2.run.isSome).map (·.1)) ++
    ((d.strmqs.filter fun (x : CoreId × List Queued) => !x.2.isEmpty).map (·.1)) ++
    ((d.ftabs.filter fun (x : (CoreId × Nat) × FTab) => x.2.lib && domOf d (x.1.1.val / 25) == .on).map fun (x : (CoreId × Nat) × FTab) => x.1.1)

/-- The engines of cores run as far as they can. -/
def settleCores : Act Unit := do
  let d ← look
  each (busyCores d) fun c => do
    kickStrm c 8
    let d ← look
    kickCore (envOf d) c
  let d ← look
  each (d.slots.filter fun x => x.2.st == .ending) fun x => endStreams (fun c s => finishStream c s none) x.1.1 x.1.2

/-- Exchange engines and RECVs go on. -/
def settleMessages : Act Unit := do
  let d ← look
  onlyIf (d.xchs.any fun x => !x.2.q.isEmpty || !x.2.rounds.isEmpty) xchProgress
  let d ← look
  each (d.chans.filter fun (x : ChanIdx × Chan) => !x.2.recvs.isEmpty) fun x => pumpRecvAll x.1

/-- The escapement and the step builder of every living partition go on. -/
def settleParts : Act Unit := do
  let d ← look
  each (d.parts.filter fun x => x.2.alive) fun x => do
    escCommit x.1
    refreshed x.1
    spillsDone x.1
    builder x.1

/-- Windows that are to be released, and cores that have left a mask (R403). -/
def settleWindows : Act Unit := do
  winProgress
  leaveCores

/-- Admin completions that waited are written while there is room (R432). -/
def flushAdmin (f : FnId) : Nat → Act Unit
  | 0 => pure ()
  | fuel + 1 => do
    let d ← look
    match (fnOf d f).aWait with
    | [] => pure ()
    | bs :: rest => onlyIf (!adminFull d f) do
      emit (.fn f { fnOf d f with aWait := rest })
      adminPost f bs
      flushAdmin f fuel

/-- What waited for a processor, for room in an admin ring, or for a core's clock (R432, R460, R479). -/
def settleModule : Act Unit := do
  flushLate
  let d ← look
  each (d.fns.filter fun x => !x.2.aWait.isEmpty) fun x => flushAdmin x.1 x.2.aWait.length
  let d ← look
  let idle (i : Nat) : Bool := coreIdle d (Fin.ofNat 800 i)
  onlyIf (d.pwr.gated.any fun i => !idle i) (updPwr fun x => { x with gated := x.gated.filter idle })

/-- One round of all of them. -/
def settleOnce : Act Unit := do
  fatalProgress
  settleCores
  settleMessages
  settleParts
  settleWindows
  settleModule

/-- Whether a partition has anything in hand: a step, tasks, items, an escapement between states, or re-runs to answer. -/
def partBusy (d : Dev) (p : PartId) : Bool :=
  (partOf d p).alive && ((partOf d p).step.isSome || !(tasksOf d p).isEmpty || !(runOf d p).items.isEmpty || (escOf d p).st != .idle ||
    !(barrelOf d p).reruns.isEmpty)

/-- Whether some core belongs to a partition whose mask no longer names it (R403, R406). -/
def hasStrays (d : Dev) : Bool :=
  d.regs.any fun r => r.1.name == .CORE_OWNER && allParts.any fun p => bitOf r.2.toNat p.val && !inMask d p (Fin.ofNat 800 r.1.unit)

/-- Whether the module has anything to go on with. -/
def goesOn (d : Dev) : Bool :=
  fatal d || !(busyCores d).isEmpty || d.slots.any (fun x => x.2.st == .ending) || d.xchs.any (fun x => !x.2.q.isEmpty || !x.2.rounds.isEmpty) ||
    d.chans.any (fun (x : ChanIdx × Chan) => !x.2.recvs.isEmpty) || allParts.any (partBusy d) || d.wins.any (·.release) || hasStrays d ||
    !d.fw.late.isEmpty || d.fns.any (fun x => !x.2.aWait.isEmpty) || d.pwr.gated.any fun i => !coreIdle d (Fin.ofNat 800 i)

/-- The module after its engines have gone on, twice round, so that what one engine frees another can take; without power, or with nothing in
hand, it stays as it is. -/
def settle (d : Dev) : Dev :=
  if awake d && goesOn d then runAct (do
    settleOnce
    settleOnce) d
  else d

/-- A command's outcome: its own effect, while the module has power, and then what the engines do. -/
def after (m : Act Unit) (s : State) : Host.Outcome State Fault Refusal := .next { s with dev := settle (runAct (guarded m) s.dev) }

/-- The outcome of an event at a contact or of the always-on domain, which acts without the module's power too (R477, R490, R556, R565). -/
def always (m : Act Unit) (s : State) : Host.Outcome State Fault Refusal := .next { s with dev := settle (runAct m s.dev) }

end Sys2Proof.Machine
end

