-- ==== Sys2Proof/Machine/CmdAdmin.lean ====
section
/-! DEFINITION. Admin commands and what completes them (file 15). -/

namespace Sys2Proof.Machine

/-- FEATURES (R467). -/
def execFeatures (f : FnId) (s : State) : Host.Outcome State Fault Refusal :=
  after (adminCmd f isFeatures [] doFeatures) s

/-- PARTITION_CREATE (R402). -/
def execPartitionCreate (f : FnId) (block : List Byte) (s : State) : Host.Outcome State Fault Refusal :=
  after (adminCmd f (isOp 0x02) block doPartCreate) s

/-- PARTITION_DESTROY (R578). -/
def execPartitionDestroy (f : FnId) (s : State) : Host.Outcome State Fault Refusal :=
  after (adminCmd f (isOp 0x03) [] doPartDestroy) s

/-- BIND (R435). -/
def execBind (f : FnId) (s : State) : Host.Outcome State Fault Refusal :=
  after (adminCmd f (fun e => isOp 0x04 e && fieldAt (cmdParams e) 1 1 != 1) [] doBind) s

/-- UNBIND (R435). -/
def execUnbind (f : FnId) (s : State) : Host.Outcome State Fault Refusal :=
  after (adminCmd f (fun e => isOp 0x04 e && fieldAt (cmdParams e) 1 1 == 1) [] doUnbind) s

/-- JOB_START (R435). -/
def execJobStart (f : FnId) (s : State) : Host.Outcome State Fault Refusal :=
  after (adminCmd f (isOp 0x05) [] doJobStart) s

/-- JOB_END (R435). -/
def execJobEnd (f : FnId) (s : State) : Host.Outcome State Fault Refusal :=
  after (adminCmd f (isOp 0x06) [] doJobEnd) s

/-- ALLOC (R311). -/
def execAlloc (f : FnId) (s : State) : Host.Outcome State Fault Refusal :=
  after (adminCmd f (isOp 0x07) [] doAlloc) s

/-- FREE (R435). -/
def execFree (f : FnId) (s : State) : Host.Outcome State Fault Refusal :=
  after (adminCmd f (isOp 0x08) [] doFree) s

/-- INVALIDATE (R284). -/
def execInvalidate (f : FnId) (s : State) : Host.Outcome State Fault Refusal :=
  after (adminCmd f (isOp 0x09) [] doInvalidate) s

/-- WINDOW_GRANT (R105). -/
def execWindowGrant (f : FnId) (s : State) : Host.Outcome State Fault Refusal :=
  after (adminCmd f (isOp 0x0A) [] doWindowGrant) s

/-- WINDOW_RELEASE (R105). -/
def execWindowRelease (f : FnId) (s : State) : Host.Outcome State Fault Refusal :=
  after (adminCmd f (isOp 0x0B) [] doWindowRelease) s

/-- EVICT (R108). -/
def execEvict (f : FnId) (s : State) : Host.Outcome State Fault Refusal :=
  after (adminCmd f (isOp 0x0C) [] doEvict) s

/-- EVICTION_COMPLETE (R108). -/
def execEvictionComplete (w : Word) (s : State) : Host.Outcome State Fault Refusal :=
  after (doEvictDone w.toNat) s

/-- RESTORE (R109). -/
def execRestore (f : FnId) (s : State) : Host.Outcome State Fault Refusal :=
  after (adminCmd f (isOp 0x0D) [] doRestore) s

/-- RESTORE_COMPLETE (R109). -/
def execRestoreComplete (w : Word) (s : State) : Host.Outcome State Fault Refusal :=
  after (doRestoreDone w.toNat) s

/-- SCRUB_COMPLETE (R111). -/
def execScrubComplete (c : CoreId) (first : Nat) (count : ScrubSpan) (s : State) : Host.Outcome State Fault Refusal :=
  after (doScrubDone c first count.slots count.waits) s

/-- CHANNEL_CREATE (R349). -/
def execChannelCreate (f : FnId) (s : State) : Host.Outcome State Fault Refusal :=
  after (adminCmd f (isOp 0x0E) [] doChanCreate) s

/-- CHANNEL_DESTROY (R351). -/
def execChannelDestroy (f : FnId) (s : State) : Host.Outcome State Fault Refusal :=
  after (adminCmd f (isOp 0x0F) [] doChanDestroy) s

/-- QUOTA (R405). -/
def execQuota (f : FnId) (block : List Byte) (s : State) : Host.Outcome State Fault Refusal :=
  after (adminCmd f (isOp 0x10) block doQuota) s

/-- SCHED_SET (R402). -/
def execSchedSet (f : FnId) (s : State) : Host.Outcome State Fault Refusal :=
  after (adminCmd f (isOp 0x11) [] doSchedSet) s

/-- SUSPEND (R399). -/
def execSuspend (f : FnId) (s : State) : Host.Outcome State Fault Refusal :=
  after (adminCmd f (isOp 0x12) [] doSuspend) s

/-- RESUME (R401). -/
def execResume (f : FnId) (s : State) : Host.Outcome State Fault Refusal :=
  after (adminCmd f (isOp 0x13) [] doResume) s

/-- GEN_ALIGN (R272). -/
def execGenAlign (f : FnId) (s : State) : Host.Outcome State Fault Refusal :=
  after (adminCmd f (isOp 0x14) [] doGenAlign) s

/-- ORPHAN_SET (R439). -/
def execOrphanSet (f : FnId) (s : State) : Host.Outcome State Fault Refusal :=
  after (adminCmd f (isOp 0x15) [] doOrphanSet) s

/-- REATTACH (R440). -/
def execReattach (f : FnId) (s : State) : Host.Outcome State Fault Refusal :=
  after (adminCmd f (isOp 0x16) [] doReattach) s

/-- FW_LOAD (R465). -/
def execFwLoad (f : FnId) (bundle : List Byte) (dmaError : Bool) (s : State) : Host.Outcome State Fault Refusal :=
  after (adminCmd f (isOp 0x17) [] (doFwLoad bundle dmaError)) s

/-- MODULE_RESET_FULL (R444). -/
def execModuleResetFull (f : FnId) (s : State) : Host.Outcome State Fault Refusal :=
  after (adminCmd f (fun e => isOp 0x18 e && fieldAt (cmdParams e) 0 1 != 1) [] doModuleReset) s

/-- MODULE_RESET_SET_HOT_FULL (R601). -/
def execModuleResetSetHotFull (f : FnId) (s : State) : Host.Outcome State Fault Refusal :=
  after (adminCmd f (fun e => isOp 0x18 e && fieldAt (cmdParams e) 0 1 == 1) [] doSetHotFull) s

end Sys2Proof.Machine
end

