-- ==== Sys2Proof/Machine/CmdCore.lean ====
section
/-! DEFINITION. The commands of a core: issue, array, vector engine, lathe, update and streams (files 03–06 and 09). -/

namespace Sys2Proof.Machine

/-- NOP (R86). -/
def execNop (c : CoreId) (k : SlotId) (s : State) : Host.Outcome State Fault Refusal :=
  after (doNop c k) s

/-- END (R88). -/
def execEndCmd (c : CoreId) (k : SlotId) (s : State) : Host.Outcome State Fault Refusal :=
  after (doEnd c k) s

/-- TASK_END_COMPLETE (R90). -/
def execTaskEndComplete (c : CoreId) (k : SlotId) (s : State) : Host.Outcome State Fault Refusal :=
  after (doTaskEnd c k) s

/-- WAIT (R88). -/
def execWait (c : CoreId) (k : SlotId) (s : State) : Host.Outcome State Fault Refusal :=
  after (doWait c k) s

/-- SIGNAL_ADD (R88). -/
def execSignalAdd (c : CoreId) (k : SlotId) (s : State) : Host.Outcome State Fault Refusal :=
  after (doSignal false c k) s

/-- SIGNAL_SET (R88). -/
def execSignalSet (c : CoreId) (k : SlotId) (s : State) : Host.Outcome State Fault Refusal :=
  after (doSignal true c k) s

/-- FENCE (R88). -/
def execFence (c : CoreId) (k : SlotId) (s : State) : Host.Outcome State Fault Refusal :=
  after (doFence c k) s

/-- COMMAND_BUFFER_REFILL (R86). -/
def execCommandBufferRefill (c : CoreId) (k : SlotId) (s : State) : Host.Outcome State Fault Refusal :=
  after (do doRefill (envOf (← look)) c k) s

/-- SLOAD (R66). -/
def execSload (c : CoreId) (k : SlotId) (env : IslandEnv) (s : State) : Host.Outcome State Fault Refusal :=
  after (arrIssue .sload env c k) s

/-- SHADOW_LOAD_COMPLETE (R65). -/
def execShadowLoadComplete (c : CoreId) (s : State) : Host.Outcome State Fault Refusal :=
  after (doShadowDone c) s

/-- PASS (R62). -/
def execPass (c : CoreId) (k : SlotId) (env : IslandEnv) (s : State) : Host.Outcome State Fault Refusal :=
  after (arrIssue .pass env c k) s

/-- PASS_COMPLETE (R62). -/
def execPassComplete (c : CoreId) (s : State) : Host.Outcome State Fault Refusal :=
  after (do doPassDone (envOf (← look)) c) s

/-- VOP (R125). -/
def execVop (c : CoreId) (k : SlotId) (env : IslandEnv) (s : State) : Host.Outcome State Fault Refusal :=
  after (vecIssue (fun op _ => op == .vop) env c k) s

/-- FUNC_FORWARD (R128). -/
def execFuncForward (c : CoreId) (k : SlotId) (env : IslandEnv) (s : State) : Host.Outcome State Fault Refusal :=
  after (vecIssue (fun op w => op == .func && (vopF w).fmode == 0) env c k) s

/-- FUNC_DERIVATIVE (R129). -/
def execFuncDerivative (c : CoreId) (k : SlotId) (env : IslandEnv) (s : State) : Host.Outcome State Fault Refusal :=
  after (vecIssue (fun op w => op == .func && (vopF w).fmode != 0) env c k) s

/-- VECTOR_COMMAND_COMPLETE (R126). -/
def execVectorCommandComplete (c : CoreId) (s : State) : Host.Outcome State Fault Refusal :=
  after (doVecDone c) s

/-- NORM_FWD (R134). -/
def execNormFwd (c : CoreId) (k : SlotId) (env : IslandEnv) (s : State) : Host.Outcome State Fault Refusal :=
  after (latheIssue [0] env c k) s

/-- RMS_FWD (R134). -/
def execRmsFwd (c : CoreId) (k : SlotId) (env : IslandEnv) (s : State) : Host.Outcome State Fault Refusal :=
  after (latheIssue [1] env c k) s

/-- NORM_BWD (R134). -/
def execNormBwd (c : CoreId) (k : SlotId) (env : IslandEnv) (s : State) : Host.Outcome State Fault Refusal :=
  after (latheIssue [2] env c k) s

/-- RMS_BWD (R134). -/
def execRmsBwd (c : CoreId) (k : SlotId) (env : IslandEnv) (s : State) : Host.Outcome State Fault Refusal :=
  after (latheIssue [3] env c k) s

/-- SMAX_FWD (R134). -/
def execSmaxFwd (c : CoreId) (k : SlotId) (env : IslandEnv) (s : State) : Host.Outcome State Fault Refusal :=
  after (latheIssue [4] env c k) s

/-- SMAX_RUN (R134). -/
def execSmaxRun (c : CoreId) (k : SlotId) (env : IslandEnv) (s : State) : Host.Outcome State Fault Refusal :=
  after (latheIssue [5] env c k) s

/-- SMAX_BWD (R134). -/
def execSmaxBwd (c : CoreId) (k : SlotId) (env : IslandEnv) (s : State) : Host.Outcome State Fault Refusal :=
  after (latheIssue [6] env c k) s

/-- CHUCK_LOAD (R134). -/
def execChuckLoad (c : CoreId) (k : SlotId) (env : IslandEnv) (s : State) : Host.Outcome State Fault Refusal :=
  after (latheIssue [7] env c k) s

/-- CHUCK_STORE (R134). -/
def execChuckStore (c : CoreId) (k : SlotId) (env : IslandEnv) (s : State) : Host.Outcome State Fault Refusal :=
  after (latheIssue [8, 9, 10, 11, 12, 13, 14, 15] env c k) s

/-- LATHE_COMMAND_COMPLETE (R138). -/
def execLatheCommandComplete (c : CoreId) (s : State) : Host.Outcome State Fault Refusal :=
  after (doLatheDone c) s

/-- UPDATE (R259). -/
def execUpdate (c : CoreId) (k : SlotId) (env : IslandEnv) (s : State) : Host.Outcome State Fault Refusal :=
  after (vecIssue (fun op _ => op == .update) env c k) s

/-- UPDATE_COMPLETE (R259). -/
def execUpdateComplete (c : CoreId) (s : State) : Host.Outcome State Fault Refusal :=
  after (doUpdDone c) s

/-- SARM (R156). -/
def execSarm (c : CoreId) (k : SlotId) (parity : List ParityHit) (s : State) : Host.Outcome State Fault Refusal :=
  after (doSarm c k parity) s

/-- SREARM (R169). -/
def execSrearm (c : CoreId) (k : SlotId) (s : State) : Host.Outcome State Fault Refusal :=
  after (doSrearm c k) s

/-- SDISARM_FINISH (R171). -/
def execSdisarmFinish (c : CoreId) (k : SlotId) (s : State) : Host.Outcome State Fault Refusal :=
  after (doSdisarm false c k) s

/-- SDISARM_CANCEL (R172). -/
def execSdisarmCancel (c : CoreId) (k : SlotId) (s : State) : Host.Outcome State Fault Refusal :=
  after (doSdisarm true c k) s

/-- STREAM_CHUNK_FETCH (R161). -/
def execStreamChunkFetch (c : CoreId) (st : StreamId) (s : State) : Host.Outcome State Fault Refusal :=
  after (doFetch c st) s

/-- STREAM_READ_LANDED (R160). -/
def execStreamReadLanded (c : CoreId) (st : StreamId) (chunk read : Nat) (ext : ExtData) (s : State) : Host.Outcome State Fault Refusal :=
  after (doLanded c st chunk read ext) s

/-- DRAIN_CHUNK_WRITE (R164). -/
def execDrainChunkWrite (c : CoreId) (st : StreamId) (parity : List ParityHit) (s : State) : Host.Outcome State Fault Refusal :=
  after (doDrain c st parity) s

/-- DRAIN_WRITE_ACCEPTED (R164). -/
def execDrainWriteAccepted (c : CoreId) (st : StreamId) (chunk write : Nat) (s : State) : Host.Outcome State Fault Refusal :=
  after (doAccepted c st chunk write) s

/-- SOURCE_TIMEOUT (R176). -/
def execSourceTimeout (c : CoreId) (st : StreamId) (chunk read : Nat) (s : State) : Host.Outcome State Fault Refusal :=
  after (doSourceTimeout c st chunk read) s

/-- PROGRESS_WATCHDOG_FIRE (R180). -/
def execProgressWatchdogFire (c : CoreId) (frozen : StallSeen) (s : State) : Host.Outcome State Fault Refusal :=
  after (doWatchdog c frozen.held frozen.still) s

/-- STATE_IMAGE_SAVED (R91). -/
def execStateImageSaved (c : CoreId) (k : SlotId) (cycles : Nat) (s : State) : Host.Outcome State Fault Refusal :=
  after (doSaved c k cycles) s

/-- FUNCTION_TABLE_LOAD_DONE (R131). -/
def execFunctionTableLoadDone (c : CoreId) (slot : Fin 16) (s : State) : Host.Outcome State Fault Refusal :=
  after (do doFtabDone (envOf (← look)) c slot.val) s

end Sys2Proof.Machine
end

