-- ==== Sys2Proof/Machine/CmdFabric.lean ====
section
/-! DEFINITION. The commands of channels' users, the exchange, the gradients, the escapement and the barrel (files 07, 09, 12 and 13). -/

namespace Sys2Proof.Machine

/-- SEND_BYTES (R355). -/
def execSendBytes (c : CoreId) (k : SlotId) (parity : List ParityHit) (s : State) : Host.Outcome State Fault Refusal :=
  after (doSend false c k parity) s

/-- SEND_CONTRIBUTION (R355). -/
def execSendContribution (c : CoreId) (k : SlotId) (parity : List ParityHit) (s : State) : Host.Outcome State Fault Refusal :=
  after (doSend true c k parity) s

/-- RECV (R356). -/
def execRecv (c : CoreId) (k : SlotId) (parity : List ParityHit) (s : State) : Host.Outcome State Fault Refusal :=
  after (doRecv c k parity) s

/-- XDISPATCH_DISPATCH (R372). -/
def execXdispatchDispatch (c : CoreId) (k : SlotId) (s : State) : Host.Outcome State Fault Refusal :=
  after (xchIssue false [0] c k) s

/-- XDISPATCH_POST_RECEIVE (R376). -/
def execXdispatchPostReceive (c : CoreId) (k : SlotId) (s : State) : Host.Outcome State Fault Refusal :=
  after (xchIssue false [1] c k) s

/-- XDISPATCH_RETURN (R381). -/
def execXdispatchReturn (c : CoreId) (k : SlotId) (s : State) : Host.Outcome State Fault Refusal :=
  after (xchIssue false [2] c k) s

/-- XDISPATCH_RESTORE (R380). -/
def execXdispatchRestore (c : CoreId) (k : SlotId) (s : State) : Host.Outcome State Fault Refusal :=
  after (xchIssue false [3] c k) s

/-- XCOMBINE_GATE (R383). -/
def execXcombineGate (c : CoreId) (k : SlotId) (s : State) : Host.Outcome State Fault Refusal :=
  after (xchIssue true [0] c k) s

/-- XCOMBINE_UNIT (R383). -/
def execXcombineUnit (c : CoreId) (k : SlotId) (s : State) : Host.Outcome State Fault Refusal :=
  after (xchIssue true [1, 2, 3] c k) s

/-- DISPATCH_MESSAGE_ARRIVAL (R377). -/
def execDispatchMessageArrival (p : PartId) (src : MsgSrc) (s : State) : Host.Outcome State Fault Refusal :=
  after (doDispatchMsg p src) s

/-- RETURN_MESSAGE_ARRIVAL (R382). -/
def execReturnMessageArrival (p : PartId) (src : MsgSrc) (s : State) : Host.Outcome State Fault Refusal :=
  after (doReturnMsg p src) s

/-- RERUN_REQ_ARRIVAL (R213). -/
def execRerunReqArrival (p : PartId) (src : MsgSrc) (s : State) : Host.Outcome State Fault Refusal :=
  after (doRerunReq p src) s

/-- CONTRIBUTION_MESSAGE (R248). -/
def execContributionMessage (p : PartId) (src : MsgSrc) (s : State) : Host.Outcome State Fault Refusal :=
  after (doContribution p src) s

/-- ACCUMULATOR_ZERO_DONE (R246). -/
def execAccumulatorZeroDone (p : PartId) (slice : Nat) (s : State) : Host.Outcome State Fault Refusal :=
  after (doZeroDone p slice) s

/-- UPDATE_TASK_PLACEMENT (R252). -/
def execUpdateTaskPlacement (p : PartId) (slice : Nat) (s : State) : Host.Outcome State Fault Refusal :=
  after (doUpdatePlacement p slice) s

/-- BARREL_APERTURE_WRITE (R199). -/
def execBarrelApertureWrite (p : PartId) (va : Nat) (bytes : List Byte) (close : Bool) (s : State) : Host.Outcome State Fault Refusal :=
  after (doApertureWrite p va bytes close) s

/-- BARREL_APERTURE_READ (R202). -/
def execBarrelApertureRead (p : PartId) (va len : Nat) (s : State) : Host.Outcome State Fault Refusal :=
  after (doApertureRead p va len) s

/-- SPILL_WRITE_TIMEOUT (R205). -/
def execSpillWriteTimeout (p : PartId) (s : State) : Host.Outcome State Fault Refusal :=
  after (doSpillTimeout p) s

/-- ESCAPEMENT_READY (R262). -/
def execEscapementReady (p : EngineAt PartId) (s : State) : Host.Outcome State Fault Refusal :=
  after (engineState p.bad p.place.val (doEscReady p.place)) s

/-- GATHER_RECEIVED (R263). -/
def execGatherReceived (p : PartId) (src : MsgSrc) (s : State) : Host.Outcome State Fault Refusal :=
  after (doGather p src) s

/-- RELEASE_RECEIVED (R263). -/
def execReleaseReceived (p : PartId) (src : MsgSrc) (s : State) : Host.Outcome State Fault Refusal :=
  after (doRelease p src) s

/-- ABANDON_RECEIVED (R265). -/
def execAbandonReceived (p : PartId) (src : MsgSrc) (s : State) : Host.Outcome State Fault Refusal :=
  after (doAbandon p src) s

/-- QUERY_RECEIVED (R267). -/
def execQueryReceived (p : PartId) (src : MsgSrc) (s : State) : Host.Outcome State Fault Refusal :=
  after (doQuery p src) s

/-- RESOLVE_RECEIVED (R267). -/
def execResolveReceived (p : PartId) (src : MsgSrc) (s : State) : Host.Outcome State Fault Refusal :=
  after (doResolve p src) s

/-- ANSWER_RECEIVED (R267). -/
def execAnswerReceived (p : PartId) (src : MsgSrc) (s : State) : Host.Outcome State Fault Refusal :=
  after (doAnswer p src) s

/-- STEP_TIMER_EXPIRY (R266). -/
def execStepTimerExpiry (p : PartId) (s : State) : Host.Outcome State Fault Refusal :=
  after (doStepTimer p) s

/-- DOUBT_TIMER_EXPIRY (R266). -/
def execDoubtTimerExpiry (p : PartId) (s : State) : Host.Outcome State Fault Refusal :=
  after (doDoubtTimer p) s

/-- QUERY_TIMEOUT (R267). -/
def execQueryTimeout (p : PartId) (s : State) : Host.Outcome State Fault Refusal :=
  after (doQueryTimeout p) s

/-- RESOLVE_TIMEOUT (R268). -/
def execResolveTimeout (p : PartId) (s : State) : Host.Outcome State Fault Refusal :=
  after (doResolveTimeout p) s

/-- HISTOGRAM_BANK_RELEASE (R50). -/
def execHistogramBankRelease (p : PartId) (bank : Fin 2) (revisions : List (Fin 1024 × Word)) (bases : List (Fin 1024 × Byte)) (s : State) : Host.Outcome State Fault Refusal :=
  after (doBankRelease p bank.val (revisions.map fun x => (x.1.val, x.2.toNat)) (bases.map fun x => (x.1.val, x.2.toNat))) s

end Sys2Proof.Machine
end

