-- ==== Sys2Proof/Machine/CmdFirm.lean ====
section
/-! DEFINITION. The sideband, firmware, security, strikes and perturbation (files 16, 19, 20 and 21). -/

namespace Sys2Proof.Machine

/-- PLDM_BUDGET_EFFECTER_SET (R569). -/
def execPldmBudgetEffecterSet (b : Binding) (watts : Nat) (s : State) : Host.Outcome State Fault Refusal :=
  always (doBudget b watts) s

/-- PLDM_SENSOR_READ (R568). -/
def execPldmSensorRead (b : Binding) (id : Nat) (s : State) : Host.Outcome State Fault Refusal :=
  always (doSensor b id) s

/-- MCTP_CONTROL_MESSAGE (R567). -/
def execMctpControlMessage (b : Binding) (msgType : BitVec 8) (msg : List Byte) (s : State) : Host.Outcome State Fault Refusal :=
  always (doMctpControl b msgType.toNat msg) s

/-- GET_VERSION (R525). -/
def execGetVersion (b : Binding) (s : State) : Host.Outcome State Fault Refusal :=
  always (doSpdm b .version) s

/-- GET_CAPABILITIES (R525). -/
def execGetCapabilities (b : Binding) (s : State) : Host.Outcome State Fault Refusal :=
  always (doSpdm b .capabilities) s

/-- NEGOTIATE_ALGORITHMS (R525). -/
def execNegotiateAlgorithms (b : Binding) (sm2 sm3 : Bool) (s : State) : Host.Outcome State Fault Refusal :=
  always (doSpdm b (.algorithms sm2 sm3)) s

/-- GET_DIGESTS (R525). -/
def execGetDigests (b : Binding) (s : State) : Host.Outcome State Fault Refusal :=
  always (doSpdm b .digests) s

/-- GET_CERTIFICATE (R523). -/
def execGetCertificate (b : Binding) (slot : Fin 8) (off len : Nat) (s : State) : Host.Outcome State Fault Refusal :=
  always (doSpdm b (.certificate slot.val off len)) s

/-- CHALLENGE (R525). -/
def execChallenge (b : Binding) (slot : Fin 8) (nonce : List Byte) (s : State) : Host.Outcome State Fault Refusal :=
  always (doSpdm b (.challenge slot.val nonce)) s

/-- GET_MEASUREMENTS (R526). -/
def execGetMeasurements (b : Binding) (index : Nat) (signed : Bool) (nonce : List Byte) (s : State) : Host.Outcome State Fault Refusal :=
  always (doSpdm b (.measurements index signed nonce)) s

/-- SPDM_UNSUPPORTED_REQUEST (R525). -/
def execSpdmUnsupportedRequest (b : Binding) (code : BitVec 8) (s : State) : Host.Outcome State Fault Refusal :=
  always (doSpdm b (.other code.toNat)) s

/-- FW_LOAD_GO (R456). -/
def execFwLoadGo (f : FnId) (value : Word) (s : State) : Host.Outcome State Fault Refusal :=
  after (onlyIf (bitOf value.toNat 31) (writeNamed f .FW_LOAD_CTRL 0 0 value.toNat)) s

/-- BUNDLE_DMA_COMPLETE (R456). -/
def execBundleDmaComplete (bundle : List Byte) (dmaError : Bool) (s : State) : Host.Outcome State Fault Refusal :=
  after (doBundleDma bundle dmaError) s

/-- BUNDLE_VERIFICATION_DONE (R455). -/
def execBundleVerificationDone (s : State) : Host.Outcome State Fault Refusal :=
  after (doBundleVerified) s

/-- PROCESSOR_READY (R456). -/
def execProcessorReady (i : ProcId) (s : State) : Host.Outcome State Fault Refusal :=
  after (doProcReady i) s

/-- MAILBOX_MESSAGE (R453). -/
def execMailboxMessage (src dst : ProcId) (msg : List Byte) (s : State) : Host.Outcome State Fault Refusal :=
  after (doMailbox src dst msg) s

/-- PROCESSOR_FAULT (R458). -/
def execProcessorFault (i : ProcId) (why : ProcFault) (s : State) : Host.Outcome State Fault Refusal :=
  after (doProcFault i why) s

/-- PROCESSOR_WATCHDOG_EXPIRY (R458). -/
def execProcessorWatchdogExpiry (i : ProcId) (s : State) : Host.Outcome State Fault Refusal :=
  after (doProcWatchdog i) s

/-- FW_PROC_RESTART (R458). -/
def execFwProcRestart (f : FnId) (value : Word) (s : State) : Host.Outcome State Fault Refusal :=
  after (writeNamed f .FW_PROC_CTRL 0 0 value.toNat) s

/-- PROCESSOR_RESTART_COMPLETE (R459). -/
def execProcessorRestartComplete (i : ProcId) (second : Nat) (s : State) : Host.Outcome State Fault Refusal :=
  after (doRestartDone i second) s

/-- BAL_ACTIVATION_DUE (R466). -/
def execBalActivationDue (s : State) : Host.Outcome State Fault Refusal :=
  after (doBalDue) s

/-- LOG_APPEND (R469). -/
def execLogAppend (entry : LogReq) (s : State) : Host.Outcome State Fault Refusal :=
  after (doLogAppend entry) s

/-- SEC_SVN_COMMIT (R522). -/
def execSecSvnCommit (f : FnId) (value : Word) (s : State) : Host.Outcome State Fault Refusal :=
  after (onlyIf (bitOf value.toNat 0) (writeNamed f .SEC_SVN_COMMIT 0 0 value.toNat)) s

/-- SEC_KEY_REVOKE (R522). -/
def execSecKeyRevoke (f : FnId) (value : Word) (s : State) : Host.Outcome State Fault Refusal :=
  after (writeNamed f .SEC_KEY_CTRL 0 0 value.toNat) s

/-- SEC_DEBUG_CHALLENGE (R531). -/
def execSecDebugChallenge (f : FnId) (value : Word) (s : State) : Host.Outcome State Fault Refusal :=
  after (onlyIf (bitOf value.toNat 0) (writeNamed f .SEC_DEBUG_CTRL 0 0 value.toNat)) s

/-- SEC_DEBUG_SUBMIT (R531). -/
def execSecDebugSubmit (f : FnId) (value : Word) (s : State) : Host.Outcome State Fault Refusal :=
  after (onlyIf (bitOf value.toNat 1) (writeNamed f .SEC_DEBUG_CTRL 0 0 value.toNat)) s

/-- SEC_DEBUG_LOCK (R532). -/
def execSecDebugLock (f : FnId) (value : Word) (s : State) : Host.Outcome State Fault Refusal :=
  after (onlyIf (bitOf value.toNat 2) (writeNamed f .SEC_DEBUG_CTRL 0 0 value.toNat)) s

/-- DEBUG_UNLOCK_EXPIRY (R532). -/
def execDebugUnlockExpiry (s : State) : Host.Outcome State Fault Refusal :=
  after (doUnlockExpiry) s

/-- STRIKE_FIRE (R537). -/
def execStrikeFire (f : FnId) (value : Word) (s : State) : Host.Outcome State Fault Refusal :=
  after (onlyIf (bitOf value.toNat 0) (writeNamed f .STRIKE_FIRE 0 0 value.toNat)) s

/-- STRIKE_INPUT_EDGE (R537). -/
def execStrikeInputEdge (s : State) : Host.Outcome State Fault Refusal :=
  after (doStrikeInput) s

/-- STRIKE_THRESHOLD_SAMPLE (R542). -/
def execStrikeThresholdSample (i : Fin 4) (s : State) : Host.Outcome State Fault Refusal :=
  after (doThreshold i) s

/-- STRIKE_ARM (R539). -/
def execStrikeArm (f : FnId) (value : Word) (s : State) : Host.Outcome State Fault Refusal :=
  after (writeNamed f .STRIKE_CTRL 0 0 value.toNat) s

/-- STRIKE_RELEASE (R539). -/
def execStrikeRelease (f : FnId) (value : Word) (s : State) : Host.Outcome State Fault Refusal :=
  after (onlyIf (bitOf value.toNat 8) (writeNamed f .STRIKE_CTRL 0 0 value.toNat)) s

/-- DBG_PAR_GO (R547). -/
def execDbgParGo (f : FnId) (value : Word) (s : State) : Host.Outcome State Fault Refusal :=
  after (onlyIf (bitOf value.toNat 31) (writeNamed f .DBG_PAR 0 0 value.toNat)) s

/-- CREDIT_DELAY_EXPIRY (R544). -/
def execCreditDelayExpiry (block : BitVec 12) (s : State) : Host.Outcome State Fault Refusal :=
  after (doCreditDelay block.toNat) s

/-- DYNAMIC_ADDRESS_ASSIGNMENT (R567). -/
def execDynamicAddressAssignment (addr : BitVec 7) (s : State) : Host.Outcome State Fault Refusal :=
  always (doDynamicAddress addr.toNat) s

end Sys2Proof.Machine
end

