-- ==== Sys2Proof/Machine/CmdHost.lean ====
section
/-! DEFINITION. Host accesses, functions, ports and resets (files 15, 18, 21 and 22). -/

namespace Sys2Proof.Machine

/-- DATA_WINDOW_READ (R433). -/
def execDataWindowRead (f : FnId) (off len : Nat) (s : State) : Host.Outcome State Fault Refusal :=
  after (doWindowRead f off len) s

/-- DATA_WINDOW_WRITE (R433). -/
def execDataWindowWrite (f : FnId) (off : Nat) (bytes : List Byte) (poisoned : Bool) (s : State) : Host.Outcome State Fault Refusal :=
  after (doWindowWrite f off bytes poisoned) s

/-- LIVENESS_SAMPLE (R438). -/
def execLivenessSample (f : FnId) (s : State) : Host.Outcome State Fault Refusal :=
  after (doLiveness f) s

/-- ORPHAN_HOLD_EXPIRY (R439). -/
def execOrphanHoldExpiry (p : PartId) (s : State) : Host.Outcome State Fault Refusal :=
  after (doHoldExpiry p) s

/-- FLR (R441). -/
def execFlr (f : FnId) (s : State) : Host.Outcome State Fault Refusal :=
  after (doFlr f) s

/-- FUNCTION_DISABLE (R441). -/
def execFunctionDisable (f : FnId) (s : State) : Host.Outcome State Fault Refusal :=
  after (doFnDisable f) s

/-- PCIE_HOT_RESET (R443). -/
def execPcieHotReset (port : HostPort) (s : State) : Host.Outcome State Fault Refusal :=
  after (doHotReset port) s

/-- PCIE_LINK_DOWN (R438). -/
def execPcieLinkDown (port : HostPort) (s : State) : Host.Outcome State Fault Refusal :=
  after (doLinkDown port) s

/-- PERST_ASSERT (R558). -/
def execPerstAssert (port : HostPort) (s : State) : Host.Outcome State Fault Refusal :=
  always (doPerst port) s

/-- PERST_RELEASE (R558). -/
def execPerstRelease (port : HostPort) (s : State) : Host.Outcome State Fault Refusal :=
  always (doPerstRelease port) s

/-- RESET_NOTICE_EXPIRY (R444). -/
def execResetNoticeExpiry (s : State) : Host.Outcome State Fault Refusal :=
  always (doNoticeExpiry) s

/-- FULL_RESET (R514). -/
def execFullReset (s : State) : Host.Outcome State Fault Refusal :=
  always (doFullReset) s

/-- RESET_INPUT (R565). -/
def execResetInput (lowTicks : Nat) (s : State) : Host.Outcome State Fault Refusal :=
  always (doResetInput lowTicks) s

/-- AUTO_RESET_TIMER (R513). -/
def execAutoResetTimer (s : State) : Host.Outcome State Fault Refusal :=
  after (doAutoReset) s

/-- TOP_AUDIT_SNAP (R509): every counter is read into its snapshot; `bad` are the classes whose counter storage fails its re-read (R11, R510). -/
def doAuditSnap (f : FnId) (bad : List Nat) : Act Unit := do
  let d ← look
  writeNamed f .TOP_AUDIT_CTRL 0 0 1
  onlyIf (reaches d f && isPf f) (each (bad.filter (· ≤ 10)) auditBad)

/-- TOP_AUDIT_SNAP (R509). -/
def execTopAuditSnap (f : SnapWrite) (s : State) : Host.Outcome State Fault Refusal :=
  after (doAuditSnap f.fn f.bad) s

/-- COUNTER_LOW_READ (R81). -/
def execCounterLowRead (f : FnId) (off : Nat) (s : State) : Host.Outcome State Fault Refusal :=
  after (doBarRead f off) s

/-- COUNTER_CLEAR (R118). -/
def execCounterClear (f : FnId) (off : Nat) (s : State) : Host.Outcome State Fault Refusal :=
  after (doCounterClear f off) s

/-- REGISTER_WRITE (R3). -/
def execRegisterWrite (f : FnId) (off width : Nat) (value : Word) (s : State) : Host.Outcome State Fault Refusal :=
  after (barWrite f off width value.toNat) s

/-- FUNCTION_TABLE_LOAD (R147). -/
def execFunctionTableLoad (f : FnId) (c : CoreId) (value : Word) (s : State) : Host.Outcome State Fault Refusal :=
  after (onlyIf (bitOf value.toNat 31) (writeNamed f .VEC_FTAB_LOAD c.val 0 value.toNat)) s

/-- CORE_RETIREMENT (R507). -/
def execCoreRetirement (c : CoreId) (s : State) : Host.Outcome State Fault Refusal :=
  after (doRetire c) s

/-- PCIE_LINK_L1 (R483). -/
def execPcieLinkL1 (port : HostPort) (enter : Bool) (s : State) : Host.Outcome State Fault Refusal :=
  after (doLinkL1 port enter) s

end Sys2Proof.Machine
end

