-- ==== Sys2Proof/Machine/CmdLinks.lean ====
section
/-! DEFINITION. The commands of links and channel ends (file 12). -/

namespace Sys2Proof.Machine

/-- LINK_TRAINING (R329). -/
def execLinkTraining (l : LinkId) (s : State) : Host.Outcome State Fault Refusal :=
  after (doTraining l false) s

/-- LINK_TRAINING_OVERRUN (R329). -/
def execLinkTrainingOverrun (l : LinkId) (s : State) : Host.Outcome State Fault Refusal :=
  after (trainingOverrun l) s

/-- LINK_TRAINING_DONE (R329). -/
def execLinkTrainingDone (l : LinkId) (result : TrainResult) (s : State) : Host.Outcome State Fault Refusal :=
  after (doTrainingDone l result) s

/-- LINK_TRAINING_RETRY (R329). -/
def execLinkTrainingRetry (l : LinkId) (s : State) : Host.Outcome State Fault Refusal :=
  after (doTraining l true) s

/-- DATA_FRAME_RECEIVED (R338). -/
def execDataFrameReceived (l : LinkId) (words : List DWord) (bad : List Nat) (s : State) : Host.Outcome State Fault Refusal :=
  after (do wakeFabric; doDataFrame l (words.map (·.toNat)) bad) s

/-- LINK_FRAME_RECEIVED (R335). -/
def execLinkFrameReceived (l : LinkId) (words : List DWord) (bad : List Nat) (s : State) : Host.Outcome State Fault Refusal :=
  after (do wakeFabric; doLinkFrame chanFail l (words.map (·.toNat)) bad) s

/-- LINK_FRAME_DUE (R336). -/
def execLinkFrameDue (l : LinkId) (s : State) : Host.Outcome State Fault Refusal :=
  after (doLinkFrameDue l) s

/-- REPLAY_TIMER (R337). -/
def execReplayTimer (l : LinkId) (s : State) : Host.Outcome State Fault Refusal :=
  after (doReplayTimer chanFail l) s

/-- LANE_ERROR_WINDOW (R340). -/
def execLaneErrorWindow (l : LinkId) (lane : LaneId) (s : State) : Host.Outcome State Fault Refusal :=
  after (laneDown chanFail l lane) s

/-- LANE_SIGNAL_LOSS (R340). -/
def execLaneSignalLoss (l : LinkId) (lane : LaneId) (s : State) : Host.Outcome State Fault Refusal :=
  after (laneDown chanFail l lane) s

/-- LANE_READMIT_TIMER (R342). -/
def execLaneReadmitTimer (l : LinkId) (lane : LaneId) (s : State) : Host.Outcome State Fault Refusal :=
  after (do laneReadmit l lane (procRuns (← look) procLNK)) s

/-- HELLO (R351). -/
def execHello (handle : Word) (msg : List Byte) (s : State) : Host.Outcome State Fault Refusal :=
  after (doHello handle.toNat msg) s

/-- HELLO_ACK (R351). -/
def execHelloAck (handle : Word) (msg : List Byte) (s : State) : Host.Outcome State Fault Refusal :=
  after (doHelloAck handle.toNat msg) s

/-- CHANNEL_STATUS (R352). -/
def execChannelStatus (handle : Word) (msg : List Byte) (s : State) : Host.Outcome State Fault Refusal :=
  after (doChanStatus handle.toNat msg) s

/-- BYE (R351). -/
def execBye (handle : Word) (msg : List Byte) (s : State) : Host.Outcome State Fault Refusal :=
  after (doBye handle.toNat msg) s

/-- BYE_ABORT (R351). -/
def execByeAbort (handle : Word) (msg : List Byte) (s : State) : Host.Outcome State Fault Refusal :=
  after (doByeAbort handle.toNat msg) s

/-- HELLO_REPEAT_TIMER (R351). -/
def execHelloRepeatTimer (i : ChanIdx) (s : State) : Host.Outcome State Fault Refusal :=
  after (doHelloRepeat i) s

/-- CHANNEL_TIMEOUT (R352). -/
def execChannelTimeout (i : ChanIdx) (s : State) : Host.Outcome State Fault Refusal :=
  after (doChanTimeout i) s

/-- CLOSING_TIMEOUT (R351). -/
def execClosingTimeout (i : ChanIdx) (s : State) : Host.Outcome State Fault Refusal :=
  after (doClosingTimeout i) s

/-- STATUS_SEND_TIMER (R352). -/
def execStatusSendTimer (i : ChanIdx) (s : State) : Host.Outcome State Fault Refusal :=
  after (doStatusTimer i) s

/-- CHANNEL_MESSAGE_ARRIVAL (R352). -/
def execChannelMessageArrival (handle : Word) (bytes : List Byte) (tail : Bool) (s : State) : Host.Outcome State Fault Refusal :=
  after (doArrival handle.toNat bytes tail) s

/-- RMA_READ_REQUEST (R318). -/
def execRmaReadRequest (handle : Word) (msg : List Byte) (s : State) : Host.Outcome State Fault Refusal :=
  after (doRmaRead handle.toNat msg) s

/-- RMA_READ_RESPONSE (R357). -/
def execRmaReadResponse (handle : Word) (msg : List Byte) (s : State) : Host.Outcome State Fault Refusal :=
  after (doRmaResponse handle.toNat msg) s

/-- RMA_WRITE (R357). -/
def execRmaWrite (handle : Word) (msg : List Byte) (s : State) : Host.Outcome State Fault Refusal :=
  after (doRmaWrite handle.toNat msg) s

/-- RMA_ERROR (R318). -/
def execRmaError (handle : Word) (msg : List Byte) (s : State) : Host.Outcome State Fault Refusal :=
  after (doRmaError handle.toNat msg) s

/-- NAK_REPEAT_TIMER (R338). -/
def execNakRepeatTimer (l : LinkId) (s : State) : Host.Outcome State Fault Refusal :=
  after (doNakRepeat l) s

end Sys2Proof.Machine
end

