-- ==== Sys2Proof/Machine/CmdPower.lean ====
section
/-! DEFINITION. Piles, power, heat and domains (files 10 and 17). -/

namespace Sys2Proof.Machine

/-- PILE_READ (R296). -/
def execPileRead (p : PartId) (va len : Nat) (errs : SegErrors) (s : State) : Host.Outcome State Fault Refusal :=
  after (doPileRead p va len errs) s

/-- PILE_WRITE (R289). -/
def execPileWrite (p : PartId) (va : Nat) (bytes : List Byte) (poisoned : WriteCheck) (s : State) : Host.Outcome State Fault Refusal :=
  after (doPileWrite p va bytes poisoned.poisoned poisoned.link) s

/-- PILE_ATOMIC (R295). -/
def execPileAtomic (p : PartId) (va : Nat) (op : AtomicOp) (operand : Word) (s : State) : Host.Outcome State Fault Refusal :=
  after (doPileAtomic p va op operand.toNat) s

/-- PILE_TRAINING_DONE (R299). -/
def execPileTrainingDone (pl : PileId) (ok : Bool) (s : State) : Host.Outcome State Fault Refusal :=
  after (doPileTraining pl ok) s

/-- PATROL_READ (R300). -/
def execPatrolRead (pl : PileId) (errs : SegErrors) (s : State) : Host.Outcome State Fault Refusal :=
  after (doPatrol pl errs) s

/-- FENCE_SCRUB_COMPLETE (R301). -/
def execFenceScrubComplete (pl : PileId) (s : State) : Host.Outcome State Fault Refusal :=
  after (doFenceScrub pl) s

/-- POWER_APPLIED (R492). -/
def execPowerApplied (straps : BitVec 4) (s : State) : Host.Outcome State Fault Refusal :=
  always (doPowerApplied straps.toNat) s

/-- INPUT_SAMPLE (R477). -/
def execInputSample (mv : Nat) (s : State) : Host.Outcome State Fault Refusal :=
  always (doInputSample mv) s

/-- INPUT_RECOVERY (R477). -/
def execInputRecovery (s : State) : Host.Outcome State Fault Refusal :=
  always (doInputRecovery) s

/-- VIN_EN_BREAK (R556). -/
def execVinEnBreak (s : State) : Host.Outcome State Fault Refusal :=
  always (doVinBreak) s

/-- GUARD_CHECK (R489). -/
def execGuardCheck (watts ca avgCa : Nat) (s : State) : Host.Outcome State Fault Refusal :=
  after (doGuardCheck watts ca avgCa) s

/-- THERMAL_SENSOR_SAMPLE (R490). -/
def execThermalSensorSample (dies piles : List Nat) (s : State) : Host.Outcome State Fault Refusal :=
  always (doThermalSample dies piles) s

/-- THERMAL_LOOP_ADJUST (R490). -/
def execThermalLoopAdjust (s : State) : Host.Outcome State Fault Refusal :=
  after (doThermalAdjust) s

/-- BAL_ESTIMATE_UPDATE (R487). -/
def execBalEstimateUpdate (p : PartId) (watts : BitVec 16) (s : State) : Host.Outcome State Fault Refusal :=
  after (doBalEstimate p watts.toNat) s

/-- BAL_BUDGET_ADJUST (R488). -/
def execBalBudgetAdjust (ratio : BitVec 8) (s : State) : Host.Outcome State Fault Refusal :=
  after (doBalBudget ratio.toNat) s

/-- CORE_DOMAIN_SLEEP_TIMER (R480). -/
def execCoreDomainSleepTimer (dom : Fin 32) (s : State) : Host.Outcome State Fault Refusal :=
  after (doCoreSleep dom.val) s

/-- DOMAIN_WAKE (R481). -/
def execDomainWake (dom : DomId) (s : State) : Host.Outcome State Fault Refusal :=
  after (doDomainWake dom.val) s

/-- DOMAIN_WAKE_COMPLETE (R479). -/
def execDomainWakeComplete (dom : DomId) (s : State) : Host.Outcome State Fault Refusal :=
  after (doDomainWoken dom.val) s

/-- PILE_SELF_REFRESH_TIMER (R482). -/
def execPileSelfRefreshTimer (pl : PileId) (s : State) : Host.Outcome State Fault Refusal :=
  after (doPileSleep pl) s

/-- CORE_CLOCK_GATE (R479). -/
def execCoreClockGate (c : CoreId) (s : State) : Host.Outcome State Fault Refusal :=
  after (doClockGate c) s

/-- FABRIC_SLEEP (R483). -/
def execFabricSleep (s : State) : Host.Outcome State Fault Refusal :=
  after (doFabricSleep) s

end Sys2Proof.Machine
end

