-- ==== Sys2Proof/Machine/CmdWork.lean ====
section
/-! DEFINITION. The commands of work rings and of scheduling (files 01, 14 and 15). -/

namespace Sys2Proof.Machine

/-- WORK_DOORBELL (R423). -/
def execWorkDoorbell (f : FnId) (r : RingId) (count : Word) (s : State) : Host.Outcome State Fault Refusal :=
  after (doWorkDoorbell f r count.toNat) s

/-- WORK_RING_ENABLE (R423). -/
def execWorkRingEnable (f : FnId) (r : RingId) (value : Word) (s : State) : Host.Outcome State Fault Refusal :=
  after (doRingEnable f r value.toNat) s

/-- WORK_NOP (R425). -/
def execWorkNop (f : FnId) (r : RingId) (desc : List Byte) (s : State) : Host.Outcome State Fault Refusal :=
  after (fetchDesc 0 f r desc) s

/-- STEP_BEGIN (R424). -/
def execStepBegin (f : FnId) (r : RingId) (desc : List Byte) (s : State) : Host.Outcome State Fault Refusal :=
  after (fetchDesc 1 f r desc) s

/-- TASK (R425). -/
def execTask (f : FnId) (r : RingId) (desc : List Byte) (s : State) : Host.Outcome State Fault Refusal :=
  after (fetchDesc 2 f r desc) s

/-- DEPS (R425). -/
def execDeps (f : FnId) (r : RingId) (desc : List Byte) (s : State) : Host.Outcome State Fault Refusal :=
  after (fetchDesc 5 f r desc) s

/-- STEP_END (R424). -/
def execStepEnd (f : FnId) (r : RingId) (desc : List Byte) (s : State) : Host.Outcome State Fault Refusal :=
  after (fetchDesc 3 f r desc) s

/-- ITEM (R409). -/
def execItem (f : FnId) (r : RingId) (desc : List Byte) (s : State) : Host.Outcome State Fault Refusal :=
  after (fetchDesc 4 f r desc) s

/-- STEP_OPEN (R15). -/
def execStepOpen (p : EngineAt PartId) (s : State) : Host.Outcome State Fault Refusal :=
  after (engineState p.bad p.place.val (doStepOpen p.place)) s

/-- TASK_PLACEMENT (R395). -/
def execTaskPlacement (d : EngineAt DieId) (s : State) : Host.Outcome State Fault Refusal :=
  after (engineState d.bad d.place.val (doPlacement d.place)) s

/-- BARREL_GROUP_PLACEMENT (R210). -/
def execBarrelGroupPlacement (p : PartId) (group : Word) (s : State) : Host.Outcome State Fault Refusal :=
  after (doGroupPlacement p group.toNat) s

/-- COMPLETION_DOORBELL (R430). -/
def execCompletionDoorbell (f : FnId) (r : RingId) (count : Word) (s : State) : Host.Outcome State Fault Refusal :=
  after (doCplDoorbell f r count.toNat) s

/-- MSIX_MODERATION_TIMER (R431). -/
def execMsixModerationTimer (f : FnId) (r : RingId) (s : State) : Host.Outcome State Fault Refusal :=
  after (doMsixTimer f r) s

end Sys2Proof.Machine
end

