-- ==== Sys2Proof/Machine/Dispatch.lean ====
section
/-! DEFINITION. What each command does: one call of its meaning. -/

namespace Sys2Proof.Machine

/-- A command carried out. -/
def exec (i : Instr) (s : State) : Host.Outcome State Fault Refusal :=
  match i with
  | .nop c k => Sys2Proof.Machine.execNop c k s
  | .endCmd c k => Sys2Proof.Machine.execEndCmd c k s
  | .taskEndComplete c k => Sys2Proof.Machine.execTaskEndComplete c k s
  | .wait c k => Sys2Proof.Machine.execWait c k s
  | .signalAdd c k => Sys2Proof.Machine.execSignalAdd c k s
  | .signalSet c k => Sys2Proof.Machine.execSignalSet c k s
  | .fence c k => Sys2Proof.Machine.execFence c k s
  | .commandBufferRefill c k => Sys2Proof.Machine.execCommandBufferRefill c k s
  | .sload c k env => Sys2Proof.Machine.execSload c k env s
  | .shadowLoadComplete c => Sys2Proof.Machine.execShadowLoadComplete c s
  | .pass c k env => Sys2Proof.Machine.execPass c k env s
  | .passComplete c => Sys2Proof.Machine.execPassComplete c s
  | .vop c k env => Sys2Proof.Machine.execVop c k env s
  | .funcForward c k env => Sys2Proof.Machine.execFuncForward c k env s
  | .funcDerivative c k env => Sys2Proof.Machine.execFuncDerivative c k env s
  | .vectorCommandComplete c => Sys2Proof.Machine.execVectorCommandComplete c s
  | .normFwd c k env => Sys2Proof.Machine.execNormFwd c k env s
  | .rmsFwd c k env => Sys2Proof.Machine.execRmsFwd c k env s
  | .normBwd c k env => Sys2Proof.Machine.execNormBwd c k env s
  | .rmsBwd c k env => Sys2Proof.Machine.execRmsBwd c k env s
  | .smaxFwd c k env => Sys2Proof.Machine.execSmaxFwd c k env s
  | .smaxRun c k env => Sys2Proof.Machine.execSmaxRun c k env s
  | .smaxBwd c k env => Sys2Proof.Machine.execSmaxBwd c k env s
  | .chuckLoad c k env => Sys2Proof.Machine.execChuckLoad c k env s
  | .chuckStore c k env => Sys2Proof.Machine.execChuckStore c k env s
  | .latheCommandComplete c => Sys2Proof.Machine.execLatheCommandComplete c s
  | .update c k env => Sys2Proof.Machine.execUpdate c k env s
  | .updateComplete c => Sys2Proof.Machine.execUpdateComplete c s
  | .sarm c k parity => Sys2Proof.Machine.execSarm c k parity s
  | .srearm c k => Sys2Proof.Machine.execSrearm c k s
  | .sdisarmFinish c k => Sys2Proof.Machine.execSdisarmFinish c k s
  | .sdisarmCancel c k => Sys2Proof.Machine.execSdisarmCancel c k s
  | .streamChunkFetch c st => Sys2Proof.Machine.execStreamChunkFetch c st s
  | .streamReadLanded c st chunk read ext => Sys2Proof.Machine.execStreamReadLanded c st chunk read ext s
  | .drainChunkWrite c st parity => Sys2Proof.Machine.execDrainChunkWrite c st parity s
  | .drainWriteAccepted c st chunk write => Sys2Proof.Machine.execDrainWriteAccepted c st chunk write s
  | .sourceTimeout c st chunk read => Sys2Proof.Machine.execSourceTimeout c st chunk read s
  | .progressWatchdogFire c frozen => Sys2Proof.Machine.execProgressWatchdogFire c frozen s
  | .stateImageSaved c k cycles => Sys2Proof.Machine.execStateImageSaved c k cycles s
  | .sendBytes c k parity => Sys2Proof.Machine.execSendBytes c k parity s
  | .sendContribution c k parity => Sys2Proof.Machine.execSendContribution c k parity s
  | .recv c k parity => Sys2Proof.Machine.execRecv c k parity s
  | .xdispatchDispatch c k => Sys2Proof.Machine.execXdispatchDispatch c k s
  | .xdispatchPostReceive c k => Sys2Proof.Machine.execXdispatchPostReceive c k s
  | .xdispatchReturn c k => Sys2Proof.Machine.execXdispatchReturn c k s
  | .xdispatchRestore c k => Sys2Proof.Machine.execXdispatchRestore c k s
  | .xcombineGate c k => Sys2Proof.Machine.execXcombineGate c k s
  | .xcombineUnit c k => Sys2Proof.Machine.execXcombineUnit c k s
  | .dispatchMessageArrival p src => Sys2Proof.Machine.execDispatchMessageArrival p src s
  | .returnMessageArrival p src => Sys2Proof.Machine.execReturnMessageArrival p src s
  | .rerunReqArrival p src => Sys2Proof.Machine.execRerunReqArrival p src s
  | .contributionMessage p src => Sys2Proof.Machine.execContributionMessage p src s
  | .accumulatorZeroDone p slice => Sys2Proof.Machine.execAccumulatorZeroDone p slice s
  | .updateTaskPlacement p slice => Sys2Proof.Machine.execUpdateTaskPlacement p slice s
  | .workDoorbell f r count => Sys2Proof.Machine.execWorkDoorbell f r count s
  | .workRingEnable f r value => Sys2Proof.Machine.execWorkRingEnable f r value s
  | .workNop f r desc => Sys2Proof.Machine.execWorkNop f r desc s
  | .stepBegin f r desc => Sys2Proof.Machine.execStepBegin f r desc s
  | .task f r desc => Sys2Proof.Machine.execTask f r desc s
  | .deps f r desc => Sys2Proof.Machine.execDeps f r desc s
  | .stepEnd f r desc => Sys2Proof.Machine.execStepEnd f r desc s
  | .item f r desc => Sys2Proof.Machine.execItem f r desc s
  | .stepOpen p => Sys2Proof.Machine.execStepOpen p s
  | .taskPlacement d => Sys2Proof.Machine.execTaskPlacement d s
  | .barrelGroupPlacement p group => Sys2Proof.Machine.execBarrelGroupPlacement p group s
  | .barrelApertureWrite p va bytes close => Sys2Proof.Machine.execBarrelApertureWrite p va bytes close s
  | .barrelApertureRead p va len => Sys2Proof.Machine.execBarrelApertureRead p va len s
  | .spillWriteTimeout p => Sys2Proof.Machine.execSpillWriteTimeout p s
  | .completionDoorbell f r count => Sys2Proof.Machine.execCompletionDoorbell f r count s
  | .msixModerationTimer f r => Sys2Proof.Machine.execMsixModerationTimer f r s
  | .features f => Sys2Proof.Machine.execFeatures f s
  | .partitionCreate f block => Sys2Proof.Machine.execPartitionCreate f block s
  | .partitionDestroy f => Sys2Proof.Machine.execPartitionDestroy f s
  | .bind f => Sys2Proof.Machine.execBind f s
  | .unbind f => Sys2Proof.Machine.execUnbind f s
  | .jobStart f => Sys2Proof.Machine.execJobStart f s
  | .jobEnd f => Sys2Proof.Machine.execJobEnd f s
  | .alloc f => Sys2Proof.Machine.execAlloc f s
  | .free f => Sys2Proof.Machine.execFree f s
  | .invalidate f => Sys2Proof.Machine.execInvalidate f s
  | .windowGrant f => Sys2Proof.Machine.execWindowGrant f s
  | .windowRelease f => Sys2Proof.Machine.execWindowRelease f s
  | .evict f => Sys2Proof.Machine.execEvict f s
  | .evictionComplete w => Sys2Proof.Machine.execEvictionComplete w s
  | .restore f => Sys2Proof.Machine.execRestore f s
  | .restoreComplete w => Sys2Proof.Machine.execRestoreComplete w s
  | .scrubComplete c first count => Sys2Proof.Machine.execScrubComplete c first count s
  | .channelCreate f => Sys2Proof.Machine.execChannelCreate f s
  | .channelDestroy f => Sys2Proof.Machine.execChannelDestroy f s
  | .quota f block => Sys2Proof.Machine.execQuota f block s
  | .schedSet f => Sys2Proof.Machine.execSchedSet f s
  | .suspend f => Sys2Proof.Machine.execSuspend f s
  | .resume f => Sys2Proof.Machine.execResume f s
  | .genAlign f => Sys2Proof.Machine.execGenAlign f s
  | .orphanSet f => Sys2Proof.Machine.execOrphanSet f s
  | .reattach f => Sys2Proof.Machine.execReattach f s
  | .fwLoad f bundle dmaError => Sys2Proof.Machine.execFwLoad f bundle dmaError s
  | .moduleResetFull f => Sys2Proof.Machine.execModuleResetFull f s
  | .moduleResetSetHotFull f => Sys2Proof.Machine.execModuleResetSetHotFull f s
  | .dataWindowRead f off len => Sys2Proof.Machine.execDataWindowRead f off len s
  | .dataWindowWrite f off bytes poisoned => Sys2Proof.Machine.execDataWindowWrite f off bytes poisoned s
  | .livenessSample f => Sys2Proof.Machine.execLivenessSample f s
  | .orphanHoldExpiry p => Sys2Proof.Machine.execOrphanHoldExpiry p s
  | .flr f => Sys2Proof.Machine.execFlr f s
  | .functionDisable f => Sys2Proof.Machine.execFunctionDisable f s
  | .pcieHotReset port => Sys2Proof.Machine.execPcieHotReset port s
  | .pcieLinkDown port => Sys2Proof.Machine.execPcieLinkDown port s
  | .perstAssert port => Sys2Proof.Machine.execPerstAssert port s
  | .perstRelease port => Sys2Proof.Machine.execPerstRelease port s
  | .resetNoticeExpiry => Sys2Proof.Machine.execResetNoticeExpiry s
  | .fullReset => Sys2Proof.Machine.execFullReset s
  | .resetInput lowTicks => Sys2Proof.Machine.execResetInput lowTicks s
  | .autoResetTimer => Sys2Proof.Machine.execAutoResetTimer s
  | .topAuditSnap f => Sys2Proof.Machine.execTopAuditSnap f s
  | .counterLowRead f off => Sys2Proof.Machine.execCounterLowRead f off s
  | .counterClear f off => Sys2Proof.Machine.execCounterClear f off s
  | .registerWrite f off width value => Sys2Proof.Machine.execRegisterWrite f off width value s
  | .functionTableLoad f c value => Sys2Proof.Machine.execFunctionTableLoad f c value s
  | .functionTableLoadDone c slot => Sys2Proof.Machine.execFunctionTableLoadDone c slot s
  | .escapementReady p => Sys2Proof.Machine.execEscapementReady p s
  | .gatherReceived p src => Sys2Proof.Machine.execGatherReceived p src s
  | .releaseReceived p src => Sys2Proof.Machine.execReleaseReceived p src s
  | .abandonReceived p src => Sys2Proof.Machine.execAbandonReceived p src s
  | .queryReceived p src => Sys2Proof.Machine.execQueryReceived p src s
  | .resolveReceived p src => Sys2Proof.Machine.execResolveReceived p src s
  | .answerReceived p src => Sys2Proof.Machine.execAnswerReceived p src s
  | .stepTimerExpiry p => Sys2Proof.Machine.execStepTimerExpiry p s
  | .doubtTimerExpiry p => Sys2Proof.Machine.execDoubtTimerExpiry p s
  | .queryTimeout p => Sys2Proof.Machine.execQueryTimeout p s
  | .resolveTimeout p => Sys2Proof.Machine.execResolveTimeout p s
  | .linkTraining l => Sys2Proof.Machine.execLinkTraining l s
  | .linkTrainingOverrun l => Sys2Proof.Machine.execLinkTrainingOverrun l s
  | .linkTrainingDone l result => Sys2Proof.Machine.execLinkTrainingDone l result s
  | .linkTrainingRetry l => Sys2Proof.Machine.execLinkTrainingRetry l s
  | .dataFrameReceived l words bad => Sys2Proof.Machine.execDataFrameReceived l words bad s
  | .linkFrameReceived l words bad => Sys2Proof.Machine.execLinkFrameReceived l words bad s
  | .linkFrameDue l => Sys2Proof.Machine.execLinkFrameDue l s
  | .replayTimer l => Sys2Proof.Machine.execReplayTimer l s
  | .laneErrorWindow l lane => Sys2Proof.Machine.execLaneErrorWindow l lane s
  | .laneSignalLoss l lane => Sys2Proof.Machine.execLaneSignalLoss l lane s
  | .laneReadmitTimer l lane => Sys2Proof.Machine.execLaneReadmitTimer l lane s
  | .hello handle msg => Sys2Proof.Machine.execHello handle msg s
  | .helloAck handle msg => Sys2Proof.Machine.execHelloAck handle msg s
  | .channelStatus handle msg => Sys2Proof.Machine.execChannelStatus handle msg s
  | .bye handle msg => Sys2Proof.Machine.execBye handle msg s
  | .byeAbort handle msg => Sys2Proof.Machine.execByeAbort handle msg s
  | .helloRepeatTimer ch => Sys2Proof.Machine.execHelloRepeatTimer ch s
  | .channelTimeout ch => Sys2Proof.Machine.execChannelTimeout ch s
  | .closingTimeout ch => Sys2Proof.Machine.execClosingTimeout ch s
  | .statusSendTimer ch => Sys2Proof.Machine.execStatusSendTimer ch s
  | .channelMessageArrival handle bytes tail => Sys2Proof.Machine.execChannelMessageArrival handle bytes tail s
  | .rmaReadRequest handle msg => Sys2Proof.Machine.execRmaReadRequest handle msg s
  | .rmaReadResponse handle msg => Sys2Proof.Machine.execRmaReadResponse handle msg s
  | .rmaWrite handle msg => Sys2Proof.Machine.execRmaWrite handle msg s
  | .rmaError handle msg => Sys2Proof.Machine.execRmaError handle msg s
  | .pileRead p va len errs => Sys2Proof.Machine.execPileRead p va len errs s
  | .pileWrite p va bytes poisoned => Sys2Proof.Machine.execPileWrite p va bytes poisoned s
  | .pileAtomic p va op operand => Sys2Proof.Machine.execPileAtomic p va op operand s
  | .pileTrainingDone pl ok => Sys2Proof.Machine.execPileTrainingDone pl ok s
  | .patrolRead pl errs => Sys2Proof.Machine.execPatrolRead pl errs s
  | .fenceScrubComplete pl => Sys2Proof.Machine.execFenceScrubComplete pl s
  | .powerApplied straps => Sys2Proof.Machine.execPowerApplied straps s
  | .inputSample mv => Sys2Proof.Machine.execInputSample mv s
  | .inputRecovery => Sys2Proof.Machine.execInputRecovery s
  | .vinEnBreak => Sys2Proof.Machine.execVinEnBreak s
  | .guardCheck watts ca avgCa => Sys2Proof.Machine.execGuardCheck watts ca avgCa s
  | .thermalSensorSample dies piles => Sys2Proof.Machine.execThermalSensorSample dies piles s
  | .thermalLoopAdjust => Sys2Proof.Machine.execThermalLoopAdjust s
  | .balEstimateUpdate p watts => Sys2Proof.Machine.execBalEstimateUpdate p watts s
  | .balBudgetAdjust ratio => Sys2Proof.Machine.execBalBudgetAdjust ratio s
  | .coreDomainSleepTimer dom => Sys2Proof.Machine.execCoreDomainSleepTimer dom s
  | .domainWake dom => Sys2Proof.Machine.execDomainWake dom s
  | .domainWakeComplete dom => Sys2Proof.Machine.execDomainWakeComplete dom s
  | .pileSelfRefreshTimer pl => Sys2Proof.Machine.execPileSelfRefreshTimer pl s
  | .coreClockGate c => Sys2Proof.Machine.execCoreClockGate c s
  | .fabricSleep => Sys2Proof.Machine.execFabricSleep s
  | .pldmBudgetEffecterSet b watts => Sys2Proof.Machine.execPldmBudgetEffecterSet b watts s
  | .pldmSensorRead b id => Sys2Proof.Machine.execPldmSensorRead b id s
  | .mctpControlMessage b msgType msg => Sys2Proof.Machine.execMctpControlMessage b msgType msg s
  | .getVersion b => Sys2Proof.Machine.execGetVersion b s
  | .getCapabilities b => Sys2Proof.Machine.execGetCapabilities b s
  | .negotiateAlgorithms b sm2 sm3 => Sys2Proof.Machine.execNegotiateAlgorithms b sm2 sm3 s
  | .getDigests b => Sys2Proof.Machine.execGetDigests b s
  | .getCertificate b slot off len => Sys2Proof.Machine.execGetCertificate b slot off len s
  | .challenge b slot nonce => Sys2Proof.Machine.execChallenge b slot nonce s
  | .getMeasurements b index signed nonce => Sys2Proof.Machine.execGetMeasurements b index signed nonce s
  | .spdmUnsupportedRequest b code => Sys2Proof.Machine.execSpdmUnsupportedRequest b code s
  | .fwLoadGo f value => Sys2Proof.Machine.execFwLoadGo f value s
  | .bundleDmaComplete bundle dmaError => Sys2Proof.Machine.execBundleDmaComplete bundle dmaError s
  | .bundleVerificationDone => Sys2Proof.Machine.execBundleVerificationDone s
  | .processorReady proc => Sys2Proof.Machine.execProcessorReady proc s
  | .mailboxMessage src dst msg => Sys2Proof.Machine.execMailboxMessage src dst msg s
  | .processorFault proc why => Sys2Proof.Machine.execProcessorFault proc why s
  | .processorWatchdogExpiry proc => Sys2Proof.Machine.execProcessorWatchdogExpiry proc s
  | .fwProcRestart f value => Sys2Proof.Machine.execFwProcRestart f value s
  | .processorRestartComplete proc second => Sys2Proof.Machine.execProcessorRestartComplete proc second s
  | .balActivationDue => Sys2Proof.Machine.execBalActivationDue s
  | .logAppend entry => Sys2Proof.Machine.execLogAppend entry s
  | .coreRetirement c => Sys2Proof.Machine.execCoreRetirement c s
  | .secSvnCommit f value => Sys2Proof.Machine.execSecSvnCommit f value s
  | .secKeyRevoke f value => Sys2Proof.Machine.execSecKeyRevoke f value s
  | .secDebugChallenge f value => Sys2Proof.Machine.execSecDebugChallenge f value s
  | .secDebugSubmit f value => Sys2Proof.Machine.execSecDebugSubmit f value s
  | .secDebugLock f value => Sys2Proof.Machine.execSecDebugLock f value s
  | .debugUnlockExpiry => Sys2Proof.Machine.execDebugUnlockExpiry s
  | .strikeFire f value => Sys2Proof.Machine.execStrikeFire f value s
  | .strikeInputEdge => Sys2Proof.Machine.execStrikeInputEdge s
  | .strikeThresholdSample src => Sys2Proof.Machine.execStrikeThresholdSample src s
  | .strikeArm f value => Sys2Proof.Machine.execStrikeArm f value s
  | .strikeRelease f value => Sys2Proof.Machine.execStrikeRelease f value s
  | .dbgParGo f value => Sys2Proof.Machine.execDbgParGo f value s
  | .creditDelayExpiry block => Sys2Proof.Machine.execCreditDelayExpiry block s
  | .nakRepeatTimer l => Sys2Proof.Machine.execNakRepeatTimer l s
  | .histogramBankRelease p bank revisions bases => Sys2Proof.Machine.execHistogramBankRelease p bank revisions bases s
  | .pcieLinkL1 port enter => Sys2Proof.Machine.execPcieLinkL1 port enter s
  | .dynamicAddressAssignment addr => Sys2Proof.Machine.execDynamicAddressAssignment addr s

end Sys2Proof.Machine
end

