-- ==== Sys2Proof/Safety.lean ====
section
/-! DEFINITION. What the claims call a sound state: the invariant that every step keeps, and what one step never undoes. -/

namespace Sys2Proof.Safety

open Sys2Proof.Machine

/-- Every byte memory of the module is in canonical form. -/
def MemsSound (d : Dev) : Prop := ∀ x ∈ d.mems, Memory.wf x.2 = true

/-- No audit class has returned more than it was granted (R8, R10, R508). -/
def AuditSound (d : Dev) : Prop := ∀ k, (tabGet d.returns k 0#64).toNat ≤ (tabGet d.grants k 0#64).toNat

/-- The fuses: the svn minimum fits its field, and at least one bundle key hash slot is not revoked (R522). -/
def FusesSound (d : Dev) : Prop := d.sec.svn ≤ 255 ∧ d.sec.revoked < 15

/-- The retirement map names cores of the module, each once (R13, R507). -/
def RetireSound (d : Dev) : Prop := d.retired.Pairwise (· < ·) ∧ ∀ c ∈ d.retired, c < 800

/-- The invariant of every step. -/
structure Inv (s : State) : Prop where
  mems   : MemsSound s.dev
  audit  : AuditSound s.dev
  fuses  : FusesSound s.dev
  retire : RetireSound s.dev

/-- What one-time-programmable memory never undoes (R13, R507, R522): the svn minimum does not fall, no revoke bit is cleared, no retired core
returns. -/
structure FusesKept (d d' : Dev) : Prop where
  svn     : d.sec.svn ≤ d'.sec.svn
  revoked : ∀ k, d.sec.revoked.testBit k = true → d'.sec.revoked.testBit k = true
  retired : ∀ c ∈ d.retired, c ∈ d'.retired

/-- From module `d` the action answers `a` and leaves module `d'`, whatever comes after it. -/
def Runs {α : Type} (m : Act α) (d : Dev) (a : α) (d' : Dev) : Prop := ∀ k, Prog.run (m k) d = Prog.run (k a) d'

/-- Command `i` completes from `s`: the next state has the same waiting commands and module `d`, once the module's own engines have gone on from
there (`settle`, log entry 8: the identity on a module with nothing in hand). -/
def Answers (i : Instr) (s : State) (d : Dev) : Prop := exec i s = .next { s with dev := settle d }

/-- The module after a counter has counted `n`: nothing while it does not count, else the sum, saturating (R81). -/
def counted (d : Dev) (c : CtrName) (u n : Nat) (i : Nat := 0) : Dev :=
  if counting d c u && n != 0 then { d with ctrs := tabPut d.ctrs ⟨c, u, i⟩ (satAdd64 (tabGet d.ctrs ⟨c, u, i⟩ 0#64) n) } else d

/-- The issue stage of core `c` takes slot `k`, and the command at its position is `op` with bits `w` and length `len`, from the withdrawn
commands when `again` (R86–R91). -/
def Takes (d : Dev) (c : CoreId) (k : SlotId) (op : Op) (len w : Nat) (again : Bool) : Prop :=
  issuer d c = some k ∧ nextCmd (slotOf d c k) = .cmd op len w again

/-- The module once slot `k` has issued a command (R86–R90): the slot stands behind it and the command has its number, CORE_ISSUE_COUNT counts,
and the task has begun. -/
def issued (d : Dev) (c : CoreId) (k : SlotId) (len : Nat) (again busy : Bool) : Dev :=
  let x := slotOf d c k
  runAct (do
    emit (.slot c k { advance x len again with
      seq := x.seq + 1
      busy := if busy then x.busy ++ [x.seq] else x.busy })
    count .CORE_ISSUE_COUNT c.val 1
    taskIssued x.part x.tid) d

/-- The command with bits `w` that slot `k` issues to the stream engine, as it stands in the engine's queue (R89). -/
def strmCmd (d : Dev) (c : CoreId) (k : SlotId) (w : Nat) (parity : List ParityHit) : Queued := ⟨k, (slotOf d c k).seq, w, ⟨0, 0, [], parity⟩, 0, []⟩

/-- The module whose stream engine had nothing in its queue, got command `q`, and has taken it (R89). -/
def tookStrm (d : Dev) (c : CoreId) (q : Queued) : Dev :=
  runAct (do
    emit (.strmq c [q])
    emit (.strmq c [])) d

/-- A slot of a module replaced. -/
def withSlot (d : Dev) (c : CoreId) (k : SlotId) (x : Slot) : Dev := { d with slots := tabPut d.slots (c, k) x }

/-- Function `f`'s admin ring has command `e` at its head, ready and not refused, with input block `b` (R432–R434); `d` is the module once the fabric is
awake and a block in the function's memory has been read. -/
structure AdminTurn (s : Dev) (f : FnId) (host e b : List Byte) (d : Dev) : Prop where
  power : awake s = true
  turn : ∃ w, Runs wakeFabric s () w ∧ adminReady w f = true ∧ adminHead w f = e ∧ adminRefused w f e = none ∧ blockOf e host = some b ∧
    d = if inHost e then { w with out := w.out ++ [.hostRead f (fieldAt e 8 8) (fieldAt e 0x10 4)] } else w

/-- The completion of function `f`'s admin command `e` (R432): the command is taken and its entry posted. -/
def adminAnswer (f : FnId) (e : List Byte) (status result : Nat) : Act Unit := do
  adminTaken f
  adminPost f (adminBytes (cmdTag e) status 0 0 result)

/-- The commands of contacts, the sideband and the always-on domain, which act without the module's power too (R477, R490, R556, R565). -/
def unpowered : Instr → Bool
  | .perstAssert _ | .perstRelease _ | .resetNoticeExpiry | .fullReset | .resetInput _ | .powerApplied _ | .inputSample _ | .inputRecovery
  | .vinEnBreak | .thermalSensorSample _ _ | .pldmBudgetEffecterSet _ _ | .pldmSensorRead _ _ | .mctpControlMessage _ _ _ | .getVersion _
  | .getCapabilities _ | .negotiateAlgorithms _ _ _ | .getDigests _ | .getCertificate _ _ _ _ | .challenge _ _ _ | .getMeasurements _ _ _ _
  | .spdmUnsupportedRequest _ _ | .dynamicAddressAssignment _ => true
  | _ => false

/-- The magnitude of `q` rounded to a float format's precision with an unbounded exponent (R33, R36). -/
def rounded (f : Fmt) (mode r : Nat) (q : Rat) : Rat :=
  let u := pow2 (floorLog2 (ratAbs q) - (f.row.mbits : Int))
  (roundMag mode r (ratAbs q / u) : Rat) * u

/-- What has left the module stays sent: the record of it only grows. -/
def OutKept (d d' : Dev) : Prop := d.out <+: d'.out

end Sys2Proof.Safety
end

