-- ==== Sys2Proof/Certificates/Slice0/Obligations.lean ====
section
/-! DEFINITION. What is to be proved of the model. A command's effect is stated as the module after it (`Answers`), up to what the module's own engines do from there (`settle`, log
entry 8); `Runs` names the module after a step of a longer action. -/

open Sys2Proof Sys2Proof.Machine Sys2Proof.Safety

/-- A step carries out the command at the front of the queue. A step carries out the command at the front of the queue with the rest of the queue
waiting; on an empty queue the block idles. Both are the model's choice (the block form and log entry 9): the table has no command for a tick. -/
def Obligations.StepTakesTheFront : Prop :=
  (∀ (s : State) (c : Instr) (cs : List Instr), s.pending = c :: cs → step s = exec c { s with pending := cs }) ∧
  (∀ s : State, s.pending = [] → step s = .next s)

/-- The state after reset is sound and idle (R8, R10, R507, R522). The state after reset meets the invariant, has no command waiting and has nothing
in hand. -/
def Obligations.ResetIsSound : Prop :=
  Inv State.reset ∧ State.reset.pending = [] ∧ goesOn State.reset.dev = false

/-- Every step keeps the invariant (R8, R10, R13, R507, R508, R522). From every state that meets it, every step leads to a state that meets the
invariant: each byte memory is in canonical form, no audit class has returned more than it was granted, the fuses keep within their fields with a
bundle key left, and the retirement map names cores of the module, each once. -/
def Obligations.StepKeepsInvariant : Prop :=
  ∀ s t : State, Inv s → step s = .next t → Inv t

/-- No step undoes a fuse or a retirement (R13, R507, R522). From every state, through every step: the svn minimum and the revoke bits only rise,
and a core that is retired stays retired, across every reset and loss of power. -/
def Obligations.StepKeepsFuses : Prop :=
  ∀ s t : State, step s = .next t → FusesKept s.dev t.dev

/-- A step only adds to what has left the module. What has left the module stays sent: a step only adds to the record of what went out, at its end. -/
def Obligations.StepKeepsSent : Prop :=
  ∀ s t : State, step s = .next t → OutKept s.dev t.dev

/-- No command is refused and none faults. Every command from every state answers a next state, and leaves the commands that wait as they are. -/
def Obligations.EveryCommandAnswers : Prop :=
  ∀ (i : Instr) (s : State), ∃ d : Dev, exec i s = .next { s with dev := d }

/-- A module without power does nothing (R477, R491, R556). While the module is shut down or tripped, every command but those of the contacts, the
sideband and the always-on domain leaves the state as it is. -/
def Obligations.WithoutPowerNothingHappens : Prop :=
  ∀ (i : Instr) (s : State), awake s.dev = false → unpowered i = false → exec i s = .next s

/-- What the shared operations change, and nothing else (R81, R86, R90, R432, R434). `settle` changes nothing on a module without power or with
nothing in hand (log entry 8); a count changes its counter only; the issue of a command changes its slot, the counters, the task and its step's
state, and gives the slot the next number; an answer on an active function's admin ring that is not full changes the function's counts, stores its
completion entry and raises vector 0. -/
def Obligations.SharedOperationsFrame : Prop :=
  ∀ d : Dev,
    (awake d = false ∨ goesOn d = false → settle d = d) ∧
    (∀ c u n i, let e := counted d c u n i
      e = { d with ctrs := e.ctrs } ∧ ∀ c' u' i', (⟨c', u', i'⟩ : CtrKey) ≠ ⟨c, u, i⟩ → ctrOf e c' u' i' = ctrOf d c' u' i') ∧
    (∀ c k len again busy, let e := issued d c k len again busy
      e = { d with slots := e.slots, ctrs := e.ctrs, tasks := e.tasks, parts := e.parts } ∧
        (∀ c' k', (c', k') ≠ (c, k) → slotOf e c' k' = slotOf d c' k') ∧ (slotOf e c k).seq = (slotOf d c k).seq + 1) ∧
    (∀ (f : FnId) (entry : List Byte) (st r : Nat), (fnOf d f).st = .active → adminFull d f = false →
      (let x := fnOf d f
       let i := x.aWritten % 256
       let y : Fn := { x with aDone := (x.aDone + 1) % 2 ^ 32, aWritten := (x.aWritten + 1) % 2 ^ 32 }
       let e := runAct (adminAnswer f entry st r) d
       fnOf e f = y ∧ (∀ g, g ≠ f → fnOf e g = fnOf d g) ∧ e = { d with
         fns := e.fns
         mems := tabPut d.mems (.admin f) (memPutN (memOf d (.admin f)) (0x4000 + 16 * i)
           (withPhase (adminBytes (cmdTag entry) st 0 0 r) (x.aWritten / 256 % 2 == 0)))
         out := d.out ++ [.msix f 0] }))

/-- The frames of commands that reach one part of the module (R336, R342, R479, R487, R525, R567). Up to `settle`, the commands of the sideband and
of SPDM leave all but registers, counters, pins, power, firmware and security records and what is sent as it was; those of the power loops all but
registers, power and pins; training, due link frames, repeated NAKs and lane readmission all but the links, the module ID as a training takes it,
registers, counters and what is sent. No memory, slot, task, stream, partition or ring changes by them. -/
def Obligations.SystemFrames : Prop :=
  ∀ s : State,
    (∀ i : Instr, (match i with
        | .pldmBudgetEffecterSet _ _ | .pldmSensorRead _ _ | .mctpControlMessage _ _ _ | .getVersion _ | .getCapabilities _ | .negotiateAlgorithms _ _ _
        | .getDigests _ | .getCertificate _ _ _ _ | .challenge _ _ _ | .getMeasurements _ _ _ _ | .spdmUnsupportedRequest _ _
        | .dynamicAddressAssignment _ => true
        | _ => false) = true →
      ∃ d, Answers i s d ∧ d = { s.dev with
        regs := d.regs
        ctrs := d.ctrs
        pins := d.pins
        pwr := d.pwr
        fw := d.fw
        sec := d.sec
        out := d.out }) ∧
    (∀ i : Instr, (match i with
        | .thermalLoopAdjust | .balEstimateUpdate _ _ | .balBudgetAdjust _ | .coreClockGate _ | .pileSelfRefreshTimer _ | .fabricSleep | .domainWake _
        | .pcieLinkL1 _ _ => true
        | _ => false) = true →
      ∃ d, Answers i s d ∧ d = { s.dev with
        regs := d.regs
        pwr := d.pwr
        pins := d.pins }) ∧
    (∀ i : Instr, (match i with
        | .linkTraining _ | .linkTrainingOverrun _ | .linkTrainingDone _ _ | .linkTrainingRetry _ | .linkFrameDue _ | .nakRepeatTimer _
        | .laneReadmitTimer _ _ => true
        | _ => false) = true →
      ∃ d, Answers i s d ∧ d = { s.dev with
        regs := d.regs
        ctrs := d.ctrs
        links := d.links
        fw := d.fw
        out := d.out })

/-- A write leaves its bytes and changes no other (R95, R280). In a module with sound memories, a write keeps them sound, each byte written reads
back, and every other byte of every memory reads as before. -/
def Obligations.MemoryReadsBack : Prop :=
  ∀ (d : Dev) (r : Region) (a : Nat) (bs : List Byte), MemsSound d →
    let e := runAct (emit (.write r a bs)) d
    MemsSound e ∧ (∀ i (h : i < bs.length), memGet (memOf e r) (a + i) = bs[i]) ∧
      ∀ (r' : Region) (x : Nat), r' ≠ r ∨ x < a ∨ a + bs.length ≤ x → memGet (memOf e r') x = memGet (memOf d r') x

/-- The control registers of the array's and the exchange's counters (R78, R387). ARR_CTRL and XCH_CTRL: reset is 1; a write makes cnt_enable what
is written and leaves the reserved bits, so that they stay 0; the register reads as it stands; cnt_clear written 1 zeroes the block's counters
(R577: those of a core in SLEEP or OFF once its domain is ON), written 0 leaves them; and the counters count when cnt_enable is 1 and not when it is
0. -/
def Obligations.CounterControls : Prop :=
  ∀ (ctl : RegName) (names : List CtrName),
    (ctl, names) ∈ [(RegName.ARR_CTRL, [CtrName.ARR_PASS_COUNT, .ARR_BUSY_CYCLES, .ARR_HOLD_CYCLES, .ARR_RELOAD_COUNT]),
      (.XCH_CTRL, [.XCH_TX_ROWS, .XCH_RX_ROWS, .XCH_OVF_CHOICES, .XCH_RX_EXCESS, .XCH_RX_DROP, .XCH_RESTARTS, .XCH_RERUN_ROWS, .XCH_BUSY_CYCLES])] →
    ∀ u : Nat, regOf State.reset.dev ctl u = 1 ∧
      ∀ (row : RegRow) (d : Dev) (f : FnId) (v : Nat), ctl.row = some row →
        let e := runAct (regWrite f row u 0 v) d
        (∀ i, bitOf (regOf e ctl u) i = if i = 0 then bitOf v 0 else bitOf (regOf d ctl u) i) ∧
        (regOf d ctl u < 2 → regOf e ctl u = v % 2) ∧ regValue e row u 0 = regOf e ctl u ∧
        ∀ n ∈ names, (bitOf v 1 = true → (ctl = .ARR_CTRL → domOf d (u / 25) = .on) → ctrOf e n u = 0) ∧ (bitOf v 1 = false → ctrOf e n u = ctrOf d n u) ∧
          ∀ k, (bitOf v 0 = false → counted e n u k = e) ∧ (bitOf v 0 = true → ctrOf (counted e n u k) n u = min (ctrOf e n u + k) (2 ^ 64 - 1))

/-- Reads of 64-bit counters (R81). For every counter a function can read: the low word answers and latches the high word for that function; the
high word answers the latched value when the latch holds that counter, else the live high word. The array counters are 64 bits wide, 0 after reset,
and saturate. -/
def Obligations.CounterReads : Prop :=
  (∀ (s : State) (f : FnId) (d : Dev) (off v : Nat), reaches s.dev f = true → Runs wakeFabric s.dev () d → off % 4 = 0 → barDecodes d f off = true →
    (counterAt d f off = some (v, false) →
      Answers (.counterLowRead f off) s { d with latches := tabPut d.latches f (off, toWord (v / 2 ^ 32)), out := d.out ++ [.regRead f off (v % 2 ^ 32)] }) ∧
    (counterAt d f off = some (v, true) →
      (∀ w, tabFind d.latches f = some (off - 4, w) → 4 ≤ off → Answers (.counterLowRead f off) s { d with out := d.out ++ [.regRead f off w.toNat] }) ∧
      ((∀ low w, tabFind d.latches f = some (low, w) → low + 4 ≠ off) →
        Answers (.counterLowRead f off) s { d with out := d.out ++ [.regRead f off (v / 2 ^ 32)] }))) ∧
  ∀ n ∈ [CtrName.ARR_PASS_COUNT, .ARR_BUSY_CYCLES, .ARR_HOLD_CYCLES, .ARR_RELOAD_COUNT], ∀ c : CoreId, ctrOf State.reset.dev n c.val = 0 ∧
    ∀ d : Dev, ctrOf d n c.val < 2 ^ 64 ∧
      ∀ k, counting d n c.val = true → ctrOf (counted d n c.val k) n c.val = min (ctrOf d n c.val + k) 0xFFFFFFFFFFFFFFFF

/-- The 4-bit format codes (R56). The format that each of the 16 codes of a command or descriptor names; the codes 0xB to 0xF are reserved. -/
def Obligations.FormatCodes : Prop :=
  (List.range 16).map fmtOf = [some .f32, some .f16, some .f16w, some .f8a, some .f8b, some .f6, some .f4, some .i32, some .i8, some .i4, some .x8, none, none, none, none, none]

/-- Subnormals, overflow, infinities and negative zero (R35, R37, R40). A wide subnormal reads as zero of its sign, with flush set when it is not
zero; a rounded result beyond the largest finite magnitude, and an infinite operand, become what the table of R37 gives, with its flag; a negative
zero written to F4, F6 or F8a is code 0, and a narrow zero widens to +0. -/
def Obligations.NumberEdges : Prop :=
  (∀ f ∈ [Fmt.f8b, .f16w, .f16, .f32], ∀ code : Nat, (code >>> f.row.mbits) % 2 ^ f.row.ebits = 0 →
    decodeElem f code = (.zero (bitOf code (f.width - 1)), { flush := code % 2 ^ f.row.mbits != 0 })) ∧
  (∀ (mode r : Nat) (sw : Bool),
    (∀ f ∈ [Fmt.f4, .f6, .f8a],
      (∀ q, f.maxFinite < rounded f mode r q → encodeElem f mode sw r (.num q) = (f.signOf (decide (q < 0)) + f.maxCode, { overflow := true })) ∧
      (∀ neg, encodeElem f mode sw r (.inf neg) = (f.signOf neg + f.maxCode, { overflow := true })) ∧
      encodeElem f mode sw r (.zero true) = (0, {}) ∧ decodeElem f 0 = (.zero false, {})) ∧
    (∀ f ∈ [Fmt.f8b, .f16w, .f16, .f32],
      (∀ q, f.maxFinite < rounded f mode r q → encodeElem f mode sw r (.num q) =
        (f.signOf (decide (q < 0)) + (if sw = false ∧ mode ≠ 1 then f.infCode else f.maxCode), { overflow := true })) ∧
      (∀ neg, encodeElem f mode sw r (.inf neg) = (f.signOf neg + f.infCode, {})) ∧ encodeElem f mode sw r (.zero false) = (0, {})) ∧
    (∀ f ∈ [Fmt.i4, .i8, .i32],
      let limit (neg : Bool) : Nat := if neg then 2 ^ (f.width - 1) else 2 ^ (f.width - 1) - 1
      (∀ q, limit (decide (q < 0)) < roundMag mode r (ratAbs q) →
        (encodeElem f mode sw r (.num q)).1 = limit (decide (q < 0)) ∧ (encodeElem f mode sw r (.num q)).2.overflow = true) ∧
      (∀ neg, encodeElem f mode sw r (.inf neg) = (limit neg, { invalid := true }))))

/-- The scratchpad banks an access touches (R95). The banks of an access are those of its bytes, bits 10 to 6 of their offsets, and consecutive
64-byte words rotate through all 32 banks. -/
def Obligations.BanksTouched : Prop :=
  (∀ a n b : Nat, b ∈ banksOf a n ↔ ∃ i, i < n ∧ bitsOf (a + i) 10 6 = b) ∧ ∀ a : Nat, bitsOf (a + 64) 10 6 = (bitsOf a 10 6 + 1) % 32

/-- NOP, END, WAIT, FENCE and SIGNAL at the issue stage (R86, R88, R90). A NOP only issues; END sends the slot to ENDING; WAIT stops the slot until
its counter reaches the threshold, and only issues when it is there; FENCE stops it while an earlier command is in flight, and else only issues.
SIGNAL is noted in the slot, to add or to set, and takes effect when the slot has gone that far (`slotProgress`). -/
def Obligations.IssueStageCommands : Prop :=
  (∀ (s : State) (c : CoreId) (k : SlotId) (len w : Nat) (again : Bool), awake s.dev = true →
     let d := issued s.dev c k len again false
     let x := slotOf d c k
     (Takes s.dev c k .nop len w again → Answers (.nop c k) s d) ∧
     (Takes s.dev c k .end_ len w again → Answers (.endCmd c k) s (withSlot d c k { x with st := .ending, wait := none })) ∧
     (Takes s.dev c k .wait len w again → evOf d c (slotOf s.dev c k).part (bitsOf w 44 40) < bitsOf w 63 48 →
       Answers (.wait c k) s (withSlot d c k { x with st := .waiting, wait := some (.counter (bitsOf w 44 40) (bitsOf w 63 48)) })) ∧
     (Takes s.dev c k .wait len w again → bitsOf w 63 48 ≤ evOf d c (slotOf s.dev c k).part (bitsOf w 44 40) → Answers (.wait c k) s d) ∧
     (Takes s.dev c k .fence len w again → x.idle = false →
       Answers (.fence c k) s (withSlot d c k { x with st := .waiting, wait := some .fence })) ∧
     (Takes s.dev c k .fence len w again → x.idle = true → Answers (.fence c k) s d)) ∧
  (∀ (s : State) (c : CoreId) (k : SlotId) (len w : Nat) (again : Bool), awake s.dev = true → Takes s.dev c k .signal len w again →
     let d := issued s.dev c k len again false
     let x := slotOf d c k
     let sig (set : Bool) : Sig := ⟨(slotOf s.dev c k).seq, bitsOf w 44 40, set, bitsOf w 63 48⟩
     (bitsOf w 47 45 = 0 → Answers (.signalAdd c k) s (runAct (slotProgress c k) (withSlot d c k { x with sigs := x.sigs ++ [sig false] }))) ∧
     (bitsOf w 47 45 = 1 → Answers (.signalSet c k) s (runAct (slotProgress c k) (withSlot d c k { x with sigs := x.sigs ++ [sig true] }))))

/-- Array, vector, lathe and exchange commands enter their engines' queues (R62, R66, R89, R125, R128, R134, R259, R368, R376, R383). An SLOAD or
PASS that issues enters the queue of the core's array; a VOP, a FUNC of either derivative mode or an UPDATE that of its vector engine; each
operation of LATHE, told apart by bits 11:8, that of its lathe; an XDISPATCH of each mode or an XCOMBINE that of its die's exchange engine, which
takes what it can. Each is in flight until it completes; the engines run from there by `settle`. -/
def Obligations.EngineCommandsQueue : Prop :=
  (∀ (s : State) (c : CoreId) (k : SlotId) (len w : Nat) (again : Bool) (env : IslandEnv), awake s.dev = true →
     let d := issued s.dev c k len again true
     let q : Dev := { d with arrs := tabPut d.arrs c { arrOf d c with q := (arrOf d c).q ++ [⟨k, (slotOf s.dev c k).seq, w, env, 0, []⟩] } }
     (Takes s.dev c k .sload len w again → pairingBad (arrOf d c) k w = false → Answers (.sload c k env) s q) ∧
     (Takes s.dev c k .pass len w again → pairingBad (arrOf d c) k w = false → Answers (.pass c k env) s q) ∧
     (Takes s.dev c k .sload len w again → pairingBad (arrOf d c) k w = true → Answers (.sload c k env) s (runAct (arrFault c k 1) d)) ∧
     (Takes s.dev c k .pass len w again → pairingBad (arrOf d c) k w = true → Answers (.pass c k env) s (runAct (arrFault c k 1) d))) ∧
  (∀ (s : State) (c : CoreId) (k : SlotId) (len w : Nat) (again : Bool) (env : IslandEnv), awake s.dev = true →
     let d := issued s.dev c k len again true
     let q : Dev := { d with vecs := tabPut d.vecs c { vecOf d c with q := (vecOf d c).q ++ [⟨k, (slotOf s.dev c k).seq, w, env, 0, []⟩] } }
     (Takes s.dev c k .vop len w again → Answers (.vop c k env) s q) ∧
     (Takes s.dev c k .func len w again → (vopF w).fmode = 0 → Answers (.funcForward c k env) s q) ∧
     (Takes s.dev c k .func len w again → (vopF w).fmode ≠ 0 → Answers (.funcDerivative c k env) s q) ∧
     (Takes s.dev c k .update len w again → Answers (.update c k env) s q)) ∧
  (∀ (s : State) (c : CoreId) (k : SlotId) (len w : Nat) (again : Bool) (env : IslandEnv), awake s.dev = true → Takes s.dev c k .lathe len w again →
     let d := issued s.dev c k len again true
     let q : Dev := { d with lathes := tabPut d.lathes c { latheOf d c with q := (latheOf d c).q ++ [⟨k, (slotOf s.dev c k).seq, w, env, 0, []⟩] } }
     (bitsOf w 11 8 = 0 → Answers (.normFwd c k env) s q) ∧ (bitsOf w 11 8 = 1 → Answers (.rmsFwd c k env) s q) ∧
     (bitsOf w 11 8 = 2 → Answers (.normBwd c k env) s q) ∧ (bitsOf w 11 8 = 3 → Answers (.rmsBwd c k env) s q) ∧
     (bitsOf w 11 8 = 4 → Answers (.smaxFwd c k env) s q) ∧ (bitsOf w 11 8 = 5 → Answers (.smaxRun c k env) s q) ∧
     (bitsOf w 11 8 = 6 → Answers (.smaxBwd c k env) s q) ∧ (bitsOf w 11 8 = 7 → Answers (.chuckLoad c k env) s q) ∧
     (8 ≤ bitsOf w 11 8 → Answers (.chuckStore c k env) s q)) ∧
  (∀ (s : State) (c : CoreId) (k : SlotId) (len w : Nat) (again : Bool), awake s.dev = true →
     let d := issued s.dev c k len again true
     let x := slotOf s.dev c k
     let e := xchOf d (dieOf c)
     let q := runAct (do
       setXch (dieOf c) { e with q := e.q ++ [⟨c, k, x.part, x.tid, x.seq, w⟩] }
       kickXch (dieOf c) (e.q.length + 1)) d
     (Takes s.dev c k .xdispatch len w again →
       (bitsOf w 9 8 = 0 → Answers (.xdispatchDispatch c k) s q) ∧ (bitsOf w 9 8 = 1 → Answers (.xdispatchPostReceive c k) s q) ∧
       (bitsOf w 9 8 = 2 → Answers (.xdispatchReturn c k) s q) ∧ (bitsOf w 9 8 = 3 → Answers (.xdispatchRestore c k) s q)) ∧
     (Takes s.dev c k .xcombine len w again →
       (bitsOf w 9 8 = 0 → Answers (.xcombineGate c k) s q) ∧ (bitsOf w 9 8 ≠ 0 → Answers (.xcombineUnit c k) s q)))

/-- SARM, SREARM and SDISARM (R153, R156, R157, R158, R169, R171, R172). A SARM that passes its checks arms the stream with the descriptor read and
takes its credits; SREARM sets the stream to be re-armed, a drain's last chunks released first; SDISARM finishes or cancels it. SREARM and SDISARM
are in flight until the stream has done so. -/
def Obligations.StreamCommands : Prop :=
  ∀ (s : State) (c : CoreId) (k : SlotId) (len w : Nat) (again : Bool), awake s.dev = true →
    let st := streamNo w
    let i := issued s.dev c k len again true
    let q := strmCmd s.dev c k w []
    let d := tookStrm i c q
    let x := slotOf d c k
    let seq := (slotOf s.dev c k).seq
    (Takes s.dev c k .srearm len w again → Answers (.srearm c k) s (runAct (kickStrm c 8) { i with strmqs := tabPut i.strmqs c (strmQ i c ++ [q]) })) ∧
    (Takes s.dev c k .sdisarm len w again → bitOf w 12 = false →
      Answers (.sdisarmFinish c k) s (runAct (kickStrm c 8) { i with strmqs := tabPut i.strmqs c (strmQ i c ++ [q]) })) ∧
    (Takes s.dev c k .sdisarm len w again → bitOf w 12 = true →
      Answers (.sdisarmCancel c k) s (runAct (kickStrm c 8) { i with strmqs := tabPut i.strmqs c (strmQ i c ++ [q]) })) ∧
    (∀ parity : List ParityHit, Takes s.dev c k .sarm len w again →
      Answers (.sarm c k parity) s
        (runAct (kickStrm c 8) { i with strmqs := tabPut i.strmqs c (strmQ i c ++ [strmCmd s.dev c k w parity]) })) ∧
    (strmQ s.dev c = [] →
      (∀ (parity : List ParityHit) (y : StreamDesc) (e : Dev), Takes s.dev c k .sarm len w again →
        let x := slotOf (tookStrm i c (strmCmd s.dev c k w parity)) c k
        Runs (portParity c parity (x.phys (bitsOf w 85 64)) 64) (tookStrm i c (strmCmd s.dev c k w parity)) () e →
        bitsOf w 127 86 = 0 → bitsOf w 85 64 % 64 = 0 → bitsOf w 63 22 = 0 → bitsOf w 15 12 = 0 → x.inWindow (bitsOf w 85 64) 64 = true →
        badIn e (.spad c) (x.phys (bitsOf w 85 64)) 64 = [] → sarmCheck e c x st (bytesOf e (.spad c) (x.phys (bitsOf w 85 64)) 64) = .ok y →
        Answers (.sarm c k parity) s (runAct (do
          offMapStream c x.maps.stream (x.phys (bitsOf w 85 64)) 64
          grant 0 y.ccount
          setStream c st ⟨y, x.part, x.tid, k, x.epoch, doneCtr w, evOf e c x.part y.relCtr, 0, 0, 0, 0, 0, (x.part, x.tid), [], false, .run, false,
            0, x.maps.stream, none⟩
          completeCmd x.part x.tid seq
          kickStrm c 7) e)) ∧
      (∀ (y z : Stream) (e : Dev), Takes s.dev c k .srearm len w again → streamIdle i c w = true →
        bitsOf w 127 112 = 0 → bitsOf w 111 64 % 8 = 0 → bitsOf w 63 22 = 0 → bitsOf w 15 12 = 0 →
        streamStateBad d c x st = false → streamOf d c st = some y →
        Runs (onlyIf y.desc.drain (releaseUpTo c st y.desc.chunks (x.part, x.tid))) d () e → streamOf e c st = some z →
        Answers (.srearm c k) s (runAct (do
          setStream c st { z with mode := .rearm (bitsOf w 111 64) (doneCtr w) x.tid seq }
          streamProgress c st
          kickStrm c 7) e)) ∧
      (Takes s.dev c k .sdisarm len w again → bitsOf w 63 13 = 0 → streamStateBad d c x st = false →
        (bitOf w 12 = false → streamIdle i c w = true → Answers (.sdisarmFinish c k) s (runAct (do
          finishStream c st (some (x.tid, seq))
          kickStrm c 7) d)) ∧
        (bitOf w 12 = true → Answers (.sdisarmCancel c k) s (runAct (do
          cancelStream c st (some (x.tid, seq))
          kickStrm c 7) d))))

/-- SEND in both modes and RECV (R353, R354, R355, R356). A SEND that passes its checks queues its messages on its channel: the byte messages of its
source in mode 0, a contribution in mode 1. A RECV that passes its checks waits at its channel end behind those that wait there, and takes the
messages that have landed. -/
def Obligations.SendsAndReceives : Prop :=
  (∀ (s : State) (c : CoreId) (k : SlotId) (len w : Nat) (again : Bool) (parity : List ParityHit), awake s.dev = true → Takes s.dev c k .send len w again →
     let i := issued s.dev c k len again true
     let q := strmCmd s.dev c k w parity
     let d := tookStrm i c q
     let x := slotOf d c k
     let at_ := x.phys (bitsOf w 85 64)
     let contrib := isContrib s.dev c (slotOf s.dev c k) w
     (contrib = false → Answers (.sendBytes c k parity) s (runAct (kickStrm c 8) { i with strmqs := tabPut i.strmqs c (strmQ i c ++ [q]) })) ∧
     (contrib = true → Answers (.sendContribution c k parity) s (runAct (kickStrm c 8) { i with strmqs := tabPut i.strmqs c (strmQ i c ++ [q]) })) ∧
     (∀ (e : Dev) (ci : ChanIdx) (ch : Chan), strmQ s.dev c = [] → Runs (portParity c parity at_ 64) d () e →
       let bs := bytesOf e (.spad c) at_ 64
       let flags := fieldAt bs 5 1
       let src := fieldAt bs 8 8
       let n := fieldAt bs 0x10 4
       let va := bitOf flags 1
       let owner : Owner := .task c x.part x.tid (slotOf s.dev c k).seq (if bitOf w 16 then some (bitsOf w 21 17) else none) (at_ + 0x20)
       sendFieldsOk w = true → x.inWindow (bitsOf w 85 64) 64 = true → badIn e (.spad c) at_ 64 = [] → flags ≤ 3 → src % 8 = 0 →
       src / 2 ^ (if va then 48 else 22) = 0 → (bs.drop 0x24).all (· == 0#8) = true → openChan e x.part (fieldAt bs 0 4) = some (ci, ch) →
       (contrib = false → fieldAt bs 4 1 = 0 → (va = false → x.inWindow src n = true) → (ch.kind = 0 ∨ ch.kind = 3) →
         8 ≤ n → n ≤ 2 ^ 24 → n % 8 = 0 →
         Answers (.sendBytes c k parity) s (runAct (do
           queueJob ci owner (byteMsgs ch.slotBytes va c (if va then src else x.phys src) (bitOf flags 0) (n / ch.slotBytes + 1) 0 n) w
           kickStrm c 7) e)) ∧
       (contrib = true → fieldAt bs 4 1 = 1 → (va = false → x.inWindow src (4 * n) = true) → ch.kind = 1 → n ≠ 0 → n % 32 = 0 →
         fieldAt bs 0x18 4 % 32 = 0 →
         Answers (.sendContribution c k parity) s (runAct (do
           queueJob ci owner (contribOf e c x ch bs va (if va then src else x.phys src) n) w
           kickStrm c 7) e)))) ∧
  (∀ (s : State) (c : CoreId) (k : SlotId) (len w : Nat) (again : Bool) (parity : List ParityHit), awake s.dev = true → Takes s.dev c k .recv len w again →
     let i := issued s.dev c k len again true
     let q := strmCmd s.dev c k w parity
     let d := tookStrm i c q
     let x := slotOf d c k
     let at_ := x.phys (bitsOf w 85 64)
     Answers (.recv c k parity) s (runAct (kickStrm c 8) { i with strmqs := tabPut i.strmqs c (strmQ i c ++ [q]) }) ∧
     (∀ (e : Dev) (ci : ChanIdx) (ch : Chan), strmQ s.dev c = [] → Runs (portParity c parity at_ 64) d () e →
       let bs := bytesOf e (.spad c) at_ 64
       let flags := fieldAt bs 5 1
       let dst := fieldAt bs 8 8
       let n := fieldAt bs 0x10 4
       let va := bitOf flags 1
       sendFieldsOk w = true → x.inWindow (bitsOf w 85 64) 64 = true → badIn e (.spad c) at_ 64 = [] → fieldAt bs 4 1 = 0 → (flags = 0 ∨ flags = 2) →
       dst % 8 = 0 → dst / 2 ^ (if va then 48 else 22) = 0 → (bs.drop 0x24).all (· == 0#8) = true → (va = false → x.inWindow dst n = true) →
       chanBy e (fieldAt bs 0 4) = some (ci, ch) → ch.part = x.part → ch.kind = 0 → (ch.st = .opened ∨ ch.st = .failed) → n ≠ 0 → n % ch.slotBytes = 0 →
       Answers (.recv c k parity) s (runAct (do
         setChan ci { ch with recvs := ch.recvs ++ [⟨c, x.part, x.tid, (slotOf s.dev c k).seq, if bitOf w 16 then some (bitsOf w 21 17) else none,
           at_ + 0x20, va, if va then dst else x.phys dst, n, 0⟩] }
         pumpRecvAll ci
         kickStrm c 7) e)))

/-- The end of a task on its slot (R90, R173, R428). An ENDING slot with nothing in flight and no drain of its task left becomes FREE with its epoch
kept, and the task ends with status 0; while such a drain is left nothing happens. -/
def Obligations.TaskEndCompletes : Prop :=
  ∀ (s : State) (c : CoreId) (k : SlotId), awake s.dev = true →
    let x := slotOf s.dev c k
    x.st = .ending → x.idle = true →
    ((s.dev.streams.all fun y => !(y.1.1 == c && y.2.part == x.part && y.2.tid == x.tid && y.2.desc.drain && !y.2.desc.persist)) = true →
      Answers (.taskEndComplete c k) s (runAct (endTask x.part x.tid 0 0)
        { s.dev with
          arrs := tabPut s.dev.arrs c (arrDiscard (arrOf s.dev c) k x.part x.tid)
          vecs := tabPut s.dev.vecs c (engDiscard (vecOf s.dev c) k)
          lathes := tabPut s.dev.lathes c (engDiscard (latheOf s.dev c) k)
          strmqs := (if (strmQ s.dev c).any fun q => q.slot == k then tabPut s.dev.strmqs c ((strmQ s.dev c).filter fun q => q.slot ≠ k)
            else s.dev.strmqs)
          slots := tabPut s.dev.slots (c, k) { Slot.empty with epoch := x.epoch } })) ∧
    ((s.dev.streams.any fun y => y.1.1 == c && y.2.part == x.part && y.2.tid == x.tid && y.2.desc.drain && !y.2.desc.persist) = true →
      Answers (.taskEndComplete c k) s s.dev)

/-- The end of a shadow load and of a PASS (R62, R65, R66, R70, R81). Once every row has been read the shadow is FULL and the SLOAD completes; a
load that reloads the shadow for a held PASS gives the array back to that PASS and counts in ARR_RELOAD_COUNT. When no drain reads the slot of the
oldest pass's last row, that row is written, the pass leaves the array, a draining shadow is given up after its swap, the pass and its cycles count,
and its command completes, unless the pass was discarded. -/
def Obligations.ArrayCompletions : Prop :=
  (∀ (s : State) (c : CoreId) (r : Run) (o : Operand), awake s.dev = true →
     let a := arrOf s.dev c
     a.load = some r → a.shadow = some o → a.sh = .loading → o.rows.length = o.next →
     let d : Dev := { s.dev with arrs := tabPut s.dev.arrs c { a with
       sh := .full
       load := none } }
     (a.reload = false → Answers (.shadowLoadComplete c) s (runAct (completeCmd (slotOf s.dev c r.q.slot).part (slotOf s.dev c r.q.slot).tid r.q.seq) d)) ∧
     (a.reload = true → Answers (.shadowLoadComplete c) s (counted d .ARR_RELOAD_COUNT c.val 1))) ∧
  (∀ (s : State) (c : CoreId) (p : PassRun) (rest : List PassRun), awake s.dev = true → (arrOf s.dev c).passes = p :: rest →
     (p.feeding = true → Answers (.passComplete c) s s.dev) ∧
     (∀ b e p' rest', p.feeding = false → Runs (reachCycle (envOf s.dev) c (((p.out.getLast?).map fun o => o.born + 256).getD 0)) s.dev b e →
       (arrOf e c).passes = p' :: rest' →
       (p'.out ≠ [] → Answers (.passComplete c) s e) ∧
       (p'.out = [] →
         let a := arrOf e c
         let e' : Dev := { e with arrs := tabPut e.arrs c { a with
           passes := rest'
           sh := if p'.swap ∧ a.sh = .draining ∧ !(rest'.any fun r => r.swap) then .empty else a.sh } }
         let f := counted (counted e' .ARR_PASS_COUNT c.val (if p'.discard then 0 else 1)) .ARR_BUSY_CYCLES c.val
           (p'.rows + (if rest'.isEmpty then 256 else 0))
         (p'.discard = false → Answers (.passComplete c) s (runAct (completeCmd p'.own.part p'.own.tid p'.seq) f)) ∧
         (p'.discard = true → Answers (.passComplete c) s (runAct (abortDone c p'.slot) f)))))

/-- The end of a vector or lathe command and of a function-table load (R126, R127, R131, R138, R259). When the last step of a running VOP, FUNC,
UPDATE or LATHE is made, the engine stands free, the event counter that the command names counts and the command completes. A function-table load
ends while no running command uses the slot: it is VALID with the 6,208 bytes read when they are a table, and INVALID when they cannot be read or
are none. -/
def Obligations.EngineCompletions : Prop :=
  (∀ (s : State) (c : CoreId) (r : Run), awake s.dev = true →
     let v : Dev := { s.dev with vecs := tabPut s.dev.vecs c { vecOf s.dev c with run := none } }
     let l : Dev := { s.dev with lathes := tabPut s.dev.lathes c { latheOf s.dev c with run := none } }
     ((vecOf s.dev c).run = some r → r.q.cmd % 256 ≠ 0x84 → vecDone r = true →
       Answers (.vectorCommandComplete c) s (runAct (finishCmd c r.q.slot r.q.seq (vopF r.q.cmd).ctr) v)) ∧
     ((vecOf s.dev c).run = some r → r.q.cmd % 256 = 0x84 → updDone r = true →
       Answers (.updateComplete c) s (runAct (finishCmd c r.q.slot r.q.seq (if bitOf r.q.cmd 16 then some (bitsOf r.q.cmd 21 17) else none)) v)) ∧
     ((latheOf s.dev c).run = some r → latheDone r = true →
       Answers (.latheCommandComplete c) s (runAct (finishCmd c r.q.slot r.q.seq (latheF r.q.cmd).ctr) l))) ∧
  (∀ (s : State) (c : CoreId) (i : Fin 16) (va : Nat) (p : PartId) (r : Option (List Byte)) (e : Dev), awake s.dev = true →
     (ftabOf s.dev c i.val).loading = some (va, p) → tableFree s.dev c i.val = true → domOf s.dev (c.val / 25) = .on → Runs (vaBytes (envOf s.dev p) p va 6208) s.dev r e →
     let x := ftabOf s.dev c i.val
     Answers (.functionTableLoadDone c i) s { e with ftabs := tabPut e.ftabs (c, i.val) (match r with
       | some img => if imageOk img then { x with
           valid := true
           image := img
           src := some (va, p)
           loading := none } else failedTab x
       | none => failedTab x) })

/-- The chunks and reads of landing streams (R160, R161, R174, R176, R179). With the stream running or being re-armed, a credit left and room for
its watches, the next chunk begins fetching and its reads go out. A read that comes back lands what stands in the piles or the barrel, or what a
host brings, in the chunk's ring slot; a pile read that fails makes the chunk's deferred fault. -/
def Obligations.Landings : Prop :=
  (∀ (s : State) (c : CoreId) (st : StreamId) (x : Stream), awake s.dev = true → streamOf s.dev c st = some x → x.desc.drain = false →
     x.paused = false → (x.mode = .run ∨ ∃ base ctr tid seq, x.mode = .rearm base ctr tid seq) → x.next < x.desc.chunks →
     x.next + heldCredits s.dev c st < x.rel + x.desc.ccount →
     let qs := piecesOf s.dev c x x.next
     let ws := watchesOf s.dev c x qs
     (allPiles.all fun pl => decide (watchesOn s.dev pl + (ws.filter fun w => pileOfPa (if 2 ^ 40 ≤ w then w - 2 ^ 40 else w * 2048) == pl).length ≤ 8192)) = true →
     Answers (.streamChunkFetch c st) s (runAct (do
       each qs (issueRead c st x.next)
       fillChunk c st x.next) { s.dev with streams := tabPut s.dev.streams (c, st) { x with
         next := x.next + 1
         chunks := x.chunks ++ [⟨x.next, .fetching, [], 0, 0, false, ws, [], none⟩] } })) ∧
  (∀ (s : State) (c : CoreId) (st : StreamId) (j id : Nat) (ext : ExtData) (x : Stream) (ch : Chunk) (q : Piece), awake s.dev = true →
     pieceOf s.dev c st j id = some (x, ch, q) →
     (∀ r e, q.tier = 1 → Runs (pileSpans (envOf s.dev x.part) x.part (streamAcc s.dev c x) q.spans) s.dev r e →
       Answers (.streamReadLanded c st j id ext) s (runAct (match r with
         | .ok (bs, bad) => landPiece c st j q bs bad
         | .error (code, a) => faultPiece c st j q code a) e)) ∧
     (q.tier = 3 → (spilledFrame s.dev x.part q.va).isSome = true → Answers (.streamReadLanded c st j id ext) s (runAct (fetchSpilled c st j q) s.dev)) ∧
     (∀ bs bad, q.tier = 3 → (spilledFrame s.dev x.part q.va).isSome = false → barrelSpans s.dev x.part q.spans = .ok (some (bs, bad)) →
       Answers (.streamReadLanded c st j id ext) s (runAct (landPiece c st j q bs bad) s.dev)) ∧
     (q.tier = 4 → q.tag = none → Answers (.streamReadLanded c st j id ext) s (runAct (landFrame c st j q ext.bytes ext.poisoned) s.dev)) ∧
     (q.tier = 2 → q.tag = none →
       Answers (.streamReadLanded c st j id ext) s
         (runAct (landPiece c st j q (padTo q.len 0#8 (ext.bytes.take q.len)) (if ext.poisoned then allWords q.va q.len else [])) s.dev)))

/-- The chunks and writes of drain streams (R164, R166, R175). A drain's next released chunk is read through the stream port and its writes go out.
A write is accepted where it goes: by the piles the bytes of the ring slot are stored, to a host they leave the module, and for a peer they have
arrived; a write that the piles refuse is dropped and aborts the drain's task. -/
def Obligations.Drains : Prop :=
  (∀ (s : State) (c : CoreId) (st : StreamId) (parity : List ParityHit) (x : Stream) (ch : Chunk), awake s.dev = true →
     streamOf s.dev c st = some x → x.desc.drain = true → x.paused = false → (∀ ws, x.mode ≠ .cancel ws) →
     (x.chunks.find? fun k => k.st == .released) = some ch →
     Answers (.drainChunkWrite c st parity) s (runAct (do
       portParity c parity (x.desc.slotAt ch.j) (x.desc.chunkLen ch.j)
       offMapStream c x.map (x.desc.slotAt ch.j) (x.desc.chunkLen ch.j)
       issueWrites c st ch.j (piecesOf s.dev c x ch.j)) s.dev)) ∧
  (∀ (s : State) (c : CoreId) (st : StreamId) (j id : Nat) (x : Stream) (ch : Chunk) (q : Piece), awake s.dev = true →
     pieceOf s.dev c st j id = some (x, ch, q) → x.desc.drain = true →
     let base := x.desc.slotAt j
     let at_ := base + ((q.spans.head?.map (·.dst)).getD 0)
     let bs := bytesOf s.dev (.spad c) at_ q.len
     let done (r : Except (Nat × Nat) Unit) : Act Unit := match r with
       | .ok _ => acceptPiece c st j q
       | .error (code, a) => do
         dropPiece c st j q.id
         drainFault c st j code a 0x15
     (∀ r e, q.tier = 1 → Runs (pilePuts (envOf s.dev x.part) x.part (streamAcc s.dev c x) c base q.spans) s.dev r e →
       Answers (.drainWriteAccepted c st j id) s (runAct (done r) e)) ∧
     (q.tier = 3 →
       let spills := ((entAt s.dev x.part q.va).map fun ie => toSpill s.dev x.part ie.2).getD false && bitsOf (latched s.dev x.part .BARL_CTRL) 5 4 == 2
       let hurt := q.spans.any fun (y : Span) => !(badIn s.dev (.spad c) (base + y.dst) y.len).isEmpty
       let who := if x.desc.persist then ((((chunkOf x j).bind (·.rel)).getD x.relBy).2) else x.tid
       let gone := (taskOf s.dev x.part who).all Task.over
       ((spills && hurt) = true → Answers (.drainWriteAccepted c st j id) s (runAct (do
         dropPiece c st j q.id
         drainFault c st j 0 0 0x18) s.dev)) ∧
       (∀ r e, (spills && hurt) = false →
         Runs (barrelPuts x.part c base (lastWrite x j) (if gone then none else some who) gone q.spans) s.dev r e →
         Answers (.drainWriteAccepted c st j id) s (runAct (done r) e))) ∧
     (∀ f a, q.tier = 2 → q.tag = none → targetOf s.dev c x q.va = .host f a →
       Answers (.drainWriteAccepted c st j id) s (runAct (acceptPiece c st j q)
         { s.dev with out := s.dev.out ++ [.hostWrite f a bs (!(relBad s.dev (.spad c) at_ q.len).isEmpty)] })) ∧
     (∀ tag, q.tier = 2 → q.tag = some tag → ((chanBy s.dev q.tgt).map fun ic => ic.2.reqs.any fun r => r.tag == tag) = some false →
       Answers (.drainWriteAccepted c st j id) s (runAct (acceptPiece c st j q) s.dev)))

/-- Source timeout and the progress watchdog (R176, R180). A host read that is not answered makes its chunk's deferred fault with code 0xB. When the
frozen cycles reach the watchdog's limit they are counted, the fire is counted, and the task of the stalled engine is aborted with code 0xA. -/
def Obligations.StreamTimeouts : Prop :=
  ∀ (s : State) (c : CoreId), awake s.dev = true →
    (∀ (st : StreamId) (j id : Nat) (x : Stream) (ch : Chunk) (q : Piece), pieceOf s.dev c st j id = some (x, ch, q) → (q.tier = 2 ∨ q.tier = 4) →
      x.desc.drain = false → Answers (.sourceTimeout c st j id) s (runAct (faultPiece c st j q 0xB q.va) s.dev)) ∧
    (∀ (held still : Nat) (w : ArrWait), standing s.dev c = some w →
      let limit := bitsOf (regOf s.dev .STRM_CTRL c.val) 31 16
      limit ≠ 0 → limit * 1024 ≤ held → (movedSince s.dev c w.stall = false ∨ limit * 1024 ≤ still) →
      Answers (.progressWatchdogFire c ⟨held, still⟩) s (runAct (do
        strmFault c w.slot w.stall.stream.val 0 0xA 0
        abortTask w.part w.tid 0x15 0xA) (counted (counted s.dev .CORE_FREEZE_STREAM c.val held) .STRM_WDOG_FIRES c.val 1)))

/-- The command fetcher (R86, R90). For a slot that is placed, ready or waiting in a domain that is ON, the next bytes of its list, up to 2 KiB,
stand in its buffer, and a slot that waited for them goes on; a read that fails aborts the task with the fault's code. -/
def Obligations.CommandBufferRefills : Prop :=
  ∀ (s : State) (c : CoreId) (k : SlotId) (e : Dev), awake s.dev = true →
    let x := slotOf s.dev c k
    let n := min (2048 - x.buf.length) (x.bytes - (x.pos + x.buf.length))
    (x.st = .placed ∨ x.st = .ready ∨ x.st = .waiting) → domOf s.dev (c.val / 25) = .on → (n ≠ 0 ∨ x.st = .placed) →
    (∀ bs bad, Runs (vaRead (envOf s.dev x.part) x.part { die := some (c.val / 50) } (x.list + 64 + (x.pos + x.buf.length)) n) s.dev (.ok (bs, bad)) e →
      let y := { slotOf e c k with
        buf := (slotOf e c k).buf ++ bs
        bad := ((slotOf e c k).bad.filter fun w => decide ((slotOf e c k).pos ≤ 8 * w)) ++ bad.map (· + (x.pos + x.buf.length) / 8) }
      Answers (.commandBufferRefill c k) s (withSlot e c k (match (slotOf e c k).st, (slotOf e c k).wait with
        | .placed, none => { y with st := .ready }
        | .placed, some w => if waitMet e c (slotOf e c k) w then { y with
            st := .ready
            wait := none } else { y with st := .waiting }
        | .waiting, some .buffer => { y with st := .ready, wait := none }
        | _, _ => y))) ∧
    (∀ code a, Runs (vaRead (envOf s.dev x.part) x.part { die := some (c.val / 50) } (x.list + 64 + (x.pos + x.buf.length)) n) s.dev (.error (code, a)) e →
      Answers (.commandBufferRefill c k) s (runAct (do
        strmFault c k 0 3 code a
        abortSlot c k 0x15 code) e))

/-- The state image of a pre-empted task is saved (R91, R401). The slot gives up the core with what its engines held of it, the task is suspended
with its image and a context region, and SCHED_PREEMPT_MAX keeps the longest pre-emption. -/
def Obligations.StateImageSaves : Prop :=
  ∀ (s : State) (c : CoreId) (k : SlotId) (cycles : Nat) (t : Task), awake s.dev = true →
    let d := s.dev
    let x := slotOf d c k
    let runs := [(vecOf d c).run, (latheOf d c).run].filterMap fun r => r.bind fun y => if y.q.slot = k then some y else none
    x.st = .saving → (runs.all fun r => r.stall.isNone) = true → ((arrOf d c).run.map fun r => r.q.slot) ≠ some k → taskOf d x.part x.tid = some t →
    let y := partOf d x.part
    let region := (y.ctx.find? fun r => !y.ctxUsed.contains r).getD 0
    let a := arrOf d c
    let recs := tabGet a.recs k ⟨none, none⟩
    let im : Image := ⟨c, { x with resume := runs.map fun r => { r.q with row := r.row } }, memOf d (.vreg c k), recs, region⟩
    let e : Dev := { d with
      grants := tabPut d.grants 9 (satAdd64 (tabGet d.grants 9 0#64) 1)
      parts := tabPut d.parts x.part { y with ctxUsed := y.ctxUsed ++ [region] }
      arrs := tabPut d.arrs c { a with
        recs := tabDel a.recs k
        active := if a.active.map (·.slot) = some k then none else a.active }
      vecs := tabPut d.vecs c ⟨(vecOf d c).q, if ((vecOf d c).run.map (·.q.slot)) = some k then none else (vecOf d c).run⟩
      lathes := tabPut d.lathes c ⟨(latheOf d c).q, if ((latheOf d c).run.map (·.q.slot)) = some k then none else (latheOf d c).run⟩
      mems := tabDel d.mems (.vreg c k)
      bad := tabDel d.bad (.vreg c k)
      slots := tabPut d.slots (c, k) { Slot.empty with epoch := x.epoch }
      tasks := tabPut d.tasks (x.part, x.tid) { t with st := .suspended, core := none, image := some im } }
    Answers (.stateImageSaved c k cycles) s
      (if decide (ctrOf e .SCHED_PREEMPT_MAX x.part.val < cycles) && counting e .SCHED_PREEMPT_MAX x.part.val then
        { e with ctrs := tabPut e.ctrs ⟨.SCHED_PREEMPT_MAX, x.part.val, 0⟩ (BitVec.ofNat 64 cycles) } else e)

/-- Messages of the exchange arrive (R213, R377, R378, R382). A dispatch or return message that matches an open round lands in its batch and leaves
its ring slot; one that no round takes is dropped and counted in XCH_RX_DROP; one whose round is still to come waits. A re-run request of the open
step is kept with the barrel until it is answered, and leaves its ring slot. -/
def Obligations.ExchangeMessagesArrive : Prop :=
  (∀ (s : State) (p : PartId) (src : MsgSrc) (msg : List Byte) (e : Dev) (die : DieId) (id i : Nat), awake s.dev = true →
     Runs (takeMsg p [2, 3] src) s.dev (some msg) e → 64 ≤ msg.length →
     (fieldAt msg 0 1 = 0x10 → matchMsg e p (srcHandle e src) .receive msg = .land die id i →
       Answers (.dispatchMessageArrival p src) s (runAct (do
         landDispatch die id i msg
         dropMsg src
         fabricTaken p .dispatch msg src) e)) ∧
     (fieldAt msg 0 1 = 0x10 → matchMsg e p (srcHandle e src) .receive msg = .drop die →
       Answers (.dispatchMessageArrival p src) s (runAct (do
         dropMsg src
         fabricTaken p .dispatch msg src) (counted e .XCH_RX_DROP die 1))) ∧
     (fieldAt msg 0 1 = 0x10 → matchMsg e p (srcHandle e src) .receive msg = .wait → Answers (.dispatchMessageArrival p src) s e) ∧
     (fieldAt msg 0 1 = 0x11 → matchMsg e p (srcHandle e src) .dispatch msg = .land die id i →
       Answers (.returnMessageArrival p src) s (runAct (do
         landReturn die id i msg
         dropMsg src
         fabricTaken p .return msg src) e)) ∧
     (fieldAt msg 0 1 = 0x11 → matchMsg e p (srcHandle e src) .dispatch msg = .drop die →
       Answers (.returnMessageArrival p src) s (runAct (do
         dropMsg src
         fabricTaken p .return msg src) (counted e .XCH_RX_DROP die 1))) ∧
     (fieldAt msg 0 1 = 0x11 → matchMsg e p (srcHandle e src) .dispatch msg = .wait → Answers (.returnMessageArrival p src) s e)) ∧
  (∀ (s : State) (p : PartId) (src : MsgSrc) (msg : List Byte) (e : Dev), awake s.dev = true → Runs (takeMsg p [3] src) s.dev (some msg) e →
     fieldAt msg 0 1 = 0x14 → 64 ≤ msg.length → stepRule e p msg = none →
     let b := barrelOf e p
     Answers (.rerunReqArrival p src) s (runAct (dropMsg src) { e with barrels := tabPut e.barrels p { b with
       reruns := b.reruns ++ [⟨fieldAt msg 0x10 2, fieldAt msg 0x12 2, fieldAt msg 0x14 4, srcHandle e src⟩] } }))

/-- Contributions and the zeroing of an accumulator (R246, R247, R248, R249). A stale contribution is counted and dropped; one to an IDLE slice
starts the zeroing of its accumulator and waits; one of a stream that has ended is counted as a duplicate and dropped; another is added, and with
its stream's last message the slice counts it and is FULL at the expected count. When the zeroing ends the accumulator's bytes and bit maps are
zero, without poison, and the slice accumulates. -/
def Obligations.ContributionsArrive : Prop :=
  (∀ (s : State) (p : PartId) (src : MsgSrc) (msg : List Byte) (e : Dev), awake s.dev = true → Runs (takeMsg p [1] src) s.dev (some msg) e →
     (sortContrib e p msg = .stale → Answers (.contributionMessage p src) s (runAct (dropMsg src) (counted e .UPD_CONTRIB_STALE p.val 1))) ∧
     (sortContrib e p msg = .wait → Answers (.contributionMessage p src) s e) ∧
     (∀ i x, sortContrib e p msg = .zero i x → Answers (.contributionMessage p src) s (runAct (setSlice p i { x with zeroing := true }) e)) ∧
     (∀ i x f e', sortContrib e p msg = .take i x f → Runs (dropMsg src) e () e' →
       let ci := fieldAt msg 0x18 2
       ((sliceBit e x 0 ci = true ∧ sliceBit e x 1 ci = true) ∨ (bitOf (fieldAt msg 0x1B 1) 0 = false ∧ sliceBit e x 0 ci = false)) →
       Answers (.contributionMessage p src) s (counted e' .UPD_CONTRIB_DUP p.val 1)) ∧
     (∀ i x f e', sortContrib e p msg = .take i x f → Runs (dropMsg src) e () e' → bitOf (fieldAt msg 0x1B 1) 0 = true →
       sliceBit e x 0 (fieldAt msg 0x18 2) = true → sliceBit e x 1 (fieldAt msg 0x18 2) = false → Answers (.contributionMessage p src) s (runAct (spoilSlice p i x) e')) ∧
     (∀ i x f e' e1 e2, sortContrib e p msg = .take i x f → Runs (dropMsg src) e () e' →
       let ci := fieldAt msg 0x18 2
       let first := bitOf (fieldAt msg 0x1B 1) 0
       sliceBit e x 1 ci = false → sliceBit e x 0 ci = !first → Runs (onlyIf first (setSliceBit x 0 ci)) e' () e1 →
       Runs (addContribution p x f (fieldAt msg 0x10 4) (fieldAt msg 0x14 4) (msg.drop 32)) e1 true e2 →
       Answers (.contributionMessage p src) s (runAct (onlyIf (bitOf (fieldAt msg 0x1B 1) 1) do
         setSliceBit x 1 ci
         setSlice p i { x with
           count := x.count + 1
           st := if x.count + 1 = x.expected then SliceSt.full else x.st }
         grant 6 1
         count .UPD_CONTRIB_COUNT p.val 1) e2))) ∧
  (∀ (s : State) (p : PartId) (i : Nat) (x : Slice), awake s.dev = true → (escOf s.dev p).slices[i]? = some x → x.st = .idle → x.zeroing = true →
     (partOf s.dev p).step.isSome = true →
     let c : CoreId := Fin.ofNat 800 x.core
     Answers (.accumulatorZeroDone p i) s (runAct (do
       clearBad (.spad c) x.acc (4 * x.elems + 1024)
       setSlice p i { x with
         zeroing := false
         st := .accum })
       { s.dev with mems := tabPut s.dev.mems (.spad c) (memZero (memOf s.dev (.spad c)) x.acc (4 * x.elems + 1024)) }))

/-- Steps open and tasks are placed (R14, R15, R210, R252, R270, R393, R395, R397, R408, R410). A step opens for a running partition without one,
training from its STEP_BEGIN, serving from the items that wait. A die scheduler places the first ready task whose core lies on its die. The update
task of a FULL slice, waiting with its dependencies done or failed once before, goes to its queue; a barrel group whose entries are all HELD or
SPILLED has its consumer put in its queue, and its twin, counted, when one is ABSENT. -/
def Obligations.StepsOpenAndTasksPlace : Prop :=
  (∀ s : State, awake s.dev = true →
     (∀ (p : PartId) (b : Begin), (partOf s.dev p).running = true → (partOf s.dev p).step = none → (partOf s.dev p).held = false → fatal s.dev = false →
       (partOf s.dev p).serving = false → (partOf s.dev p).begin? = some b →
       Answers (.stepOpen ⟨p, false⟩) s (runAct (do
         openTraining p b
         builder p) s.dev)) ∧
     (∀ p : PartId, (partOf s.dev p).running = true → (partOf s.dev p).step = none → (partOf s.dev p).held = false → fatal s.dev = false →
       (partOf s.dev p).serving = true →
       Answers (.stepOpen ⟨p, false⟩) s (runAct (do
         openServing p
         builder p) s.dev)) ∧
     (∀ (die : DieId) (c : Cand) (w : Place),
       ((candidates s.dev).findSome? fun c => (whereTo s.dev c.p c.t).bind fun w => if dieOf w.core = die then some (c, w) else none) = some (c, w) →
       Answers (.taskPlacement ⟨die, false⟩) s (runAct (placeTask c.p c.t w) s.dev)) ∧
     (∀ p : PartId, Answers (.stepOpen ⟨p, true⟩) s (runAct (moduleError 3 p.val) s.dev)) ∧
     (∀ die : DieId, Answers (.taskPlacement ⟨die, true⟩) s (runAct (moduleError 3 die.val) s.dev))) ∧
  (∀ (s : State) (p : PartId), awake s.dev = true → (partOf s.dev p).step.isSome = true →
     (∀ (i : Nat) (x : Slice) (t : Task), (escOf s.dev p).slices[i]? = some x → taskOf s.dev p x.task = some t → x.st = .full →
       (t.st = .waiting ∨ t.st = .failed ∧ t.endst = none) → t.more = 0 → depsDone s.dev p t = true →
       Answers (.updateTaskPlacement p i) s (runAct (do
         updTask p t.tid fun y => { y with
           crit := drained s.dev p || blockBegun s.dev p t.due
           core := none
           image := none
           slice := some i }
         enlist p [t.tid]) s.dev)) ∧
     (∀ (g : Word) (cons : Nat) (t : Task), (barrelOf s.dev p).active = true → ((groupEnts s.dev p g.toNat).map (·.consumer)).dedup = [cons] →
       taskOf s.dev p cons = some t → t.st = .waiting → t.more = 0 → depsDone s.dev p t = true →
       ((barrelOf s.dev p).ents.all fun e => e.consumer != cons || e.st == .held || e.st == .spilled) = true →
       Answers (.barrelGroupPlacement p g) s (runAct (enlist p [cons]) s.dev)) ∧
     (∀ (g : Word) (cons : Nat) (e : Ent) (w : Task), (barrelOf s.dev p).active = true → groupEnts s.dev p g.toNat = [e] → e.consumer = cons →
       ((barrelOf s.dev p).ents.filter fun y => y.consumer == cons) = [e] → e.st = .absent → taskOf s.dev p cons = none →
       taskOf s.dev p e.twin = some w → w.st = .waiting → w.more = 0 → depsDone s.dev p w = true →
       Answers (.barrelGroupPlacement p g) s (runAct (do
         updTask p e.twin fun y => { y with crit := true }
         enlist p [e.twin]
         count .BARL_TWIN_COUNT p.val 1) s.dev)))

/-- A pending histogram bank is released (R49, R50, R141). The bank is free again and the step builder goes on; of a basic partition's normally
closed step, the revision of a valid governor entry writes its permitted bits, and a base is written into the record of its tag and bank. -/
def Obligations.HistogramBankReleases : Prop :=
  ∀ (s : State) (p : PartId) (bank : Fin 2) (b : Nat), awake s.dev = true → ((runOf s.dev p).banks.find? fun x => x % 2 == bank.val) = some b →
    let freed (d : Dev) : Dev := runAct (builder p) { d with runs := tabPut d.runs p { runOf d p with banks := (runOf d p).banks.erase b } }
    let gov := regOf s.dev .UPD_GOV_HI p.val * 2 ^ 32 + regOf s.dev .UPD_GOV_LO p.val
    let hist := tableVa s.dev p .UPD_HIST_LO .UPD_HIST_HI
    Answers (.histogramBankRelease p bank [] []) s (freed s.dev) ∧
    (b / 2 = 0 → (partOf s.dev p).expert = false →
      (∀ (i : Fin 1024) (v : Word) old d d', gov ≠ 0 → Runs (vaBytes (envOf s.dev p) p (gov + 4 * i.val) 4) s.dev (some old) d →
        bitOf (fieldAt old 0 4) 15 = true →
        Runs (vaWrite (envOf s.dev p) p { inner := true } (gov + 4 * i.val)
          (leBytes 4 (putBits (putBits (fieldAt old 0 4) 14 12 (bitsOf v.toNat 14 12)) 7 0 (bitsOf v.toNat 7 0))) []) d (.ok ()) d' →
        Answers (.histogramBankRelease p bank [(i, v)] []) s (freed d')) ∧
      (∀ (i : Fin 1024) (v : Byte) d', hist ≠ 0 →
        Runs (vaWrite (envOf s.dev p) p { inner := true } (hist + 384 * i.val + 192 * bank.val + 0x8C) (leBytes 1 v.toNat) []) s.dev (.ok ()) d' →
        Answers (.histogramBankRelease p bank [] [(i, v)]) s (freed d')))

/-- The barrel's aperture (R199, R200, R201, R202, R205, R207). A read that the entry's state allows answers its bytes; a write to an ABSENT entry
is accepted, discarded and counted; a write to a WPOOL entry stores its bytes and notes its segments; a spill write that is not answered loses the
spill target. -/
def Obligations.BarrelAccesses : Prop :=
  ∀ (s : State) (p : PartId), awake s.dev = true →
    (∀ (va n : Nat) (bs : List Byte), barrelRead s.dev p va n = .data bs →
      Answers (.barrelApertureRead p va n) s { s.dev with out := s.dev.out ++ [.pileData bs (apertureBad s.dev p va n)] }) ∧
    (∀ (va : Nat) (bs : List Byte) (i : Nat) (e : Ent) (close : Bool), entAt s.dev p va = some (i, e) → (barrelOf s.dev p).ents[i]? = some e →
      va + bs.length ≤ e.va + e.size → e.st = .absent →
      Answers (.barrelApertureWrite p va bs close) s (runAct (onlyIf close (closeEnt p i)) (counted s.dev .BARL_ABSENT_BYTES p.val bs.length))) ∧
    (∀ (va : Nat) (bs : List Byte) (i : Nat) (e : Ent) (close : Bool), entAt s.dev p va = some (i, e) → (barrelOf s.dev p).ents[i]? = some e →
      va + bs.length ≤ e.va + e.size → e.st = .wpool → bs ≠ [] → entLossy s.dev p e = false →
      let off := va - e.va
      Answers (.barrelApertureWrite p va bs close) s (runAct (do
        emit (.write (.barrel p i) off bs)
        clearBad (.barrel p i) off bs.length
        setEnt p i (e.wrote off bs.length none)
        each ((List.range ((off + bs.length - 1) / 2048 - off / 2048 + 1)).map (· + off / 2048)) (poolSegment p i)
        onlyIf close (closeEnt p i)) s.dev)) ∧
    (∀ (va : Nat) (bs : List Byte) (i : Nat) (e : Ent) (close : Bool), entAt s.dev p va = some (i, e) → (e.st = .held ∨ e.st = .spilled ∨ e.st = .freed) →
      Answers (.barrelApertureWrite p va bs close) s s.dev) ∧
    ((barrelOf s.dev p).active = true → (barrelOf s.dev p).spilling = true → (barrelOf s.dev p).lost = false →
      bitsOf (latched s.dev p .BARL_CTRL) 5 4 ≠ 0 → Answers (.spillWriteTimeout p) s (runAct (spillLost p) s.dev))

/-- The escapement goes on, and its timers (R262, R263, R264, R266, R267, R268, R269). When a partition is ready, the leader of a step that others
share makes the token with its class-5 unit and sends GATHER to position 1, the sole participant flips, and a follower that holds GATHER passes it
on. The step timer counts and abandons the step; the doubt timer asks the leader once; an unanswered query abandons the deputy's own step and makes
another ask the deputy; an unanswered resolve leaves the step in doubt. -/
def Obligations.EscapementReadyAndTimers : Prop :=
  (∀ (s : State) (p : PartId), awake s.dev = true → escReady s.dev p = true →
     let e := escOf s.dev p
     let d : Dev := { s.dev with escs := tabPut s.dev.escs p { e with token := true } }
     (e.self = 0 → e.token = false → Answers (.escapementReady ⟨p, false⟩) s (runAct (do
       grant 5 1
       gauge .ESC_TOKENS_OUT p.val (ctrOf s.dev .ESC_TOKENS_OUT p.val + 1)
       if e.table.length ≤ 1 then flip p else escSend p 1 msgGather 0 e.step 1) d)) ∧
     (∀ gen hops, e.self ≠ 0 → e.hold = some (gen, hops) → Answers (.escapementReady ⟨p, false⟩) s (runAct (passGather p gen hops) s.dev)) ∧
     Answers (.escapementReady ⟨p, true⟩) s (runAct (moduleError 3 p.val) s.dev)) ∧
  (∀ (s : State) (p : PartId), awake s.dev = true →
     let e := escOf s.dev p
     let d : Dev := { s.dev with regs := tabPut s.dev.regs ⟨.ESC_STATUS, p.val, 0⟩ (toWord (regOf s.dev .ESC_STATUS p.val ||| 0x40)) }
     ((partOf s.dev p).step.isSome = true → (partOf s.dev p).serving = false → (e.st = .running ∨ e.st = .releasing) →
       Answers (.stepTimerExpiry p) s (runAct (abandonStep p) (counted s.dev .ESC_TIMEOUTS p.val 1))) ∧
     (e.st = .passed → e.self ≠ 0 → e.asked = false →
       Answers (.doubtTimerExpiry p) s (runAct (escSend p 0 msgQuery 0 e.step 0)
         (counted { s.dev with escs := tabPut s.dev.escs p { e with asked := true } } .ESC_QUERIES p.val 1))) ∧
     (e.st = .passed → e.asked = true → e.resolv = false →
       (e.self = 1 → Answers (.queryTimeout p) s (runAct (abandonStep p) d)) ∧
       (e.self ≠ 1 → Answers (.queryTimeout p) s (runAct (escSend p 1 msgResolve 0 e.step 0)
         (counted { d with escs := tabPut d.escs p { e with resolv := true } } .ESC_QUERIES p.val 1)))) ∧
     (e.st = .passed → e.resolv = true →
       Answers (.resolveTimeout p) s (runAct (escTo p .inDoubt)
         { s.dev with regs := tabPut s.dev.regs ⟨.ESC_STATUS, p.val, 0⟩ (toWord (regOf s.dev .ESC_STATUS p.val ||| 0x80)) })))

/-- The escapement's messages (R261, R263, R265, R267). A message of one of the six types, of the partition's job and about its open step, leaves
its ring slot and the escapement answers it as its state says (`escCurrent`); a GATHER row's message of a wrong length leaves its slot and does
nothing else. -/
def Obligations.EscapementMessages : Prop :=
  ∀ (s : State) (p : PartId) (src : MsgSrc) (msg : List Byte) (e : Dev), awake s.dev = true → Runs (takeMsg p [3] src) s.dev (some msg) e →
    let act (t : Nat) : Act Unit := do
      dropMsg src
      escCurrent p t (fieldAt msg 1 1) (fieldAt msg 2 2) (fieldAt msg 0x10 8) (fieldAt msg 0x18 2)
    (msg.length = 64 → (partOf e p).running = true → fieldAt msg 4 4 = (partOf e p).job →
      (partOf e p).step.map (·.num) = some (fieldAt msg 8 8) →
      (fieldAt msg 0 1 = 1 → Answers (.gatherReceived p src) s (runAct (act 1) e)) ∧
      (fieldAt msg 0 1 = 2 → Answers (.releaseReceived p src) s (runAct (act 2) e)) ∧
      (fieldAt msg 0 1 = 3 → Answers (.abandonReceived p src) s (runAct (act 3) e)) ∧
      (fieldAt msg 0 1 = 4 → Answers (.queryReceived p src) s (runAct (act 4) e)) ∧
      (fieldAt msg 0 1 = 5 → Answers (.resolveReceived p src) s (runAct (act 5) e)) ∧
      (fieldAt msg 0 1 = 6 → Answers (.answerReceived p src) s (runAct (act 6) e))) ∧
    (msg.length ≠ 64 → fieldAt msg 0 1 = 1 → Answers (.gatherReceived p src) s (runAct (dropMsg src) e))

/-- The doorbells and the moderation timer of a function's rings (R423, R430, R431). A work doorbell within the ring moves its count, and one that
is not stops the ring with its error; a completion doorbell frees entries and the hold queue follows; the timer sends the ring's MSI-X message for
what is unsignalled. -/
def Obligations.RingDoorbells : Prop :=
  ∀ (s : State) (f : FnId) (r : RingId) (cnt : Word) (e : Dev), reaches s.dev f = true → Runs wakeFabric s.dev () e →
    let x := ringOf s.dev f r
    let size := 2 ^ bitsOf (regOf s.dev .HIF_WRING_CTRL f.val r.val) 4 0
    let far := 2 ^ 31 ≤ (cnt.toNat + 2 ^ 32 - x.bell) % 2 ^ 32 ∨ size < (cnt.toNat + 2 ^ 32 - x.fetched) % 2 ^ 32
    (bitOf (regOf s.dev .HIF_WRING_CTRL f.val r.val) 8 = true → x.stopped = false → ¬ far →
      Answers (.workDoorbell f r cnt) s (runAct (setRing f r { x with bell := cnt.toNat }) e)) ∧
    (bitOf (regOf s.dev .HIF_WRING_CTRL f.val r.val) 8 = true → x.stopped = false → far →
      Answers (.workDoorbell f r cnt) s (runAct (ringError f r cnt.toNat) e)) ∧
    (∀ e', Runs (setRing f r { x with consumed := cnt.toNat }) e () e' → (fnOf e' f).st = .active →
      Answers (.completionDoorbell f r cnt) s (runAct (drainHold ((fnOf e' f).hold.length + 1) f) e')) ∧
    (∀ e', (fnOf s.dev f).st = .active → x.unsig ≠ 0 → Runs (setRing f r { x with unsig := 0 }) s.dev () e' →
      Answers (.msixModerationTimer f r) s
        { e' with out := e'.out ++ [.msix f (bitsOf (regOf s.dev .HIF_CRING_CTRL f.val r.val) 13 8)] })

/-- Work descriptors (R408, R409, R423, R424, R425, R427). STEP_BEGIN is taken when no step is open or begun; in the open step, NOP leaves the ring
without effect, TASK enters a task, DEPS a task's dependencies, STEP_END ends the step's descriptors; of a serving partition, ITEM opens an item
with its tasks still to come. The step builder goes on after each. -/
def Obligations.Descriptors : Prop :=
  (∀ (s : State) (f : FnId) (r : RingId) (desc : List Byte) (p : PartId) (idx : Nat) (e : Dev), awake s.dev = true → (fnOf s.dev f).part = some p →
     canFetch s.dev p f r = true → (partOf s.dev p).skip = none → (partOf s.dev p).serving = false → desc.length = 64 →
     Runs (takeDesc f r) s.dev idx e →
     ((partOf s.dev p).step = none → (partOf s.dev p).begin? = none → fieldAt desc 0 1 = 1 →
       Answers (.stepBegin f r desc) s (runAct (do
         trainBegin p f r desc
         builder p) s.dev)) ∧
     (∀ st : StepRec, (partOf s.dev p).step = some st → st.fn = f → st.ring = r → st.ended = false → st.cut = false →
       (fieldAt desc 0 1 = 0 → pendingTask s.dev p 0 = none → Answers (.workNop f r desc) s (runAct (builder p) e)) ∧
       (fieldAt desc 0 1 = 2 → taskOk s.dev p 0 desc = true →
         Answers (.task f r desc) s (runAct (do
           enterTask p 0 f r desc
           builder p) e)) ∧
       (fieldAt desc 0 1 = 5 → depsOk s.dev p 0 desc = true →
         Answers (.deps f r desc) s (runAct (do
           enterDeps p 0 desc
           builder p) e)) ∧
       (fieldAt desc 0 1 = 3 → pendingTask s.dev p 0 = none → zeroBytes desc 1 4 = true → zeroBytes desc 0x10 0x40 = true →
         fieldAt desc 4 4 = (partOf s.dev p).job → fieldAt desc 8 8 = st.num →
         Answers (.stepEnd f r desc) s
           (runAct (builder p) { e with parts := tabPut e.parts p { partOf e p with step := some { st with ended := true } } })))) ∧
  (∀ (s : State) (f : FnId) (r : RingId) (desc : List Byte) (p : PartId) (idx : Nat) (e : Dev), awake s.dev = true → (fnOf s.dev f).part = some p →
     canFetch s.dev p f r = true → (partOf s.dev p).skip = none → (partOf s.dev p).serving = true → desc.length = 64 →
     Runs (takeDesc f r) s.dev idx e → openItem s.dev p = none → fieldAt desc 0 1 = 4 → itemOk s.dev p desc = true →
     let x := runOf e p
     Answers (.item f r desc) s (runAct (builder p) { e with runs := tabPut e.runs p { x with
       itemNum := x.itemNum + 1
       items := x.items ++ [⟨x.itemNum + 1, bitOf (fieldAt desc 1 1) 0, fieldAt desc 8 8, fieldAt desc 0x10 4, fieldAt desc 0x14 4, fieldAt desc 2 2, false, f, r⟩] } }))

/-- Admin commands of functions, partitions and the module (R8, R402, R434, R435, R444, R467, R578, R601). FEATURES activates what is asked and
offered; BIND and UNBIND tie a function to a partition and free it; MODULE_RESET posts the reset notice, and with set_hot_full writes
HIF_RESET_CTRL. PARTITION_CREATE with a block in order, allowed and nothing taken makes a free number a living partition with its registers, ways,
tables and cores, binds its functions and answers its number; PARTITION_DESTROY destroys it. -/
def Obligations.AdminFunctionsAndPartitions : Prop :=
  (∀ (s : State) (f : FnId) (e b : List Byte) (d : Dev), AdminTurn s.dev f [] e b d →
     (cmdOp e = 1 → fieldAt b 0 32 % 65536 = 65535 → ((fnOf d f).part.all fun q => !(partOf d q).running) = true →
       Answers (.features f) s (runAct (adminAnswer f e 0 (bundleVersion d.fw.running))
         { d with fns := tabPut d.fns f { fnOf d f with feat := fieldAt b 0 32 &&& (offered d ||| 0xFFFF) } })) ∧
     (let p : PartId := Fin.ofNat 16 (cmdPart e)
      let g : FnId := Fin.ofNat 16 (fieldAt b 0 1)
      cmdOp e = 4 → fieldAt b 0 1 ≤ 15 → (partOf d p).step = none →
       (fieldAt (cmdParams e) 1 1 = 0 → fieldAt b 1 1 = 0 → (fnOf d g).part = none →
         Answers (.bind f) s (runAct (adminAnswer f e 0 0) { d with fns := tabPut d.fns g { fnOf d g with part := some p } })) ∧
       (fieldAt (cmdParams e) 1 1 = 1 → (fnOf d g).part = some p →
         Answers (.unbind f) s (runAct (do
           unbindFn g
           adminAnswer f e 0 0) d))) ∧
     (cmdOp e = 0x18 → fieldAt (cmdParams e) 0 1 = 0 → fieldAt b 0 1 = 0 →
       Answers (.moduleResetFull f) s (runAct (do
         onlyIf d.fw.notice.isNone (resetNotice 1)
         adminAnswer f e 0 0) d)) ∧
     (cmdOp e = 0x18 → fieldAt (cmdParams e) 0 1 = 1 → fieldAt b 1 1 ≤ 1 →
       Answers (.moduleResetSetHotFull f) s (runAct (adminAnswer f e 0 0)
         { d with regs := tabPut d.regs ⟨.HIF_RESET_CTRL, 0, 0⟩ (toWord (fieldAt b 1 1)) }))) ∧
  (∀ (s : State) (f : FnId) (host e b : List Byte) (d : Dev),
     (AdminTurn s.dev f host e b d → cmdOp e = 2 → createOk b = true → createAllowed d f b = true → createTaken d b = none → pilesPending d b = false →
       ∀ p d1 d2 d3, Runs (pick (fun q => !(partOf d q).alive) allParts) d (some p) d1 →
         Runs (do
           emit (.part p (createPart d b))
           endUnlockOf p
           createRegs p b
           setWays (some p)
           createRoot p) d1 () d2 → Runs (createT2 p b) d2 0 d3 →
         Answers (.partitionCreate f host) s (runAct (do
           setMask p (b.drop 0x10)
           onlyIf (fieldAt b 0 1 != 1) do
             let n ← draw
             let d ← look
             each (allCores.filter (inMask d p)) (loadCompiled n)
           each (createFns b) fun g => do
             let d ← look
             emit (.fn g { fnOf d g with part := some p })
           adminAnswer f e 0 p.val) d3)) ∧
     (AdminTurn s.dev f [] e b d → cmdOp e = 3 →
       Answers (.partitionDestroy f) s (runAct (do
         destroyPart (Fin.ofNat 16 (cmdPart e)) (some f)
         adminAnswer f e 0 0) d)))

/-- Admin commands of a job, its scheduling and its quotas (R272, R399, R401, R402, R405, R413, R435, R439, R440). JOB_START with sizes and times in
range makes the job its function's and answers its identifier; JOB_END ends it; SCHED_SET writes the fields it names; SUSPEND pre-empts every task
and RESUME lets them go on; GEN_ALIGN answers the alignment's status; ORPHAN_SET writes the policy; REATTACH brings an orphaned partition back.
QUOTA writes the slot, pile and link limits that the module's totals allow, and with code 6 the core mask. -/
def Obligations.AdminJobCommands : Prop :=
  (∀ (s : State) (f : FnId) (e b : List Byte) (d : Dev), AdminTurn s.dev f [] e b d →
     let p : PartId := Fin.ofNat 16 (cmdPart e)
     let y := partOf d p
     (let cores := if y.arena = 0 then [] else maskCores d p
      ∀ id d1, cmdOp e = 5 → y.running = false → fieldAt b 0 4 % 2048 = 0 → 2048 ≤ fieldAt b 0 4 →
       fieldAt b 0 4 ≤ 65536 → fieldAt b 4 2 ≠ 0 → fieldAt b 4 2 ≤ 4095 → fieldAt b 6 2 ≠ 0 →
       (if y.serving then bitsOf (fieldAt b 8 4) 31 24 ≠ 0 else fieldAt b 8 4 = 0 ∧ fieldAt b 12 4 = 0) →
       (cores.all fun c => !(basesFor d c y.arena false).isEmpty && !(basesFor d c y.arena true).isEmpty) = true → Runs draw d id d1 →
       Answers (.jobStart f) s (runAct (do
         setField .ESC_CTRL p.val 0 31 4 (fieldAt b 4 2 * 2 ^ 16 + fieldAt b 6 2)
         onlyIf y.serving do
           setReg .SCHED_SERVE p.val 0 (fieldAt b 8 4)
           setReg .SCHED_SERVE_BASE p.val 0 (fieldAt b 12 4)
         grantArenas p y.arena cores
         updPart p fun y => { y with
           running := true
           job := id % 2 ^ 32
           chunk := fieldAt b 0 4
           jobFn := f
           gone := false }
         onlyIf (!y.expert) (openAreas p)
         adminAnswer f e 0 (id % 2 ^ 32)) d1)) ∧
     (cmdOp e = 6 → y.running = true → Answers (.jobEnd f) s (runAct (do
       endJob p (some f) false
       adminAnswer f e 0 0) d)) ∧
     (cmdOp e = 0x11 → fieldAt b 0 1 ≤ 3 → fieldAt b 1 1 ≤ 3 → fieldAt b 2 1 ≤ 7 → Answers (.schedSet f) s (runAct (do
       onlyIf (bitOf (fieldAt b 0 1) 0) (setField .SCHED_PART_CTRL p.val 0 5 4 (fieldAt b 1 1))
       onlyIf (bitOf (fieldAt b 0 1) 1) (setField .SCHED_PART_CTRL p.val 0 10 8 (fieldAt b 2 1))
       adminAnswer f e 0 0) d)) ∧
     (let d' : Dev := { d with parts := tabPut d.parts p { y with susp := true } }
      cmdOp e = 0x12 → Answers (.suspend f) s (runAct (do
         each ((slotsInUse d').filter fun x => x.2.part == p) fun x => preemptSlot x.1.1 x.1.2 .command
         adminAnswer f e 0 0) d')) ∧
     (cmdOp e = 0x13 → Answers (.resume f) s (runAct (adminAnswer f e 0 0) { d with parts := tabPut d.parts p { y with susp := false } })) ∧
     (∀ st d1, cmdOp e = 0x14 → Runs (alignEsc p (fieldAt b 0 8)) d st d1 → Answers (.genAlign f) s (runAct (adminAnswer f e st 0) d1)) ∧
     (cmdOp e = 0x15 → fieldAt b 0 1 ≤ 1 → fieldAt b 2 2 ≠ 0 → fieldAt b 2 2 ≤ 3600 → (fieldAt b 4 2 = 0 ∨ 100 ≤ fieldAt b 4 2 ∧ fieldAt b 4 2 ≤ 60000) →
       Answers (.orphanSet f) s (runAct (do
         setReg .HIF_ORPHAN p.val 0 (fieldAt b 0 1 * 4096 + fieldAt b 2 2)
         onlyIf (fieldAt b 4 2 != 0) (setReg .HIF_LIVE_CTRL f.val 0 (fieldAt b 4 2))
         adminAnswer f e 0 0) d)) ∧
     (cmdOp e = 0x16 → y.gone = false → (fnOf d f).part = some p → (y.held = true ∨ (fnOf d f).st = .orphaned) →
       Answers (.reattach f) s (runAct (do
         reattach f p
         adminAnswer f e 0 0) d))) ∧
  (∀ (s : State) (f : FnId) (host e b : List Byte) (d : Dev), AdminTurn s.dev f host e b d → cmdOp e = 0x10 →
     let p : PartId := Fin.ofNat 16 (cmdPart e)
     let low (n : RegName) : Nat := bitsOf (regOf d n p.val) 15 0
     let v := fieldAt b 8 8
     let set (n : RegName) : Act Unit := do
       setReg n p.val 0 v
       adminAnswer f e 0 0
     (b.length = 56 →
       (fieldAt b 0 1 = 0 → v ≤ 6400 → v ≤ (partOf d p).ctx.length → quotasFit d p v (low .SCHED_QUOTA_CHAN) (regOf d .SCHED_QUOTA_PILE p.val) = true →
         Answers (.quota f host) s (runAct (set .SCHED_QUOTA_SLOTS) d)) ∧
       (fieldAt b 0 1 = 1 → v < 2 ^ 32 → quotasFit d p (low .SCHED_QUOTA_SLOTS) (low .SCHED_QUOTA_CHAN) v = true →
         Answers (.quota f host) s (runAct (set .SCHED_QUOTA_PILE) d)) ∧
       (fieldAt b 0 1 = 3 → v ≤ 65535 → quotasFit d p (low .SCHED_QUOTA_SLOTS) v (regOf d .SCHED_QUOTA_PILE p.val) = true →
         Answers (.quota f host) s (runAct (set .SCHED_QUOTA_CHAN) d)) ∧
       (quotasFit d p (low .SCHED_QUOTA_SLOTS) (low .SCHED_QUOTA_CHAN) (regOf d .SCHED_QUOTA_PILE p.val) = true →
         (fieldAt b 0 1 = 2 → v < 2 ^ 32 → Answers (.quota f host) s (runAct (set .SCHED_QUOTA_BARL) d)) ∧
         (fieldAt b 0 1 = 4 → v ≤ 65535 → Answers (.quota f host) s (runAct (set .SCHED_QUOTA_LINK) d)) ∧
         (fieldAt b 0 1 = 5 → v ≤ 65535 → Answers (.quota f host) s (runAct (do
           setPower p v
           adminAnswer f e 0 0) d)))) ∧
     (b.length = 116 → fieldAt b 0 1 = 6 → fieldsOnly b [(0, 1), (16, 100)] = true →
       quotasFit d p (low .SCHED_QUOTA_SLOTS) (low .SCHED_QUOTA_CHAN) (regOf d .SCHED_QUOTA_PILE p.val) = true →
       Answers (.quota f host) s (runAct (do
         setMask p (b.drop 16)
         adminAnswer f e 0 0) d)))

/-- Admin commands of memory and windows (R105, R108, R109, R284, R311, R435). ALLOC at an address that is free grants it and answers it; FREE of an
allocation that no ring uses returns it; INVALIDATE of whole 64 KiB answers; WINDOW_GRANT answers a fresh window's identifier; WINDOW_RELEASE lets a
window go; EVICT and RESTORE start, and answer when they complete. -/
def Obligations.AdminMemoryCommands : Prop :=
  ∀ (s : State) (f : FnId) (e b : List Byte) (d : Dev), AdminTurn s.dev f [] e b d →
    let p : PartId := Fin.ofNat 16 (cmdPart e)
    (let hint := fieldAt b 0 4
     let bytes := fieldAt b 8 8
     let want := fieldAt b 0x10 8
     let target := fieldAt b 4 2
     let tier := hintTier hint
     cmdOp e = 7 → hintOk hint = true → bytes ≠ 0 → bytes % hintPage hint = 0 → want % hintPage hint = 0 → want + bytes ≤ 2 ^ 48 → allocWaits d p hint = false →
      (tier = 1 → hintComp hint = false → target = 0 → want ≠ 0 → vaFree d p want bytes = true → Answers (.alloc f) s (runAct (do
        let st ← grantAlloc p want bytes hint 0 0 0
        adminAnswer f e st (if st = 0 then want else 0)) d)) ∧
      (∀ r d1 va d2 off d3 d4 d5, target ≤ 4095 → (tier = 1 → target = 0) → (tier = 3 → hasFeat d f 22 = true) →
        Runs (if tier = 1 then pure none else liveRecord p target) d r d1 → (tier ≠ 1 → (r.map (recordFits d1 p tier)).getD false = true) →
        (want ≠ 0 → vaFree d1 p want bytes = true) →
        Runs (if want = 0 then chooseVa p bytes (hintPage hint) else pure (some want)) d1 (some va) d2 →
        Runs (if tier = 1 then pure (some 0) else chooseOff p target bytes hint) d2 (some off) d3 →
        let pools := ((partOf d1 p).allocs.flatMap fun (a : Alloc) => a.pool).length + poolFrames (bitsOf hint 23 20) (bytes / hintPage hint) + 8
        Runs (if hintComp hint then fwPages p 2 0 (min 8 (ceilDiv (8 * pools) 65536)) else pure 0) d3 0 d4 →
        Runs (grantAlloc p va bytes hint target off 0) d4 0 d5 →
        Answers (.alloc f) s (runAct (do
          onlyIf (hintComp hint) (writePoolList p)
          adminAnswer f e 0 va) d5))) ∧
    (∀ a : Alloc, cmdOp e = 8 → ((partOf d p).allocs.find? fun (a : Alloc) => a.owner == 0 && a.va == fieldAt b 0 8 && a.bytes != 0) = some a →
      (d.chans.all fun ic => !(ic.2.part == p && ic.2.st != .free && meets ic.2.ring ic.2.ringBytes a.va a.bytes)) = true →
      Answers (.free f) s (runAct (do
        freeAlloc p a
        adminAnswer f e 0 0) d)) ∧
    (cmdOp e = 9 → fieldAt b 0 8 % 65536 = 0 → fieldAt b 8 8 % 65536 = 0 → rangeFlying d p (fieldAt b 0 8) (fieldAt b 8 8) = false →
      Answers (.invalidate f) s (runAct (adminAnswer f e 0 0) d)) ∧
    (let n := fieldAt b 2 1
     let cores := coreList d p (fieldAt b 0 2)
     let bases := baseList (fieldAt b 3 1)
     cmdOp e = 0xA → n ≠ 0 → n ≤ 64 → (fieldAt b 3 1 ≤ 63 ∨ fieldAt b 3 1 = 0xFF) → (partOf d p).running = true → cores.any (coreFits d n bases false) = true →
      ∃ c ∈ cores, ∃ at_ ∈ bases, ∃ id, slotsFit d c at_ n false = true ∧ (∀ w ∈ d.wins, w.id ≠ id) ∧
        Answers (.windowGrant f) s (runAct (do
          grant 3 n
          wakeCore c
          adminAnswer f e 0 id) { d with
            freeAt := d.freeAt + 3
            wins := d.wins ++ [⟨id, p, c, at_, n, false, .granted, 0, false, 0, 0, none, []⟩] })) ∧
    (∀ w : Window, windowBy d p (fieldAt b 0 4) = some w →
      (cmdOp e = 0xB → Answers (.windowRelease f) s (runAct (do
        winProgress
        adminAnswer f e 0 0) { d with wins := d.wins.map fun x => if x = w then { x with release := true } else x })) ∧
      (cmdOp e = 0xC → w.st = .granted → ((partOf d p).step.isSome && holdsAccumulator d p w) = false →
        areaOk d p (fieldAt b 8 8) (w.size * 65536 + w.size * 4096) = true →
        Answers (.evict f) s (runAct (do
          startEvict w (fieldAt b 8 8) (some (f, cmdTag e))
          adminTaken f) d)) ∧
      (let cores := coreList d p (fieldAt b 4 2)
       let bases := baseList (fieldAt b 6 1)
       cmdOp e = 0xD → (fieldAt b 6 1 ≤ 63 ∨ fieldAt b 6 1 = 0xFF) →
        ((partOf d p).expert = true ∨ fieldAt b 4 2 = 0xFFFF ∧ fieldAt b 6 1 = 0xFF) → w.st = .evicted →
        (cores.any fun c => streamsMove d w c && coreFits d w.size bases false c) = true →
        ∃ c ∈ cores, ∃ at_ ∈ bases, streamsMove d w c = true ∧ slotsFit d c at_ w.size false = true ∧
          Answers (.restore f) s (runAct (do
            grant 3 w.size
            wakeCore c
            adminTaken f) { d with
              freeAt := d.freeAt + 2
              wins := d.wins.map fun x => if x = w then { x with
                st := .restoring
                newCore := c
                newBase := at_
                who := some (f, cmdTag e) } else x })))

/-- CHANNEL_CREATE, CHANNEL_DESTROY and FW_LOAD (R348, R349, R351, R435, R465). CHANNEL_CREATE answers the handle of the end that LNK makes;
CHANNEL_DESTROY destroys the partition's end; FW_LOAD reads a bundle and starts its load, and is answered when the load ends. -/
def Obligations.AdminChannelAndLoadCommands : Prop :=
  ∀ (s : State) (f : FnId) (e b : List Byte) (d : Dev), AdminTurn s.dev f [] e b d →
    let p : PartId := Fin.ofNat 16 (cmdPart e)
    (∀ h d1, cmdOp e = 0xE → procRuns d procLNK = true → (bitOf (fieldAt b 12 1) 0 = true → hasFeat d f 22 = true) →
      Runs (createChan p ⟨fieldAt b 0 2, fieldAt b 4 4, fieldAt b 2 1, fieldAt b 3 1, fieldAt b 8 1, fieldAt b 9 1, fieldAt b 10 2, fieldAt b 0x10 8,
        fieldAt b 12 1, fieldAt b 0x18 4⟩) d (.ok h) d1 → Answers (.channelCreate f) s (runAct (adminAnswer f e 0 h) d1)) ∧
    (∀ i c, cmdOp e = 0xF → procRuns d procLNK = true → chanBy d (fieldAt b 0 4) = some (i, c) → c.part = p →
      Answers (.channelDestroy f) s (runAct (do
        destroyChan i
        adminAnswer f e 0 0) d)) ∧
    (∀ bundle dma d1, cmdOp e = 0x17 → procRuns d procSEC = true → ((d.fw.load.map fun l => !l.told).getD false) = false →
      Runs (startLoad f (cmdTag e) ((padTo (fieldAt b 8 4) 0#8 bundle).take (fieldAt b 8 4)) dma (bitOf (fieldAt b 12 4) 0))
        { d with out := d.out ++ [.hostRead f (fieldAt b 0 8) (fieldAt b 8 4)] } none d1 →
      Answers (.fwLoad f bundle dma) s (runAct (adminTaken f) d1))

/-- Eviction, restore and scrub complete (R108, R109, R110, R111). An eviction completes when its tasks are out and nothing is in flight for it: the
image is stored and the window is scrubbed and told; a restore completes in its new place with the image read back, its streams moved; a scrub
completes with its sections of scratchpad and chuck zero and their class-3 units returned. -/
def Obligations.WindowCompletions : Prop :=
  ∀ s : State, awake s.dev = true →
    (∀ (id : Word) (w : Window) (d : Dev), (s.dev.wins.find? fun w => w.id == id.toNat && !w.arena && w.st == .evicting) = some w →
      (windowTasks s.dev w).all (fun t => t.core.isNone) = true → windowFlying s.dev w.core (w.base * 65536) (w.size * 65536) = false → windowSends s.dev w = false →
      Runs (vaWrite (envOf s.dev w.part) w.part {} w.area (windowImage s.dev w).1 (windowImage s.dev w).2) s.dev (.ok ()) d →
      Answers (.evictionComplete id) s (runAct (do
        let xs ← takeStreams w.core (w.base * 65536) (w.size * 65536)
        updWins fun ws => ws.map fun x => if x = w then { x with
          st := .evicted
          strms := xs
          who := none } else x
        startScrub w.core w.base w.size
        tellWindow w 0) d)) ∧
    (∀ (id : Word) (w : Window) (d : Dev) (bs : List Byte) (bad : List Nat),
      (s.dev.wins.find? fun w => w.id == id.toNat && !w.arena && w.st == .restoring) = some w → domOf s.dev (w.newCore.val / 25) = .on → streamsMove s.dev w w.newCore = true →
      Runs (vaRead (envOf s.dev w.part) w.part {} w.area (w.size * 65536 + w.size * 4096)) s.dev (.ok (bs, bad)) d →
      Answers (.restoreComplete id) s (runAct (do
        putImage (.spad w.newCore) (w.newBase * 65536) (bs.take (w.size * 65536)) (bad.filter fun i => decide (i < w.size * 65536 / 8))
        putImage (.chuck w.newCore) (w.newBase * 4096) (bs.drop (w.size * 65536))
          ((bad.filter fun i => decide (w.size * 65536 / 8 ≤ i)).map (· - w.size * 65536 / 8))
        putStreams w.newCore (w.base * 65536) (w.newBase * 65536) w.strms
        moveTasks w
        updWins fun ws => ws.map fun x => if x = w then { x with
          st := .granted
          core := w.newCore
          base := w.newBase
          strms := []
          who := none } else x
        tellWindow w 0) d)) ∧
    (∀ (c : CoreId) (first n waits : Nat), ((List.range n).all fun i => inScrub s.dev c (first + i)) = true → domOf s.dev (c.val / 25) = .on →
      let mine (x : Nat) : Bool := decide (first ≤ x) && decide (x < first + n)
      let ss := tabGet s.dev.scrubs c []
      Answers (.scrubComplete c first ⟨n, waits⟩) s (runAct (do
        count .CORE_FREEZE_BANK c.val waits
        emit (.zero (.spad c) (first * 65536) (n * 65536))
        clearBad (.spad c) (first * 65536) (n * 65536)
        emit (.zero (.chuck c) (first * 4096) (n * 4096))
        clearBad (.chuck c) (first * 4096) (n * 4096)
        onlyIf ((dbgOf s.dev c.val).marks.any fun m => decide (first * 8192 ≤ m.1) && decide (m.1 < (first + n) * 8192))
          (updDbg c.val fun x => { x with marks := x.marks.filter fun m => !(decide (first * 8192 ≤ m.1) && decide (m.1 < (first + n) * 8192)) })
        emit (.scrubs c (ss.filter fun x => !mine x))
        giveBack 3 (ss.filter mine).length) s.dev))

/-- A host's data window (R432, R433, R501). A read of the function's admin area or of its partition's memory answers the bytes that stand there;
where no memory answers it is all ones and counts as a violation; a write is stored in the admin area or in the memory. -/
def Obligations.DataWindowAccesses : Prop :=
  ∀ (s : State) (f : FnId) (d : Dev), reaches s.dev f = true → Runs wakeFabric s.dev () d →
    (∀ off n, off < 0x100000 → Answers (.dataWindowRead f off n) s
      { d with out := d.out ++ [.dataRead f (bytesOf s.dev (.admin f) off n) (!(badIn s.dev (.admin f) off n).isEmpty)] }) ∧
    (∀ off n p va bs bad d1, 0x100000 ≤ off → windowVa s.dev f off n = some (p, va) → Runs (vaRead (envOf s.dev p) p {} va n) d (.ok (bs, bad)) d1 →
      Answers (.dataWindowRead f off n) s { d1 with out := d1.out ++ [.dataRead f bs (!bad.isEmpty)] }) ∧
    (∀ off n, 0x100000 ≤ off → windowVa s.dev f off n = none → Answers (.dataWindowRead f off n) s (runAct (do
      violation f
      emit (.out (.dataRead f (List.replicate n 0xFF#8) false))) d)) ∧
    (∀ off bs poisoned, off + bs.length ≤ 0x4000 → bs ≠ [] → Answers (.dataWindowWrite f off bs poisoned) s (runAct (adminStore f 0 0x4000 off bs poisoned) d)) ∧
    (∀ off bs p va d1, 0x100000 ≤ off → windowVa s.dev f off bs.length = some (p, va) → Runs (vaWrite (envOf s.dev p) p {} va bs []) d (.ok ()) d1 →
      Answers (.dataWindowWrite f off bs false) s d1)

/-- Register writes of a host (R3, R118, R423, R509, R147). A write that decodes, to a register that stands, does what the register's write does
(`regWrite`); the clear of a block's counters is a write with bit 1 set; enabling a work ring writes HIF_WRING_CTRL and starts the ring empty;
TOP_AUDIT_CTRL.snap copies the audit counters; VEC_FTAB_LOAD.go starts the load of a function table. -/
def Obligations.RegisterAccesses : Prop :=
  ∀ (s : State) (f : FnId) (d : Dev), reaches s.dev f = true → Runs wakeFabric s.dev () d →
    (∀ (off : Nat) (v : Word) (row : RegRow) (unit idx : Nat), off % 4 = 0 → writeDecodes s.dev f off = true → barAt s.dev f off = .reg row unit idx →
      (row.blk.inPart = true → (partOf s.dev (Fin.ofNat 16 unit)).alive = true) → writeStands s.dev f row unit idx = true →
      Answers (.registerWrite f off 4 v) s (runAct (regWrite f row unit idx v.toNat) d)) ∧
    (∀ (off : Nat) (row : RegRow) (unit idx : Nat), off % 4 = 0 → writeDecodes s.dev f off = true → barAt s.dev f off = .reg row unit idx →
      (row.blk.inPart = true → (partOf s.dev (Fin.ofNat 16 unit)).alive = true) → writeStands s.dev f row unit idx = true →
      (ctrMap.any fun r => r.ctl == some row.name) = true → 
      Answers (.counterClear f off) s (runAct (regWrite f row unit idx (regOf s.dev row.name unit idx ||| 2)) d)) ∧
    (∀ (r : RingId) (v : Word), writeDecodes s.dev f (0x3000110 + 0x40 * r.val) = true →
      Answers (.workRingEnable f r v) s (runAct (do
        setReg .HIF_WRING_CTRL f.val r.val
          ((((regOf d .HIF_WRING_CTRL f.val r.val &&& 0xFFFFFEE0) ||| (v.toNat &&& 0x11F)) &&& (0xFFFFFFFF - (v.toNat &&& 0x200))))
        ringEnabled f r (regOf d .HIF_WRING_CTRL f.val r.val)) d)) ∧
    (isPf f = true → hasFeat s.dev f 16 = true →
      (∀ bad : List Nat, Answers (.topAuditSnap ⟨f, bad⟩) s (runAct (do
        emit .auditSnap
        orReg .TOP_AUDIT_STATUS 0 0 0x10000
        each (bad.filter (· ≤ 10)) auditBad) d)) ∧
      ∀ (c : CoreId) (v : Word), bitOf v.toNat 31 = true →
        Answers (.functionTableLoad f c v) s (runAct (ftabGo c v.toNat (bitsOf (regOf d .CORE_PART_SEL c.val) 3 0)) d))

/-- Liveness, orphans, FLR and port resets (R438, R439, R441, R443, R444, R558). A liveness word that has not changed over three samples orphans the
function; an orphaned partition's hold ends by its policy; FLR and the disabling of a function reset it; a hot reset and PERST of a port reset its
functions, a hot reset with hot_full posts the reset notice; the loss of a port's link orphans its functions; the release of PERST brings the port
up. -/
def Obligations.FunctionResets : Prop :=
  ∀ s : State, awake s.dev = true →
    (∀ f : FnId, procRuns s.dev procHIF = true → (fnOf s.dev f).st = .active → (fnOf s.dev f).part.isSome = true →
      let x := fnOf s.dev f
      let w := leNat (bytesOf s.dev (.admin f) 0x5000 4)
      let put (n : Nat) : Dev := { s.dev with fns := tabPut s.dev.fns f { x with live := some w, same := n } }
      (x.live ≠ some w → Answers (.livenessSample f) s (put 0)) ∧
      (x.live = some w → x.same = 0 → Answers (.livenessSample f) s (put 1)) ∧
      (x.live = some w → 1 ≤ x.same → Answers (.livenessSample f) s (runAct (orphanFn f) (put (x.same + 1))))) ∧
    (∀ p : PartId, procRuns s.dev procHIF = true → (partOf s.dev p).held = true → Answers (.orphanHoldExpiry p) s (runAct (endPolicy p) s.dev)) ∧
    (∀ f : FnId, Answers (.flr f) s (runAct (resetFn f .active) s.dev) ∧ Answers (.functionDisable f) s (runAct (resetFn f .disabled) s.dev)) ∧
    (∀ port : HostPort, strapped s.dev port = true → Answers (.pcieHotReset port) s s.dev ∧ Answers (.pcieLinkDown port) s s.dev ∧ Answers (.perstAssert port) s s.dev) ∧
    (∀ port : HostPort, strapped s.dev port = false →
      (bitOf (regOf s.dev .HIF_RESET_CTRL 0) 0 = false → Answers (.pcieHotReset port) s (runAct (each (portFns port) fun f => resetFn f .active) s.dev)) ∧
      (bitOf (regOf s.dev .HIF_RESET_CTRL 0) 0 = true → s.dev.fw.notice = none → procRuns s.dev procHIF = true →
        Answers (.pcieHotReset port) s (runAct (resetNotice 2) s.dev)) ∧
      Answers (.pcieLinkDown port) s (runAct (each (portFns port) orphanFn) s.dev) ∧
      (s.dev.pins.perst.contains port = true → Answers (.perstAssert port) s s.dev) ∧
      (s.dev.pins.perst.contains port = false → Answers (.perstRelease port) s s.dev) ∧
      (s.dev.pins.perst.contains port = false → Answers (.perstAssert port) s (runAct (do
        if bitOf (regOf s.dev .HIF_RESET_CTRL 0) 0 then askReset 2 else each (portFns port) fun f => resetFn f .active
        updPins fun x => { x with ports := tabPut x.ports port .reset })
        { s.dev with pins := { s.dev.pins with perst := s.dev.pins.perst ++ [port] } })) ∧
      (s.dev.pins.perst.contains port = true → Answers (.perstRelease port) s { s.dev with pins := { s.dev.pins with
        perst := s.dev.pins.perst.filter (· != port)
        ports := tabPut s.dev.pins.ports port .up } }))

/-- Resets of the whole module (R444, R513, R514, R517, R565, R574). The end of the notice's time, a full reset, the reset input held low for at
least 2,500 AON ticks with no notice pending and the automatic reset reset the module; a shorter low, or one while a notice is pending, does
nothing; TOP_RESET_CAUSE keeps 5 after a trip and else the cause. -/
def Obligations.ModuleResets : Prop :=
  ∀ s : State,
    (∀ cause, s.dev.fw.notice = some cause → resettable s.dev = true →
      Answers .resetNoticeExpiry s (runAct (fullResetNow cause) s.dev) ∧
      Answers .fullReset s (runAct (fullResetNow cause) (runAct (do
        let _ ← draw) s.dev))) ∧
    (∀ low, 2500 ≤ low → resettable s.dev = true → s.dev.fw.notice = none → Answers (.resetInput low) s (runAct (fullResetNow 3) s.dev)) ∧
    (∀ low cause, s.dev.fw.notice = some cause → Answers (.resetInput low) s s.dev) ∧
    (∀ low, low < 2500 → Answers (.resetInput low) s s.dev) ∧
    (awake s.dev = true → autoResets s.dev = true → Answers .autoResetTimer s (runAct (fullResetNow 4) s.dev)) ∧
    (∀ cause, cause < 2 ^ 32 → regOf (runAct (fullResetNow cause) s.dev) .TOP_RESET_CAUSE 0 = if s.dev.pwr.trip then 5 else cause)

/-- A core is retired (R13, R507). Its tasks are aborted with status 0x19, its windows end, it joins the retirement map, it leaves every partition's
mask, the physical functions are told, and the steps that had tasks there are abandoned. -/
def Obligations.CoreRetires : Prop :=
  ∀ (s : State) (c : CoreId) (d : Dev), awake s.dev = true → procRuns s.dev procSUP = true → s.dev.retired.contains c.val = false →
    let hit := allParts.filter fun p => (partOf s.dev p).alive && !(coreTasks s.dev c p).isEmpty
    Runs (each hit fun p => abortTasks p 0x19 fun t => ((coreTasks s.dev c p).map (·.tid)).contains t.tid) s.dev () d →
    Answers (.coreRetirement c) s (runAct (do
      each (d.wins.filter fun w => w.core == c) fun w => tellWindow w 6
      updWins fun ws => ws.map fun w => if w.core = c ∧ w.st ≠ .evicted then w.ended else w
      winProgress
      emit (.retire c)
      each allParts fun p => onlyIf (bitOf (regOf d .SCHED_CORE_MASK p.val (c.val / 32)) (c.val % 32))
        (setField .SCHED_CORE_MASK p.val (c.val / 32) (c.val % 32) (c.val % 32) 0)
      each pfs fun f => notice f 4 c.val
      each hit abandonStep) d)

/-- Link training (R329, R330). LNK starts an enabled link that is down or failed, and at the retry one that failed; a step over its bound fails the
link and counts; training ends UP or NARROW when enough lanes pass, the widths agree and the round trip is at most 4,096 ns, and else the link fails
and counts. At the basic level LNK first writes the class and credit registers. -/
def Obligations.LinkTrainings : Prop :=
  ∀ (s : State) (l : LinkId), awake s.dev = true →
    let x := linkOf s.dev l
    let put (y : Link) : Dev := { s.dev with links := tabPut s.dev.links l y }
    (∀ ls, procRuns s.dev procLNK = true → domOf s.dev (40 + l.val / 16) = .on → linkLanes s.dev l = some ls →
      bitOf (regOf s.dev .TYL_ENG_CTRL (l.val / 4)) 5 = true →
      let begun : Dev := runAct (do
        onlyIf (linksBasic s.dev) do
          setReg .TYL_LINK_CLS l.val 0 0x8422
          setReg .TYL_LINK_CRD l.val 0 (if ls.length = 32 then 0x40201010 else if ls.length = 16 then 0x20100808 else 0x10080404)
        emit (.fw { s.dev.fw with tylId := some (bitsOf (regOf s.dev .TYL_ID 0) 11 0) })
        setLink l { Link.empty with st := .training, lanes := ls.length }) s.dev
      (x.st = .down ∨ x.st = .failed → Answers (.linkTraining l) s begun) ∧ (x.st = .failed → Answers (.linkTrainingRetry l) s begun)) ∧
    (x.st = .training → Answers (.linkTrainingOverrun l) s (counted (put { x with st := .failed }) .TYL_LINK_FAILS l.val 1)) ∧
    (∀ r : TrainResult, x.st = .training → procRuns s.dev procLNK = true →
      let mask := r.lanesOk.toNat &&& laneMask (x.trained l)
      (popcount mask < minLanes s.dev l ∨ r.peerWidth ≠ x.lanes ∨ 4096 < r.rttNs →
        Answers (.linkTrainingDone l r) s (counted (put { x with st := .failed }) .TYL_LINK_FAILS l.val 1)) ∧
      (minLanes s.dev l ≤ popcount mask → r.peerWidth = x.lanes → r.rttNs ≤ 4096 →
        Answers (.linkTrainingDone l r) s (put { x with
          st := if popcount mask = x.lanes then .up else .narrow
          peer := r.peer.toNat
          peerEng := r.peerEng.toNat
          peerPort := r.peerPort.toNat
          rtt := r.rttNs
          txMask := mask
          rxMask := mask
          crd := regOf s.dev .TYL_LINK_CRD l.val
          cls := regOf s.dev .TYL_LINK_CLS l.val })))

/-- Frames on a live link, and its timers (R335, R336, R337, R338, R340, R341, R342). A whole data frame with the expected number is taken and the
next is expected; any other sets the NAK latch with one NAK, and while it is set nothing more; a whole link frame without lane requests acknowledges
frames, returns credits and replays on NAK, or fails the link after 16 replays; one with a parity error is discarded. The link frame owed after 64
data frames goes out; without progress the sender replays, and after 16 replays the link fails; an unanswered NAK is repeated; a lane is taken down,
or its link fails below the minimum; a lane is asked for again. -/
def Obligations.LinkFramesAndTimers : Prop :=
  (∀ (s : State) (l : LinkId) (e : Dev), awake s.dev = true → Runs wakeFabric s.dev () e →
     let x := linkOf e l
     let nakked : Act Unit := do
       setLink l { x with nak := true }
       count .TYL_NAK_SENT l.val 1
       sendLinkFrame l true
     (∀ (ws : List DWord) (f : Frame), x.live = true → frameOf (ws.map (·.toNat)) = some f → bitsOf ((ws.map (·.toNat)).getD 0 0) 63 62 = 0 →
       (f.seq = x.rxSeq → Answers (.dataFrameReceived l ws []) s (runAct (takeFrame l f)
         { e with links := tabPut e.links l { x with rxSeq := (x.rxSeq + 1) % 4096, nak := false, got := x.got + 1, owe := true } })) ∧
       (f.seq ≠ x.rxSeq → x.nak = false → Answers (.dataFrameReceived l ws []) s (runAct nakked e)) ∧
       (f.seq ≠ x.rxSeq → x.nak = true → Answers (.dataFrameReceived l ws []) s e)) ∧
     (∀ (ws : List DWord) (bad : List Nat), x.live = true →
       (bad ≠ [] ∨ frameOf (ws.map (·.toNat)) = none ∨ bitsOf ((ws.map (·.toNat)).getD 0 0) 63 62 ≠ 0) →
       (x.nak = false → Answers (.dataFrameReceived l ws bad) s (runAct nakked e)) ∧ (x.nak = true → Answers (.dataFrameReceived l ws bad) s e)) ∧
     (∀ ws : List DWord, x.live = true → bitsOf ((ws.map (·.toNat)).getD 0 0) 63 62 = 1 →
       let w (i : Nat) : Nat := (ws.map (·.toNat)).getD i 0
       let kept := ackFrames x.kept x.seq (bitsOf (w 0) 61 50)
       let freed := [bitsOf (w 2) 15 0, bitsOf (w 1) 63 48, bitsOf (w 1) 47 32, bitsOf (w 1) 31 16, bitsOf (w 1) 15 0]
       let gain (k : Nat) : Nat := min (x.outst k) ((freed.getD k 0 + 65536 - x.freedIn.getD k 0 % 65536) % 65536)
       let mask := bitsOf (w 3) 31 0
       let asks := bitOf (w 3) 63
       let confirms := bitOf (w 3) 62
       let fresh := asks && x.lcnf.map (·.1) != some mask
       Answers (.linkFrameReceived l ws []) s (runAct (do
         let y : Link := { x with
           kept := kept
           stuck := if kept.length < x.kept.length then 0 else x.stuck
           freedIn := freed
           rxMask := if confirms then mask else x.rxMask
           lreq := if confirms ∧ x.lreq = some mask then none else x.lreq
           txMask := if asks then mask else x.txMask
           lcnf := if fresh then some (mask, x.seq) else if asks then x.lcnf else none }
         setLink l { y with st := y.widthSt }
         giveBack 2 (((List.range 5).map gain).foldl (· + ·) 0)
         onlyIf fresh (sendLinkFrame l false)
         onlyIf (bitOf (w 0) 49) (if 16 ≤ y.stuck then dropLink chanFail l .failed else replay l)
         pumpAll l) e)) ∧
     (∀ (ws : List DWord) (bad : List Nat), bad ≠ [] → Answers (.linkFrameReceived l ws bad) s e)) ∧
  (∀ (s : State) (l : LinkId), awake s.dev = true →
     let x := linkOf s.dev l
     x.live = true →
     (x.owe = true → 64 ≤ x.got → Answers (.linkFrameDue l) s (runAct (sendLinkFrame l false) s.dev)) ∧
     (x.kept ≠ [] → x.stuck < 16 → Answers (.replayTimer l) s (runAct (replay l) s.dev)) ∧
     (x.kept ≠ [] → 16 ≤ x.stuck → Answers (.replayTimer l) s (runAct (dropLink chanFail l .failed) s.dev)) ∧
     (x.nak = true → Answers (.nakRepeatTimer l) s (runAct (sendLinkFrame l true) (counted s.dev .TYL_NAK_SENT l.val 1))) ∧
     (∀ lane : LaneId,
       let mask := x.lreq.getD x.rxMask
       let downs := tabPut x.downs lane (tabGet x.downs lane 0 + 1)
       let e := counted s.dev .TYL_LANE_DOWNS l.val 1
       (∀ i : Instr, i = .laneErrorWindow l lane ∨ i = .laneSignalLoss l lane → bitOf mask lane.val = true →
         (minLanes s.dev l ≤ popcount (mask - 2 ^ lane.val) → Answers i s
           (runAct (do
             corrected
             logAt 2 2 none
             sendLinkFrame l false) { e with links := tabPut e.links l { x with downs := downs, lreq := some (mask - 2 ^ lane.val) } })) ∧
         (popcount (mask - 2 ^ lane.val) < minLanes s.dev l →
           Answers i s (runAct (dropLink chanFail l .failed) { e with links := tabPut e.links l { x with downs := downs } }))) ∧
       (bitOf mask lane.val = false → procRuns s.dev procLNK = true → (x.trained l).contains lane.val = true →
         tabGet x.downs lane 0 ≤ bitsOf (regOf s.dev .TYL_LANE_CTRL (l.val / 4)) 15 12 →
         Answers (.laneReadmitTimer l lane) s
           (runAct (sendLinkFrame l false) { s.dev with links := tabPut s.dev.links l { x with lreq := some (mask ||| 2 ^ lane.val) } }))))

/-- The channel protocol's messages and timers (R350, R351, R352). HELLO and HELLO_ACK open an end, and a HELLO of another shape fails it; STATUS
moves what the peer has landed, freed and done; BYE closes; BYE_ABORT fails the end; a message for no end counts as stale frames. HELLO is repeated
up to eight times and then the end fails; an open end whose messages do not land in time gives up; a closing end that is not answered is released
and counted; a status owed is sent. -/
def Obligations.ChannelControl : Prop :=
  (∀ (s : State) (h : Word) (msg : List Byte), awake s.dev = true →
     (chanBy s.dev h.toNat = none → ∀ i : Instr, i ∈ [.hello h msg, .helloAck h msg, .channelStatus h msg, .bye h msg, .byeAbort h msg] →
       Answers i s (counted s.dev .TYL_STALE_FRAMES 0 (framesOf msg.length))) ∧
     (∀ i c, chanBy s.dev h.toNat = some (i, c) →
       let open_ (peerH : Nat) : Dev :=
         { s.dev with chans := tabPut s.dev.chans i { c with st := .opened, peerH := peerH, pSlots := fieldAt msg 8 4 } }
       (fieldAt msg 2 2 = c.peer → fieldAt msg 1 1 = c.shape →
         (c.st = .listen → Answers (.hello h msg) s (runAct (sendMaint i 2) (open_ (fieldAt msg 4 4)))) ∧
         (c.st = .connecting → Answers (.hello h msg) s (runAct (pumpChanAll i) (open_ c.peerH))) ∧
         (c.st = .opened → Answers (.hello h msg) s (runAct (sendMaint i 2) s.dev))) ∧
       (fieldAt msg 2 2 = c.peer → fieldAt msg 1 1 ≠ c.shape → (c.st = .listen ∨ c.st = .connecting ∨ c.st = .opened) →
         Answers (.hello h msg) s (runAct (chanFail i) s.dev)) ∧
       (c.st = .connecting → Answers (.helloAck h msg) s (runAct (pumpChanAll i) (open_ c.peerH))) ∧
       (c.st = .opened ∨ c.st = .closing →
         let done := later c.pRma (fieldAt msg 0x14 4)
         Answers (.channelStatus h msg) s (runAct (do
           each (c.reqs.filter fun r => r.write && decide (r.num < done)) fun r => endRma i r.tag
           chanLanded i
           closeCheck i) { s.dev with chans := tabPut s.dev.chans i { c with
             pSlots := fieldAt msg 8 4
             pLanded := later c.pLanded (fieldAt msg 0xC 4)
             pFreed := later c.pFreed (fieldAt msg 0x10 4)
             pRma := done } })) ∧
       (c.st = .closing → Answers (.bye h msg) s (runAct (closeCheck i) { s.dev with chans := tabPut s.dev.chans i { c with byeIn := true } })) ∧
       (∀ d c', c.st = .opened → Runs (startClosing i) s.dev () d → chanOf d i = some c' →
         Answers (.bye h msg) s (runAct (closeCheck i) { d with chans := tabPut d.chans i { c' with byeIn := true } })) ∧
       Answers (.byeAbort h msg) s (runAct (chanFail i) s.dev))) ∧
  (∀ (s : State) (i : ChanIdx) (c : Chan), awake s.dev = true → chanOf s.dev i = some c →
     (c.st = .connecting → c.hellos < 8 → Answers (.helloRepeatTimer i) s
       (runAct (sendMaint i 1) { s.dev with chans := tabPut s.dev.chans i { c with hellos := c.hellos + 1 } })) ∧
     (c.st = .connecting → 8 ≤ c.hellos → Answers (.helloRepeatTimer i) s (runAct (chanFail i) s.dev)) ∧
     (c.st = .opened → (c.pLanded < c.sent ∨ c.reqs ≠ []) → Answers (.channelTimeout i) s (runAct (chanGiveUp i) s.dev)) ∧
     (c.st = .closing → Answers (.closingTimeout i) s (runAct (chanRelease i) (counted s.dev .TYL_CHAN_FAILS 0 1))) ∧
     (c.changed = true → (c.st = .opened ∨ c.st = .closing) → Answers (.statusSendTimer i) s (runAct (sendStatus i) s.dev)))

/-- Messages on a channel, and remote memory access (R318, R352, R355, R357). A message on an open end, within the credits given and a slot's size,
lands in the ring and the receives go on; one beyond the credits is stale and ends the channel, one longer than a slot ends it; on an end that is
not open it is stale. A remote read within the rules is answered with the memory's bytes and one outside them with an error; a write is stored and
counts; a response lands its bytes in the stream that asked; an error ends a read with a fault of code 6 or 7. -/
def Obligations.ChannelTraffic : Prop :=
  (∀ (s : State) (h : Word) (bs : List Byte) (tail : Bool) (i : ChanIdx) (c : Chan), awake s.dev = true → chanBy s.dev h.toNat = some (i, c) →
     (c.st = .opened ∨ c.st = .closing →
       (∀ d, c.landed < c.said.2 + c.slots → bs.length ≤ c.slotBytes → Runs (landInRing i bs tail) s.dev true d →
         (c.kind ≠ 3 ∨ (1 ≤ fieldAt bs 0 1 ∧ fieldAt bs 0 1 < 0x20) → Answers (.channelMessageArrival h bs tail) s (runAct (pumpRecvAll i) d)) ∧
         (c.kind = 3 → (fieldAt bs 0 1 = 0 ∨ 0x20 ≤ fieldAt bs 0 1) →
           Answers (.channelMessageArrival h bs tail) s (runAct (freeRingSlot i) (counted d .TYL_STALE_FRAMES 0 (framesOf bs.length))))) ∧
       (∀ d, c.landed < c.said.2 + c.slots → bs.length ≤ c.slotBytes → Runs (landInRing i bs tail) s.dev false d →
         Answers (.channelMessageArrival h bs tail) s (runAct (chanGiveUp i) d)) ∧
       (c.said.2 + c.slots ≤ c.landed → Answers (.channelMessageArrival h bs tail) s
         (runAct (chanGiveUp i) (counted s.dev .TYL_STALE_FRAMES 0 (framesOf bs.length)))) ∧
       (c.landed < c.said.2 + c.slots → c.slotBytes < bs.length → Answers (.channelMessageArrival h bs tail) s (runAct (chanGiveUp i) s.dev))) ∧
     (c.st ≠ .opened → c.st ≠ .closing → Answers (.channelMessageArrival h bs tail) s (counted s.dev .TYL_STALE_FRAMES 0 (framesOf bs.length)))) ∧
  (∀ (s : State) (h : Word) (msg : List Byte) (i : ChanIdx) (c : Chan), awake s.dev = true → chanBy s.dev h.toNat = some (i, c) →
     let err : Act Unit := sendRma i (rmaHead 4 (rmaLen msg) (rmaTag msg) (rmaVa msg))
     (c.st = .opened ∨ c.st = .closing →
       (∀ r d, rmaOk c msg = true → Runs (vaRead (envOf s.dev c.part) c.part { stream := true } (rmaVa msg) (rmaLen msg)) s.dev r d →
         Answers (.rmaReadRequest h msg) s (runAct (match r with
           | .ok (bs, []) => sendRma i (rmaHead 2 (rmaLen msg) (rmaTag msg) (rmaVa msg) ++ bs)
           | _ => err) d)) ∧
       (rmaOk c msg = false → Answers (.rmaReadRequest h msg) s (runAct err s.dev) ∧ Answers (.rmaWrite h msg) s (runAct err s.dev)) ∧
       (∀ r d, rmaOk c msg = true → Runs (vaWrite (envOf s.dev c.part) c.part { stream := true, next := !inOwnBank s.dev c.part (rmaVa msg) } (rmaVa msg)
           (padTo (rmaLen msg) 0#8 ((msg.drop 16).take (rmaLen msg))) []) s.dev r d →
         Answers (.rmaWrite h msg) s (runAct (match r with
           | .error _ => err
           | .ok _ => onSome (chanOf d i) fun y => setChan i { y with
               rmaDone := y.rmaDone + 1
               changed := true }) d))) ∧
     (c.st ≠ .opened → c.st ≠ .closing → ∀ x : Instr, x ∈ [.rmaReadRequest h msg, .rmaWrite h msg] →
       Answers x s (counted s.dev .TYL_STALE_FRAMES 0 (framesOf msg.length))) ∧
     (∀ r, reqOf c (rmaTag msg) = some r →
       (∀ d, r.write = false → Runs (endRma i r.tag) s.dev () d →
         Answers (.rmaReadResponse h msg) s (runAct (onSome r.stream fun (co, st, j, id) =>
           onSome (pieceOf d co st j id) fun (_, _, q) => onlyIf (q.tag == some r.tag)
             (if q.tier = 4 then landFrame co st j q (msg.drop 16) false else landPiece co st j q (padTo q.len 0#8 ((msg.drop 16).take q.len)) [])) d)) ∧
       (∀ v d, Runs draw s.dev v d → Answers (.rmaError h msg) s (runAct (do
         setChan i { c with
           reqs := c.reqs.map fun y => if y.write && decide (r.num < y.num) && r.write then { y with num := y.num - 1 } else y
           rmaSent := if r.write then c.rmaSent - 1 else c.rmaSent }
         endRma i r.tag
         refreshLost c.part [r]
         onSome r.stream fun (co, st, j, id) => do
           let d ← look
           onSome (pieceOf d co st j id) fun (_, _, q) => onlyIf (q.tag == some r.tag) do
             if r.write then do
               dropPiece co st j q.id
               drainFault co st j (6 + v % 2) q.va 0x15
             else faultPiece co st j q (6 + v % 2) q.va) d))))

/-- Accesses and upkeep of the piles (R282, R289, R295, R296, R299, R300, R301). A read answers the bytes at the address, marked where parity failed
for good, and a read that the tables refuse nothing; a write stores its bytes; an atomic on an aligned word answers the old value and stores its
result. Training that succeeds leaves the pile ready with every byte zero, training that fails leaves it failed; the patrol reads the next segment;
a fence's scrub zeroes its frame, counts its bytes and returns its units. -/
def Obligations.Piles : Prop :=
  (∀ (s : State) (p : PartId) (va : Nat), awake s.dev = true →
     (∀ n errs d d' r, Runs (walkTouch p va) s.dev () d → (locate d p (envOf d p).odd (envOf d p).chanOk {} false va).1.stored d = none →
       Runs (vaRead (envOf d p) p {} va n) d (.error r) d' → Answers (.pileRead p va n errs) s d') ∧
     (∀ n errs d pa ws e e1 bs bad e2, Runs (walkTouch p va) s.dev () d →
       let l := (locate d p (envOf d p).odd (envOf d p).chanOk {} false va).1
       l.stored d = some pa → Runs (do
         segmentPath (pileOfPa pa) errs
         segError pa errs.first errs.reread) d ws e → Runs (hurtLine l ws) e () e1 → Runs (vaRead (envOf d p) p {} va n) e1 (.ok (bs, bad)) e2 →
       Answers (.pileRead p va n errs) s { e2 with out := e2.out ++ [.pileData bs ((hurtWords l va n ws).foldl setIns bad)] }) ∧
     (∀ bs poisoned link d r d',
       Runs (onSome ((locate s.dev p (envOf s.dev p).odd (envOf s.dev p).chanOk {} true va).1.stored s.dev) fun pa => linkPath (pileOfPa pa) link) s.dev () d →
       Runs (vaWrite (envOf d p) p {} va bs (if poisoned then allWords va bs.length else [])) d r d' →
       Answers (.pileWrite p va bs ⟨poisoned, link⟩) s d') ∧
     (∀ op (v : Word), va % 4 ≠ 0 → Answers (.pileAtomic p va op v) s s.dev) ∧
     (∀ op (v : Word) d bs bad, va % 4 = 0 → (∀ code, (locate s.dev p (envOf s.dev p).odd (envOf s.dev p).chanOk { inner := true } true va).1 ≠ .fault code) →
       Runs (vaRead (envOf s.dev p) p {} va 4) s.dev (.ok (bs, bad)) d →
       (bad ≠ [] → Answers (.pileAtomic p va op v) s d) ∧
       (∀ r e, bad = [] → Runs (vaWrite (envOf d p) p { inner := true } va (leBytes 4 (atomicResult op (leNat bs) v.toNat)) []) d r e →
         Answers (.pileAtomic p va op v) s { e with out := e.out ++ [.pileOld (leNat bs)] }))) ∧
  (∀ (s : State) (pl : PileId), awake s.dev = true →
     let x := pileOf s.dev pl
     (x.training = true → Answers (.pileTrainingDone pl true) s (runAct (do
       emit (.zero .pile (pl.val * pileBytes) pileBytes)
       clearBad .pile (pl.val * pileBytes) pileBytes
       clearMap (pl.val * pileBytes) pileBytes
       updPile pl fun y => { y with
         training := false
         ready := true
         failed := false
         lines := []
         patrol := 0 }) s.dev)) ∧
     (x.training = true → Answers (.pileTrainingDone pl false) s (runAct (updPile pl fun y => { y with
       training := false
       failed := true }) s.dev)) ∧
     (∀ errs, x.ready = true → bitsOf (regOf s.dev .PILE_CTRL pl.val) 31 24 ≠ 0 →
       let pa := pl.val * pileBytes + 2048 * x.patrol
       let on : Act Unit := do
         wakePile pl
         updPile pl fun y => { y with patrol := (y.patrol + 1) % 2 ^ 25 }
       let dirty := x.lines.any fun (l : Line) => l.tag == pa && l.data.isNone && l.dirty
       (dirty = true → Answers (.patrolRead pl errs) s (runAct on s.dev)) ∧
       (dirty = false → Answers (.patrolRead pl errs) s (runAct (do
         on
         segmentPath pl errs
         let _ ← segError pa errs.first errs.reread
         checkSegment pa) s.dev))) ∧
     (∀ f fs, x.fences = f :: fs → Answers (.fenceScrubComplete pl) s (runAct (do
       wakePile pl
       emit (.zero .pile f.lo f.len)
       clearBad .pile f.lo f.len
       clearMap f.lo f.len
       updDbg (blockPile pl.val) fun x => { x with marks := x.marks.filter fun m => !(decide (f.lo ≤ 2048 * m.1) && decide (2048 * m.1 < f.lo + f.len)) }
       count .PILE_SCRUB_BYTES pl.val f.len
       giveBack 10 f.units
       updPile pl fun y => { y with
         fences := fs ++ (if (procOf s.dev 3).st == .running then x.waiting.take 1 else [])
         waiting := (if (procOf s.dev 3).st == .running then x.waiting.drop 1 else x.waiting) }) s.dev)))

/-- The input voltage (R477, R492, R556). Each sample stands in PWR_INPUT and adds its energy; below 38 V or above 46 V it sets its status bit and
the guard; below 34 V or above 48 V, or below 36 V for 25,000 samples, the module loses its power, as it does when the enable breaks, and is then
not awake; recovery and the application of power start it again. -/
def Obligations.InputPower : Prop :=
  ∀ (s : State) (mv : Nat),
    let d := s.dev
    let e := d.pwr.energy + bitsOf (regOf d .PWR_INPUT_W 0) 11 0
    let run := if mv < 36000 then d.pwr.lowRun + 1 else 0
    let sampled : Act Unit := do
      setField .PWR_INPUT 0 0 31 16 (min mv 65535)
      updPwr fun x => { x with
        aon := x.aon + 1
        energy := e % 25000
        lowRun := run }
      count .PWR_ENERGY_MJ 0 (e / 25000)
      onlyIf d.pwr.guard (count .PWR_GUARD_TICKS 0 1)
      onlyIf (throttled d) (count .PWR_THERM_TICKS 0 1)
    (d.pwr.shut = false →
      (38000 ≤ mv → mv ≤ 46000 → Answers (.inputSample mv) s (runAct (do
        sampled
        statusEvent (pwrStatus d)) d)) ∧
      (34000 ≤ mv → mv < 38000 → run < 25000 → Answers (.inputSample mv) s (runAct (do
        sampled
        orReg .PWR_STATUS 0 0 0x40
        updPwr fun x => { x with guard := true }
        statusEvent (pwrStatus d)) d)) ∧
      (46000 < mv → mv ≤ 48000 → Answers (.inputSample mv) s (runAct (do
        sampled
        orReg .PWR_STATUS 0 0 0x20
        updPwr fun x => { x with guard := true }
        statusEvent (pwrStatus d)) d)) ∧
      (mv < 34000 ∨ 48000 < mv ∨ 25000 ≤ run → Answers (.inputSample mv) s (runAct (do
        sampled
        loseAll false) d))) ∧
    Answers .vinEnBreak s (runAct (loseAll true) d) ∧
    (∀ b, awake (runAct (loseAll b) d) = false) ∧
    (d.pwr.shut = true → d.pins.broken = false → Answers .inputRecovery s (runAct powerUp d)) ∧
    (∀ straps : BitVec 4, Answers (.powerApplied straps) s (runAct powerUp { d with pins := { d.pins with straps := straps.toNat, broken := false } }))

/-- The power guard, the thermal loop and BAL (R486, R487, R488, R489, R490, R491). The check of each AON tick stands in PWR_INPUT_W and PWR_INPUT;
above 2,400 W or 70 A it sets the guard, and 64 ticks above 80 A trip the module; below 2,000 W with the input in range the guard ends and the ratio
held is written. A temperature of 105 °C in two samples trips it; the thermal loop moves each die's ratio by 16; BAL's estimates and ratios are
written, the ratio held while the guard is on. -/
def Obligations.PowerLoops : Prop :=
  ∀ s : State, 
    let d := s.dev
    (∀ watts ca avg, awake d = true →
      let run := if 8000 < ca then d.pwr.hiRun + 1 else 0
      let checked : Act Unit := do
        setReg .PWR_INPUT_W 0 0 (min watts 4095)
        setField .PWR_INPUT 0 0 15 0 (min ca 65535)
        updPwr fun x => { x with
          hiRun := run
          cut := x.cut && decide (max 300 (min 2400 (bitsOf (regOf d .PWR_BUDGET 0) 11 0)) < watts) }
        onlyIf (decide (2400 < watts)) (orReg .PWR_STATUS 0 0 0x10)
        onlyIf (decide (7000 < avg ∨ 8000 < ca)) (orReg .PWR_STATUS 0 0 8)
      (8000 < ca → 64 ≤ run → Answers (.guardCheck watts ca avg) s (runAct (do
        checked
        draw >>= tripNow 8) d)) ∧
      (run < 64 → (2400 < watts ∨ 7000 < avg) → Answers (.guardCheck watts ca avg) s (runAct (do
        checked
        updPwr fun x => { x with guard := true }
        statusEvent (pwrStatus d)) d)) ∧
      (run < 64 → watts ≤ 2400 → avg ≤ 7000 →
        (d.pwr.guard = false ∨ 2000 ≤ watts ∨ bitsOf (regOf d .PWR_INPUT 0) 31 16 < 38000 ∨ 46000 < bitsOf (regOf d .PWR_INPUT 0) 31 16) → Answers (.guardCheck watts ca avg) s (runAct (do
        checked
        statusEvent (pwrStatus d)) d)) ∧
      (let mv := bitsOf (regOf d .PWR_INPUT 0) 31 16
       run < 64 → watts < 2000 → avg ≤ 7000 → d.pwr.guard = true → 38000 ≤ mv → mv ≤ 46000 → Answers (.guardCheck watts ca avg) s (runAct (do
        checked
        updPwr fun x => { x with
          guard := false
          held := none }
        onSome d.pwr.held fun v => setReg .PWR_MOD_RATIO 0 0 v
        statusEvent (pwrStatus d)) d))) ∧
    (∀ dies piles, d.pwr.shut = false →
      let hot := (List.range 16).map (fun i => decide (105 ≤ dies.getD i 0)) ++ (List.range 8).map fun i => decide (105 ≤ piles.getD i 0)
      let twice := (hot.zip d.pwr.hot).map fun x => x.1 && x.2
      let k := twice.idxOf true
      Answers (.thermalSensorSample dies piles) s (runAct (do
        each (List.range 16) fun i => setField .PWR_DIE_STATUS 0 i 31 24 (min 255 (dies.getD i 0))
        each (List.range 8) fun i => setField .PWR_PILE_STATUS 0 i 31 24 (min 255 (piles.getD i 0))
        updPwr fun x => { x with hot := hot }
        onlyIf (!d.pwr.trip && twice.any id) (tripNow 7 (if k < 16 then k else k - 16))) d)) ∧
    (awake d = true →
      Answers .thermalLoopAdjust s (runAct (each (List.range 16) fun i => setField .PWR_DIE_STATUS 0 i 7 0
        ((if thrC d ≤ hottest d i then max 16 (dieRatio d i - 16)
          else if hottest d i + 2 < thrC d then min 256 (dieRatio d i + 16) else dieRatio d i) - 1)) d) ∧
      (procRuns d procBAL = true →
        (∀ (p : PartId) (w : BitVec 16), Answers (.balEstimateUpdate p w) s (runAct (setReg .PWR_PART_EST 0 p.val w.toNat) d)) ∧
        (∀ r : BitVec 8, d.pwr.guard = false → Answers (.balBudgetAdjust r) s (runAct (setReg .PWR_MOD_RATIO 0 0 (r.toNat % 256)) d)) ∧
        (∀ r : BitVec 8, d.pwr.guard = true → Answers (.balBudgetAdjust r) s { d with pwr := { d.pwr with held := some (r.toNat % 256) } })))

/-- The power domains (R479, R480, R481, R482, R483). An idle core domain goes to SLEEP, or OFF when it may and holds no window; the first waiting
core domain wakes while fewer than four are waking, any other waiting domain at once; a domain that has woken is ON; an idle pile, the fabric and a
host port go to SLEEP, and an idle core's clock is gated. -/
def Obligations.PowerDomains : Prop :=
  ∀ s : State, awake s.dev = true →
    let d := s.dev
    let put1 (i : Nat) (x : DomSt) : Dev := { d with pwr := { d.pwr with doms := d.pwr.doms.set i x } }
    (∀ i : Fin 32, domOf d i.val = .on → domHeld d i.val = false → domIdle d i.val = true →
      (bitOf (regOf d .PWR_SLEEP 0) 1 = false → Answers (.coreDomainSleepTimer i) s (put1 i.val .sleep)) ∧
      (bitOf (regOf d .PWR_SLEEP 0) 1 = true → (d.wins.all fun w => !w.inDom i.val) = true →
        Answers (.coreDomainSleepTimer i) s (runAct (do
          coresOff i.val
          setDom i.val .off) d))) ∧
    (∀ i : DomId, (domOf d i.val = .sleep ∨ domOf d i.val = .off) →
      let woken : Dev := { d with pwr := { d.pwr with doms := d.pwr.doms.set i.val .waking, wakeQ := d.pwr.wakeQ.filter (· ≠ i.val) } }
      (i.val < 32 → d.pwr.wakeQ.head? = some i.val → wakingCores d < 4 → Answers (.domainWake i) s woken) ∧
      (32 ≤ i.val → d.pwr.wakeQ.contains i.val = true → Answers (.domainWake i) s woken)) ∧
    (∀ i : DomId, domOf d i.val = .waking →
      (i.val < 32 → Answers (.domainWakeComplete i) s (runAct (do
        count .PWR_CORE_WAKES 0 1
        each (coresOfDom i.val) fun c => do
          reloadTables (envOf d) c
          takeLibrary c) (put1 i.val .on))) ∧
      (32 ≤ i.val → i.val < 40 → Answers (.domainWakeComplete i) s
        (runAct (updPile (Fin.ofNat 8 (i.val - 32)) fun x => { x with training := !x.ready }) (put1 i.val .on))) ∧
      (40 ≤ i.val → Answers (.domainWakeComplete i) s (put1 i.val .on))) ∧
    (∀ pl : PileId, domOf d (32 + pl.val) = .on → domHeld d (32 + pl.val) = false → (pileOf d pl).ready = true → (pileOf d pl).fences = [] →
      Answers (.pileSelfRefreshTimer pl) s (put1 (32 + pl.val) .sleep)) ∧
    (∀ c : CoreId, domOf d (c.val / 25) = .on → coreIdle d c = true →
      Answers (.coreClockGate c) s { d with pwr := { d.pwr with gated := setIns d.pwr.gated c.val } }) ∧
    (domOf d 48 = .on → domHeld d 48 = false → bitOf (regOf d .PWR_SLEEP 0) 0 = true → ringsWait d = false →
      ((d.pwr.doms.take 40).all fun x => x == .sleep || x == .off) = true → Answers .fabricSleep s (put1 48 .sleep)) ∧
    (∀ (port : HostPort) (i : Nat), i = (match port with
        | .portA => 44
        | .portB => 45) →
      let put (x : PortSt) (y : DomSt) : Dev := { put1 i y with pins := { d.pins with ports := tabPut d.pins.ports port x } }
      (tabGet d.pins.ports port .up = .up → domHeld d i = false → Answers (.pcieLinkL1 port true) s (put .l1 .sleep)) ∧
      (tabGet d.pins.ports port .up = .l1 → Answers (.pcieLinkL1 port false) s (put .up .on)))

/-- The sideband and MCTP (R488, R566, R567, R568, R569). On a binding that is up, a budget from the sideband is bounded to 300 to 2,400 W and
stands in PWR_BUDGET, one from elsewhere is answered with an error; a sensor read answers its value; a control or discovery message is answered as
its type asks; on SMBus the bus gives the module its address. The bodies of the answers are free values (log entry 7). -/
def Obligations.ManagementMessages : Prop :=
  ∀ (s : State) (b : Binding), bindingUp s.dev b = true →
    let d := s.dev
    let say (d : Dev) (kind : Nat) (bs : List Byte) : Dev := { d with out := d.out ++ [.mctp b (Config.mctpBody kind bs)] }
    (∀ w : Nat, b = .sideband → procRuns d procBAL = true →
      let v := max 300 (min 2400 w)
      Answers (.pldmBudgetEffecterSet b w) s (say { d with
        regs := tabPut d.regs ⟨.PWR_BUDGET, 0, 0⟩ (toWord v)
        pwr := { d.pwr with cut := decide (v < bitsOf (regOf d .PWR_INPUT_W 0) 11 0) } } sayEffecter [])) ∧
    (∀ w : Nat, b ≠ .sideband → Answers (.pldmBudgetEffecterSet b w) s (say d sayPldmError [])) ∧
    (∀ id : Nat, Answers (.pldmSensorRead b id) s (say d saySensor (leBytes 1 id ++ leBytes 8 (sensorValue d id)))) ∧
    (∀ msg, Answers (.mctpControlMessage b 0 msg) s (say d sayControl msg)) ∧
    (∀ msg, fieldAt msg 1 1 % 64 = 0 ∨ fieldAt msg 1 1 % 64 = 2 → Answers (.mctpControlMessage b 1 msg) s (say d sayControl msg)) ∧
    (∀ msg, fieldAt msg 1 1 % 64 ≠ 0 → fieldAt msg 1 1 % 64 ≠ 2 → Answers (.mctpControlMessage b 1 msg) s (say d sayPldmError msg)) ∧
    (∀ a : BitVec 7, b = .sideband → bitOf d.pins.straps 2 = false →
      Answers (.dynamicAddressAssignment a) s { d with pins := { d.pins with dyn := some a.toNat } })

/-- SPDM requests (R523, R525, R526). While SEC runs each request is counted and answered on its binding: the version, the capabilities, the
algorithms when both are offered, the digest, a part of the chain of slot 0, the signed challenge, the measurements; any other request, slot or
index is an error. The layout of the answers is a free value (log entry 7). -/
def Obligations.SpdmRequests : Prop :=
  ∀ (s : State) (b : Binding), bindingUp s.dev b = true → procRuns s.dev procSEC = true →
    let d := counted s.dev .SEC_SPDM_REQS 0 1
    let say (kind : Nat) (bs : List Byte) : Dev := { d with out := d.out ++ [.mctp b (Config.mctpBody kind bs)] }
    let digest := Config.sm3 Config.certChain
    Answers (.getVersion b) s (say sayVersion []) ∧
    Answers (.getCapabilities b) s (say sayCapabilities []) ∧
    (Answers (.negotiateAlgorithms b true true) s (runAct (do
      setSec { s.dev.sec with conns := if s.dev.sec.conns.contains b then s.dev.sec.conns else s.dev.sec.conns ++ [b] }
      mctpSay b sayAlgorithms []) d)) ∧
    (∀ x y, (x && y) = false → Answers (.negotiateAlgorithms b x y) s (runAct (do
      setSec { s.dev.sec with conns := s.dev.sec.conns.filter (· != b) }
      spdmError b errInvalid) d)) ∧
    Answers (.getDigests b) s (say sayDigests digest) ∧
    (∀ off n, Answers (.getCertificate b 0 off n) s (say sayCertificate ((Config.certChain.drop off).take n))) ∧
    (∀ nonce, Answers (.challenge b 0 nonce) s (say sayChallenge (signedBytes (digest ++ measurements s.dev ++ nonce)))) ∧
    (∀ k off n nonce, k ≠ 0 → Answers (.getCertificate b k off n) s (runAct (spdmError b errInvalid) d) ∧
      Answers (.challenge b k nonce) s (runAct (spdmError b errInvalid) d)) ∧
    (∀ (i : Nat) (signed : Bool) (nonce : List Byte),
      let body (m : List Byte) : Dev := say sayMeasurements (if signed then signedBytes (m ++ nonce) else m)
      Answers (.getMeasurements b 0 signed nonce) s (body (leBytes 1 10)) ∧
      (1 ≤ i → i ≤ 10 → Answers (.getMeasurements b i signed nonce) s (body (measurement s.dev i))) ∧
      Answers (.getMeasurements b 255 signed nonce) s (body (measurements s.dev)) ∧
      (10 < i → i ≠ 255 → Answers (.getMeasurements b i signed nonce) s (runAct (spdmError b errInvalid) d))) ∧
    (∀ code, Answers (.spdmUnsupportedRequest b code) s (runAct (spdmError b errUnsupported) d))

/-- The load of a bundle (R454, R455, R456, R457). FW_LOAD_CTRL.go reads the bundle from the host; the end of the read starts the checks; a bundle
that fails one is rejected with its code; one that passes runs, its six processors released and measured; when HIF is ready the piles train. -/
def Obligations.BundleLoads : Prop :=
  ∀ s : State, awake s.dev = true →
    (∀ (f : FnId) (v : Word) (d : Dev), reaches s.dev f = true → isPf f = true → Runs wakeFabric s.dev () d → reaches d f = true → bitOf v.toNat 31 = true →
      (fwState d = 0 ∨ fwState d = 5) →
      Answers (.fwLoadGo f v) s (runAct (do
        setField .FW_STATUS 0 0 4 0 (1 + 16 * b2n (decide (8 ≤ f.val)))
        emit (.out (.hostRead f (addrPair d .FW_LOAD_ADDR_LO .FW_LOAD_ADDR_HI 0 0) (regOf d .FW_LOAD_SIZE 0)))) d)) ∧
    (∀ bundle dma, fwState s.dev = 1 → Answers (.bundleDmaComplete bundle dma) s
      (runAct (setField .FW_STATUS 0 0 3 0 2) { s.dev with fw := { s.dev.fw with pend := bundle, dmaErr := dma } })) ∧
    (∀ code, fwState s.dev = 2 → bundleFails s.dev s.dev.fw.pend s.dev.fw.dmaErr = some code → Answers .bundleVerificationDone s (runAct (do
      rejectBundle code
      setField .FW_STATUS 0 0 3 0 5
      updFw fun x => { x with pend := [] }) s.dev)) ∧
    (fwState s.dev = 2 → bundleFails s.dev s.dev.fw.pend s.dev.fw.dmaErr = none → Answers .bundleVerificationDone s (runAct (do
      setField .FW_STATUS 0 0 11 8 0
      setField .FW_STATUS 0 0 3 0 3
      updFw fun x => { x with
        running := x.pend
        pend := [] }
      setReg .FW_VERSION 0 0 (bundleVersion s.dev.fw.pend)
      measureHeader s.dev.fw.pend
      release s.dev.fw.pend [4, 5, 1, 3, 2, 0]) s.dev)) ∧
    (fwState s.dev = 3 → procRuns s.dev procHIF = true → Answers (.processorReady procHIF) s (runAct (do
      setField .FW_STATUS 0 0 3 0 4
      each allPiles fun pl =>
        if domOf s.dev (32 + pl.val) = .on then updPile pl fun x => { x with training := !x.ready } else askWake (32 + pl.val)) s.dev))

/-- The processors (R453, R458, R459, R466, R469). A mailbox message goes to the inbox of a processor that runs and waits in its queue for one that
does not; a fault and the watchdog restart a running one, and FW_PROC_CTRL those it names; after a restart outside a load a processor runs its
stored component, or is halted at the fifth within 600 s or when the digest is wrong; a due activation of BAL restarts it; an entry of a running
processor is appended to the log. -/
def Obligations.ProcessorEvents : Prop :=
  ∀ s : State, awake s.dev = true →
    let d := s.dev
    (∀ src dst msg, procRuns d src = false ∨ src = dst ∨ 32 ≤ (tabGet d.fw.mail (src, dst) []).length → Answers (.mailboxMessage src dst msg) s d) ∧
    (∀ src dst msg, procRuns d src = true → src ≠ dst → (tabGet d.fw.mail (src, dst) []).length < 32 →
      (procRuns d dst = true → Answers (.mailboxMessage src dst msg) s (runAct (updProc dst fun x => { x with inbox := x.inbox ++ [(src, msg)] }) d)) ∧
      (procRuns d dst = false → Answers (.mailboxMessage src dst msg) s
        { d with fw := { d.fw with mail := tabPut d.fw.mail (src, dst) (tabGet d.fw.mail (src, dst) [] ++ [msg]) } })) ∧
    (∀ i why, (procOf d i).st = .running →
      let restarted : Dev := runAct (do
        updProc i fun x => { x with
          st := .restarting
          inbox := [] }
        count .FW_RESTART 0 1 i
        logAt 0 5 none) d
      (why ≠ .sharedWord → Answers (.processorFault i why) s restarted) ∧ Answers (.processorWatchdogExpiry i) s restarted) ∧
    (∀ i, Answers (.processorFault i .sharedWord) s (runAct (moduleError 4 i.val) d)) ∧
    (∀ i why, (procOf d i).st ≠ .running → (why ≠ .sharedWord → Answers (.processorFault i why) s d) ∧ Answers (.processorWatchdogExpiry i) s d) ∧
    (∀ (f : FnId) (v : Word) (e : Dev), reaches d f = true → isPf f = true → Runs wakeFabric d () e → reaches e f = true →
      Answers (.fwProcRestart f v) s (runAct (each (List.finRange 6) fun i =>
        onlyIf (bitOf v.toNat i.val) do
          orReg .FW_PROC_CTRL 0 0 (2 ^ i.val)
          onlyIf ((procOf e i).st == .running || (procOf e i).st == .restarting) (restartProc i false)) e)) ∧
    (∀ i second store, (procOf d i).st = .restarting → (i = procSEC ∨ procRuns d procSEC = true) →
      let due (l : FwLoad) : Prop := l.act.head? = some i.val ∧ ¬ (bitOf (regOf d .FW_STATUS 0) 16 = true ∧ i = procBAL)
      (d.fw.load = none ∧ store = d.fw.running ∨ ∃ l, d.fw.load = some l ∧ ¬ due l ∧ store = if i.val ∈ l.done then d.fw.pend else d.fw.running) →
      let times := second :: (procOf d i).times.filter fun t => decide (second < t + 600)
      let entry := ((List.range 6).find? fun j => fieldAt (bundleEntry store j) 0 1 == i.val).map (bundleEntry store)
      let good := entry.map (·.drop 16) = some (Config.sm3 (bundleComp store i.val))
      (times.length ≤ 4 → good → Answers (.processorRestartComplete i second) s (runAct (do
        setReg .FW_PROC_CTRL 0 0 (regOf d .FW_PROC_CTRL 0 &&& (63 - 2 ^ i.val))
        updProc i fun y => { y with
          st := .running
          times := times
          comp := bundleComp store i.val }
        takeMail i
        onlyIf (i == procMEM) liftRoots
        loadProgress) d)) ∧
      (4 < times.length ∨ ¬ good → Answers (.processorRestartComplete i second) s (runAct (do
        setReg .FW_PROC_CTRL 0 0 (regOf d .FW_PROC_CTRL 0 &&& (63 - 2 ^ i.val))
        updProc i fun y => { y with
          st := .halted
          times := times
          pending := false }
        logEvent 5
        onlyIf (i == procHIF || i == procSEC) (moduleError 5 i.val)
        loadProgress) d))) ∧
    (∀ i second l, (procOf d i).st = .restarting → (i = procSEC ∨ procRuns d procSEC = true) → d.fw.load = some l → l.act.head? = some i.val →
      ¬ (bitOf (regOf d .FW_STATUS 0) 16 = true ∧ i = procBAL) →
      ((List.range 6).find? fun j => fieldAt (bundleEntry d.fw.pend j) 0 1 == i.val).map (fun j => (bundleEntry d.fw.pend j).drop 16) = some (Config.sm3 (bundleComp d.fw.pend i.val)) →
      Answers (.processorRestartComplete i second) s (runAct (do
        setReg .FW_PROC_CTRL 0 0 (regOf d .FW_PROC_CTRL 0 &&& (63 - 2 ^ i.val))
        updProc i fun y => { y with
          st := .running
          times := second :: (procOf d i).times.filter fun t => decide (second < t + 600)
          comp := bundleComp d.fw.pend i.val
          pending := false }
        takeMail i
        onlyIf (i == procMEM) liftRoots
        measureComp i.val (bundleComp d.fw.pend i.val)
        count .FW_ACTIVATIONS 0 1
        logEvent 5
        updFw fun y => { y with load := y.load.map fun l => { l with
          act := l.act.tail
          done := l.done ++ [i.val] } }
        loadProgress) d)) ∧
    (∀ l : FwLoad, d.fw.load = some l → bitOf (regOf d .FW_STATUS 0) 16 = true → l.act.head? = some 1 → emergency d = false →
      Answers .balActivationDue s (runAct (do
        setField .FW_STATUS 0 0 16 16 0
        restartProc procBAL true) d)) ∧
    (∀ q : LogReq, procRuns d q.proc = true →
      Answers (.logAppend q) s (runAct (logAppend q.proc.val q.level.val q.point.toNat q.part q.payload) d))

/-- Fuses and the debug unlock (R522, R530, R531, R532). SVN_COMMIT burns the running bundle's svn when it is higher; KEY_CTRL.go burns a slot's
bit, and is refused when its key signed the running bundle or is the last; a challenge draws a nonce; a token that passes its checks unlocks, and
one that fails is counted with its code; a lock and the expiry end the unlock. -/
def Obligations.SecurityCommands : Prop :=
  ∀ (s : State), awake s.dev = true →
    (∀ (f : FnId) (v : Word) (d : Dev), reaches s.dev f = true → isPf f = true → Runs wakeFabric s.dev () d → procRuns d procSEC = true →
      let n := min (bundleSvn d.fw.running) 255
      let k := v.toNat % 4
      (bitOf v.toNat 0 = true → d.sec.svn < n → Answers (.secSvnCommit f v) s (runAct (do
        emit (.burnSvn n)
        logAt 1 4 none) d)) ∧
      (bitOf v.toNat 0 = true → n ≤ d.sec.svn → Answers (.secSvnCommit f v) s d) ∧
      (∀ e, Runs (onlyIf (bitOf v.toNat 2) (setField .SEC_KEY_CTRL 0 0 2 2 0)) d () e → procRuns e procSEC = true →
        (bitOf v.toNat 3 = false → Answers (.secKeyRevoke f v) s e) ∧
        (bitOf v.toNat 3 = true → Config.bundleKeyHash (Fin.ofNat 4 k) ≠ Config.sm3 (bundleKey d.fw.running) → (d.sec.revoked ||| 2 ^ k) % 16 ≠ 15 →
          let burn := do
            emit (.burnKey k)
            logAt 1 4 none
          Answers (.secKeyRevoke f v) s (runAct (onlyIf (!bitOf d.sec.revoked k) burn) e)) ∧
        (bitOf v.toNat 3 = true → (Config.bundleKeyHash (Fin.ofNat 4 k) = Config.sm3 (bundleKey d.fw.running) ∨ (d.sec.revoked ||| 2 ^ k) % 16 = 15) →
          Answers (.secKeyRevoke f v) s (runAct (orReg .SEC_KEY_CTRL 0 0 4) e))) ∧
      (∀ e, Runs (onlyIf (bitOf v.toNat 2) endUnlock) d () e → procRuns e procSEC = true →
        let acts := do
          onlyIf (bitOf v.toNat 1) (debugSubmit f)
          onlyIf (bitOf v.toNat 0) debugChallenge
        (bitOf v.toNat 0 = true → Answers (.secDebugChallenge f v) s (runAct acts e)) ∧ (bitOf v.toNat 1 = true → Answers (.secDebugSubmit f v) s (runAct acts e)) ∧
          (bitOf v.toNat 2 = true → Answers (.secDebugLock f v) s (runAct acts e))) ∧
      (∀ code, v = 2 → tokenFails d f (tokenBytes d) = some code → Answers (.secDebugSubmit f v) s (runAct (do
        setSec { d.sec with nonce := none }
        setField .SEC_DEBUG_STATUS 0 0 7 4 code
        count .SEC_DEBUG_REJECTS 0 1) d)) ∧
      (v = 2 → tokenFails d f (tokenBytes d) = none →
        let b := tokenBytes d
        Answers (.secDebugSubmit f v) s (runAct (do
          endUnlock
          let e ← look
          setSec { e.sec with
            nonce := none
            unlock := some (fieldAt b 6 2, fieldAt b 0x20 2) }
          setReg .SEC_DEBUG_STATUS 0 0 ((regOf e .SEC_DEBUG_STATUS 0 &&& 0xF0) + fieldAt b 0x20 2 * 65536 + fieldAt b 6 2 * 4 + 2)
          setReg .SEC_DEBUG_LEFT 0 0 (fieldAt b 0x22 2)
          count .SEC_DEBUG_UNLOCKS 0 1) d))) ∧
    (∀ (f : FnId) (v : Word) (d : Dev), reaches s.dev f = true → isPf f = true → Runs wakeFabric s.dev () d → (procOf d procSEC).st = .restarting → bitOf v.toNat 2 = false →
      let later (n : RegName) : Dev := { d with fw := { d.fw with late := d.fw.late ++ [.sec n f v.toNat] } }
      Answers (.secKeyRevoke f v) s (later .SEC_KEY_CTRL) ∧ (bitOf v.toNat 0 = true → Answers (.secSvnCommit f v) s (later .SEC_SVN_COMMIT)) ∧
        (bitOf v.toNat 0 = true → Answers (.secDebugChallenge f v) s (later .SEC_DEBUG_CTRL)) ∧
        (bitOf v.toNat 1 = true → Answers (.secDebugSubmit f v) s (later .SEC_DEBUG_CTRL))) ∧
    Answers .debugUnlockExpiry s (runAct endUnlock s.dev)

/-- The strike and the perturbations (R537, R539, R542, R543, R544, R547). STRIKE_FIRE raises source 0, the input source 5 when it is enabled, and a
counter that crosses its threshold upwards the threshold source once; STRIKE_CTRL arms and disarms, and release lets the snapshot go; DBG_PAR of a
block in a full unlock sets its injection, and of a block outside every unlock is refused and counted; the first credit whose delay has ended is
freed. -/
def Obligations.StrikeCommands : Prop :=
  ∀ (s : State), awake s.dev = true →
    (∀ (f : FnId) (v : Word) (d : Dev), reaches s.dev f = true → isPf f = true → Runs wakeFabric s.dev () d →
      (bitOf v.toNat 0 = true → Answers (.strikeFire f v) s (runAct (raiseStrike 1) d)) ∧
      (bitOf v.toNat 8 = false → bitOf v.toNat 0 = true → Answers (.strikeArm f v) s (runAct (do
        setReg .STRIKE_CTRL 0 0 (v.toNat % 256)
        askWake 49) d)) ∧
      (bitOf v.toNat 8 = false → bitOf v.toNat 0 = false → Answers (.strikeArm f v) s (runAct (do
        setReg .STRIKE_CTRL 0 0 (v.toNat % 256)
        updPwr fun x => { x with wakeQ := x.wakeQ.filter (· ≠ 49) }
        debugOff) d)) ∧
      (bitOf v.toNat 8 = true →
        let e := runAct (do
          dropSnap
          setReg .STRIKE_CTRL 0 0 (v.toNat % 256)
          if bitOf v.toNat 0 then askWake 49
          else do
            updPwr fun x => { x with wakeQ := x.wakeQ.filter (· ≠ 49) }
            debugOff) d
        Answers (.strikeArm f v) s e ∧ Answers (.strikeRelease f v) s e) ∧
      (bitOf v.toNat 31 = true → inUnlock d 0 (dbgSel d) = true → (unlockOf d 0 = some 0xFFFF ∨ kindOf (dbgSel d) ≠ .pile ∨ bitsOf v.toNat 27 26 ≠ 3) →
        Answers (.dbgParGo f v) s (runAct (setInjection (dbgSel d) v.toNat) d)) ∧
      (bitOf v.toNat 31 = true → (inUnlock d 0 (dbgSel d) = false ∨ unlockOf d 0 ≠ some 0xFFFF ∧ kindOf (dbgSel d) = .pile ∧ bitsOf v.toNat 27 26 = 3) → Answers (.dbgParGo f v) s (counted d .DBG_REFUSED 0 1))) ∧
    (bitOf (regOf s.dev .STRIKE_CTRL 0) 6 = true → Answers .strikeInputEdge s (runAct (raiseStrike 0x20) s.dev)) ∧
    (bitOf (regOf s.dev .STRIKE_CTRL 0) 6 = false → Answers .strikeInputEdge s s.dev) ∧
    (∀ (i : Fin 4) (n : Nat), counterAt s.dev 0 (bitsOf (regOf s.dev .STRIKE_THR_SEL 0 i.val) 25 3 * 8) = some (n, false) →
      let thr := regOf s.dev .STRIKE_THR_HI 0 i.val * 2 ^ 32 + regOf s.dev .STRIKE_THR_LO 0 i.val
      let seen (b : Bool) : Dev := { s.dev with strike := { s.dev.strike with below := s.dev.strike.below.set i.val b } }
      (n < thr → Answers (.strikeThresholdSample i) s (seen true)) ∧
      (thr ≤ n → s.dev.strike.below.getD i.val false = true → bitOf (regOf s.dev .STRIKE_CTRL 0) (1 + i.val) = true →
        Answers (.strikeThresholdSample i) s (runAct (do
          setField .STRIKE_CTRL 0 0 (1 + i.val) (1 + i.val) 0
          raiseStrike 8) (seen false))) ∧
      (thr ≤ n → (s.dev.strike.below.getD i.val false = false ∨ bitOf (regOf s.dev .STRIKE_CTRL 0) (1 + i.val) = false) → Answers (.strikeThresholdSample i) s (seen false))) ∧
    (∀ block : BitVec 12, (dbgOf s.dev block.toNat).delayed = [] → Answers (.creditDelayExpiry block) s s.dev) ∧
    (∀ (block : BitVec 12) h hs, (dbgOf s.dev block.toNat).delayed = h :: hs →
      Answers (.creditDelayExpiry block) s (runAct (do
        updDbg block.toNat fun x => { x with delayed := hs }
        freeHeld block.toNat h) s.dev))
end

