-- ==== Sys2Proof/Laws/Tables.lean ====
section
/-! SUPPORT. Laws of tables and of byte memories: a read after a write, and the canonical form that every memory operation keeps. -/

namespace Sys2Proof.Laws

open Sys2Proof.Machine

variable {κ α : Type} [DecidableEq κ]

/-! Tables. -/

@[simp] theorem tabFind_put_same (t : Tab κ α) (k : κ) (v : α) : tabFind (tabPut t k v) k = some v := by
  induction t with
  | nil => simp [tabPut, tabFind]
  | cons x t ih =>
    obtain ⟨k', v'⟩ := x
    by_cases h : k' = k <;> simp [tabPut, tabFind, h, ih]

theorem tabFind_put_ne (t : Tab κ α) {k k' : κ} (v : α) (h : k' ≠ k) : tabFind (tabPut t k v) k' = tabFind t k' := by
  induction t with
  | nil => simp [tabPut, tabFind, Ne.symm h]
  | cons x t ih =>
    obtain ⟨j, w⟩ := x
    by_cases hj : j = k
    · subst hj; simp [tabPut, tabFind, Ne.symm h]
    · by_cases hk : j = k'
      · subst hk; simp [tabPut, tabFind, hj]
      · simp [tabPut, tabFind, hj, hk, ih]

@[simp] theorem tabGet_put_same (t : Tab κ α) (k : κ) (v d : α) : tabGet (tabPut t k v) k d = v := by simp [tabGet]

theorem tabGet_put_ne (t : Tab κ α) {k k' : κ} (v d : α) (h : k' ≠ k) : tabGet (tabPut t k v) k' d = tabGet t k' d := by
  simp [tabGet, tabFind_put_ne t v h]

@[simp] theorem tabFind_del_same (t : Tab κ α) (k : κ) : tabFind (tabDel t k) k = none := by
  induction t with
  | nil => simp [tabDel, tabFind]
  | cons x t ih =>
    obtain ⟨j, w⟩ := x
    unfold tabDel at *
    by_cases hj : j = k <;> simp_all [tabFind]

theorem tabFind_del_ne (t : Tab κ α) {k k' : κ} (h : k' ≠ k) : tabFind (tabDel t k) k' = tabFind t k' := by
  induction t with
  | nil => simp [tabDel, tabFind]
  | cons x t ih =>
    obtain ⟨j, w⟩ := x
    unfold tabDel at *
    by_cases hj : j = k
    · subst hj; simp_all [tabFind, Ne.symm h]
    · by_cases hk : j = k' <;> simp_all [tabFind]

/-- Every entry of a table after a put is the new one or one that stood. -/
theorem mem_tabPut {t : Tab κ α} {k : κ} {v : α} {x : κ × α} (h : x ∈ tabPut t k v) : x = (k, v) ∨ x ∈ t := by
  induction t with
  | nil => simp_all [tabPut]
  | cons y t ih =>
    obtain ⟨j, w⟩ := y
    by_cases hj : j = k
    · simp [tabPut, hj] at h; aesop
    · simp [tabPut, hj] at h; aesop

/-- What a table's value is listed by. -/
theorem tabFind_mem {t : Tab κ α} {k : κ} {v : α} (h : tabFind t k = some v) : (k, v) ∈ t := by
  induction t with
  | nil => simp [tabFind] at h
  | cons y t ih =>
    obtain ⟨j, w⟩ := y
    by_cases hj : j = k
    · simp_all [tabFind]
    · simp [tabFind, hj] at h; simp [ih h]

/-- Sorted sets: insertion keeps what is there, adds its element, and keeps the order. -/
theorem mem_setIns {s : List Nat} {a x : Nat} : x ∈ setIns s a ↔ x = a ∨ x ∈ s := by
  induction s with
  | nil => simp [setIns]
  | cons y s ih =>
    simp only [setIns]
    split
    · simp
    · split
      · subst_vars; simp
      · simp [ih]; tauto

theorem setIns_pairwise {s : List Nat} (a : Nat) (h : s.Pairwise (· < ·)) : (setIns s a).Pairwise (· < ·) := by
  induction s with
  | nil => simp [setIns]
  | cons y s ih =>
    rw [List.pairwise_cons] at h
    simp only [setIns]
    split
    · rename_i hlt
      rw [List.pairwise_cons, List.pairwise_cons]
      exact ⟨fun z hz => by rcases List.mem_cons.1 hz with rfl | hz <;> [exact hlt; exact lt_trans hlt (h.1 z hz)], h⟩
    · split
      · subst_vars; rw [List.pairwise_cons]; exact h
      · rw [List.pairwise_cons]
        refine ⟨fun z hz => ?_, ih h.2⟩
        rcases mem_setIns.1 hz with rfl | hz
        · omega
        · exact h.1 z hz

/-! Byte memories. -/

/-- The canonical form of a memory with a first entry: its byte is not 0, what follows lies above it and is canonical. -/
theorem memWf_cons {a : Nat} {b : Byte} {m : Mem} : Memory.wf ((a, b) :: m) = true ↔ b ≠ 0#8 ∧ (∀ x ∈ m, a < x.1) ∧ Memory.wf m = true := by
  induction m generalizing a b with
  | nil => simp [Memory.wf]
  | cons c m ih =>
    obtain ⟨a', b'⟩ := c
    simp only [Memory.wf, Bool.and_eq_true, bne_iff_ne, decide_eq_true_eq]
    constructor
    · rintro ⟨⟨hb, ha⟩, hm⟩
      refine ⟨hb, fun x hx => ?_, hm⟩
      rcases List.mem_cons.1 hx with rfl | hx
      · exact ha
      · exact lt_trans ha ((ih.1 hm).2.1 x hx)
    · rintro ⟨hb, hx, hm⟩
      exact ⟨⟨hb, hx (a', b') (List.mem_cons_self)⟩, hm⟩

/-- In canonical form, below the first address every byte reads 0. -/
theorem memGet_below {m : Mem} {a : Nat} (h : ∀ x ∈ m, a < x.1) : memGet m a = 0#8 := by
  cases m with
  | nil => rfl
  | cons c m =>
    obtain ⟨a', b'⟩ := c
    have hlt : a < a' := h (a', b') (List.mem_cons_self)
    simp only [memGet]
    rw [if_neg (by omega), if_pos (by omega)]

theorem mem_memPut {m : Mem} {a : Nat} {b : Byte} {x : Host.Cell} (h : x ∈ memPut m a b) : x = (a, b) ∨ x ∈ m := by
  induction m with
  | nil =>
    by_cases hb : b = 0#8
    · simp [memPut, hb] at h
    · simpa [memPut, hb] using h
  | cons c m ih =>
    obtain ⟨a', b'⟩ := c
    simp only [memPut] at h
    split at h
    · rcases List.mem_cons.1 h with rfl | h
      · simp
      · rcases ih h with rfl | h <;> simp_all
    · repeat' split at h
      all_goals first | (simp only [List.mem_cons] at h ⊢; tauto)

/-- A write of one byte keeps the canonical form. -/
theorem memPut_wf {m : Mem} (a : Nat) (b : Byte) (h : Memory.wf m = true) : Memory.wf (memPut m a b) = true := by
  induction m with
  | nil =>
    simp only [memPut]; split
    · rfl
    · simpa [Memory.wf]
  | cons c m ih =>
    obtain ⟨a', b'⟩ := c
    rw [memWf_cons] at h
    obtain ⟨hb, hx, hm⟩ := h
    simp only [memPut]
    split
    · rename_i hlt
      rw [memWf_cons]
      refine ⟨hb, fun x hxm => ?_, ih hm⟩
      rcases mem_memPut hxm with rfl | h'
      · exact hlt
      · exact hx x h'
    · split
      · rename_i heq
        split
        · exact hm
        · rw [memWf_cons]; exact ⟨‹_›, by subst heq; exact hx, hm⟩
      · split
        · rw [memWf_cons]; exact ⟨hb, hx, hm⟩
        · rw [memWf_cons]
          refine ⟨‹_›, fun x hxm => ?_, memWf_cons.2 ⟨hb, hx, hm⟩⟩
          rcases List.mem_cons.1 hxm with rfl | h'
          · simp; omega
          · have := hx x h'; omega

theorem memPutN_wf {m : Mem} (a : Nat) (bs : List Byte) (h : Memory.wf m = true) : Memory.wf (memPutN m a bs) = true := by
  induction bs generalizing m a with
  | nil => exact h
  | cons b bs ih => exact ih (a + 1) (memPut_wf a b h)

/-- A filter of a memory keeps the canonical form. -/
theorem memFilter_wf {m : Mem} (p : Host.Cell → Bool) (h : Memory.wf m = true) : Memory.wf (m.filter p) = true := by
  induction m with
  | nil => rfl
  | cons c m ih =>
    obtain ⟨a, b⟩ := c
    rw [memWf_cons] at h
    rw [List.filter_cons]
    split
    · rw [memWf_cons]
      exact ⟨h.1, fun x hx => h.2.1 x (List.mem_of_mem_filter hx), ih h.2.2⟩
    · exact ih h.2.2

theorem memZero_wf {m : Mem} (a n : Nat) (h : Memory.wf m = true) : Memory.wf (memZero m a n) = true := memFilter_wf _ h

/-- A read of the byte just written. -/
theorem memGet_put_same {m : Mem} (a : Nat) (b : Byte) (h : Memory.wf m = true) : memGet (memPut m a b) a = b := by
  induction m with
  | nil => simp only [memPut]; split <;> simp_all [memGet]
  | cons c m ih =>
    obtain ⟨a', b'⟩ := c
    rw [memWf_cons] at h
    obtain ⟨hb, hx, hm⟩ := h
    simp only [memPut]
    split
    · rename_i hlt
      simp only [memGet]
      rw [if_neg (by omega), if_neg (by omega)]
      exact ih hm
    · split
      · rename_i heq
        split
        · rename_i h0; subst heq h0; exact memGet_below hx
        · simp [memGet]
      · split
        · rename_i h1 h2 h0
          subst h0
          simp only [memGet]
          rw [if_neg (by omega), if_pos (by omega)]
        · simp [memGet]

/-- A write leaves every other address alone. -/
theorem memGet_put_ne {m : Mem} {a x : Nat} (b : Byte) (hx : x ≠ a) : memGet (memPut m a b) x = memGet m x ∨ Memory.wf m = false := by
  by_cases h : Memory.wf m = true
  · left
    induction m with
    | nil =>
      simp only [memPut]; split
      · rfl
      · simp [memGet, Ne.symm hx]
    | cons c m ih =>
      obtain ⟨a', b'⟩ := c
      rw [memWf_cons] at h
      obtain ⟨hb, hlt, hm⟩ := h
      simp only [memPut]
      split
      · simp only [memGet]; rw [ih hm]
      · split
        · rename_i heq
          subst heq
          split
          · simp only [memGet, Ne.symm hx, if_false]
            split
            · rw [memGet_below]; intro y hy; have := hlt y hy; omega
            · rfl
          · simp [memGet, Ne.symm hx]
        · split
          · rfl
          · rename_i h1 h2 h3
            simp only [memGet, Ne.symm hx, if_false]
            split
            · rw [if_neg (by omega), if_pos (by omega)]
            · rfl
  · right; simpa using h

theorem memGet_put_other {m : Mem} {a x : Nat} (b : Byte) (hx : x ≠ a) (h : Memory.wf m = true) : memGet (memPut m a b) x = memGet m x := by
  rcases memGet_put_ne (m := m) b hx with h' | h'
  · exact h'
  · simp [h] at h'

/-- Bytes written read back inside their range, and leave every address outside it alone. -/
theorem memGet_putN {m : Mem} (a : Nat) (bs : List Byte) (x : Nat) (h : Memory.wf m = true) :
    memGet (memPutN m a bs) x = if a ≤ x ∧ x < a + bs.length then bs.getD (x - a) 0#8 else memGet m x := by
  induction bs generalizing m a with
  | nil => simp only [memPutN, List.length_nil]; rw [if_neg (by omega)]
  | cons b bs ih =>
    simp only [memPutN, List.length_cons]
    rw [ih (a + 1) (memPut_wf a b h)]
    by_cases hx : x = a
    · subst hx
      rw [if_neg (by omega), if_pos (by omega), memGet_put_same _ _ h]; simp
    · by_cases hin : a + 1 ≤ x ∧ x < a + 1 + bs.length
      · rw [if_pos hin, if_pos (by omega)]
        obtain ⟨n, rfl⟩ : ∃ n, x = a + 1 + n := ⟨x - (a + 1), by omega⟩
        simp [show a + 1 + n - (a + 1) = n by omega, show a + 1 + n - a = n + 1 by omega]
      · rw [if_neg hin, if_neg (by omega), memGet_put_other b hx h]

end Sys2Proof.Laws
end

