-- ==== Sys2Proof/Laws/State.lean ====
section
/-! SUPPORT. What each primitive effect does to the module, one law per effect: the named field takes the value and every other stays. -/

namespace Sys2Proof.Laws

open Sys2Proof.Machine

@[simp] theorem apply_reg (d : Dev) (k : RegKey) (v : Word) :
    Eff.apply d (.reg k v) = { d with regs := tabPut d.regs k v } := rfl

@[simp] theorem apply_ctr (d : Dev) (k : CtrKey) (v : DWord) :
    Eff.apply d (.ctr k v) = { d with ctrs := tabPut d.ctrs k v } := rfl

@[simp] theorem apply_latch_some (d : Dev) (f : FnId) (v : Nat × Word) :
    Eff.apply d (.latch f (some v)) = { d with latches := tabPut d.latches f v } := rfl

@[simp] theorem apply_latch_none (d : Dev) (f : FnId) :
    Eff.apply d (.latch f none) = { d with latches := tabDel d.latches f } := rfl

@[simp] theorem apply_write (d : Dev) (r : Region) (a : Nat) (bs : List Byte) :
    Eff.apply d (.write r a bs) = { d with mems := tabPut d.mems r (memPutN (tabGet d.mems r []) a bs) } := rfl

@[simp] theorem apply_zero (d : Dev) (r : Region) (a : Nat) (n : Nat) :
    Eff.apply d (.zero r a n) = { d with mems := tabPut d.mems r (memZero (tabGet d.mems r []) a n) } := rfl

@[simp] theorem apply_drop (d : Dev) (r : Region) :
    Eff.apply d (.drop r) = { d with mems := tabDel d.mems r, bad := tabDel d.bad r } := rfl

@[simp] theorem apply_bad (d : Dev) (r : Region) (ws : List Nat) :
    Eff.apply d (.bad r ws) = { d with bad := tabPut d.bad r ws } := rfl

@[simp] theorem apply_pmap (d : Dev) (ss : List Nat) :
    Eff.apply d (.pmap ss) = { d with pmap := ss } := rfl

@[simp] theorem apply_grant (d : Dev) (k : Nat) (n : Nat) :
    Eff.apply d (.grant k n) = { d with grants := tabPut d.grants k (satAdd64 (tabGet d.grants k 0#64) n) } := rfl

@[simp] theorem apply_ret (d : Dev) (k : Nat) (n : Nat) :
    Eff.apply d (.ret k n) = if n ≤ outstanding d k then { d with returns := tabPut d.returns k (satAdd64 (tabGet d.returns k 0#64) n) } else d := rfl

@[simp] theorem apply_draw (d : Dev) :
    Eff.apply d (.draw) = { d with freeAt := d.freeAt + 1 } := rfl

@[simp] theorem apply_ev (d : Dev) (c : CoreId) (p : PartId) (i : Nat) (v : Nat) :
    Eff.apply d (.ev c p i v) = { d with evs := tabPut d.evs (c, p, i) v } := rfl

@[simp] theorem apply_slot (d : Dev) (c : CoreId) (k : SlotId) (s : Slot) :
    Eff.apply d (.slot c k s) = { d with slots := tabPut d.slots (c, k) s } := rfl

@[simp] theorem apply_arr (d : Dev) (c : CoreId) (a : Arr) :
    Eff.apply d (.arr c a) = { d with arrs := tabPut d.arrs c a } := rfl

@[simp] theorem apply_strmq (d : Dev) (c : CoreId) (q : List Queued) :
    Eff.apply d (.strmq c q) = { d with strmqs := tabPut d.strmqs c q } := rfl

@[simp] theorem apply_vec (d : Dev) (c : CoreId) (e : Eng) :
    Eff.apply d (.vec c e) = { d with vecs := tabPut d.vecs c e } := rfl

@[simp] theorem apply_lathe (d : Dev) (c : CoreId) (e : Eng) :
    Eff.apply d (.lathe c e) = { d with lathes := tabPut d.lathes c e } := rfl

@[simp] theorem apply_ftab (d : Dev) (c : CoreId) (i : Nat) (t : FTab) :
    Eff.apply d (.ftab c i t) = { d with ftabs := tabPut d.ftabs (c, i) t } := rfl

@[simp] theorem apply_stream_some (d : Dev) (c : CoreId) (s : StreamId) (x : Stream) :
    Eff.apply d (.stream c s (some x)) = { d with streams := tabPut d.streams (c, s) x } := rfl

@[simp] theorem apply_stream_none (d : Dev) (c : CoreId) (s : StreamId) :
    Eff.apply d (.stream c s none) = { d with streams := tabDel d.streams (c, s) } := rfl

@[simp] theorem apply_scrubs (d : Dev) (c : CoreId) (ss : List Nat) :
    Eff.apply d (.scrubs c ss) = { d with scrubs := tabPut d.scrubs c ss } := rfl

@[simp] theorem apply_wins (d : Dev) (ws : List Window) :
    Eff.apply d (.wins ws) = { d with wins := ws } := rfl

@[simp] theorem apply_pile (d : Dev) (p : PileId) (x : Pile) :
    Eff.apply d (.pile p x) = { d with piles := tabPut d.piles p x } := rfl

@[simp] theorem apply_part (d : Dev) (p : PartId) (x : Part) :
    Eff.apply d (.part p x) = { d with parts := tabPut d.parts p x } := rfl

@[simp] theorem apply_run (d : Dev) (p : PartId) (x : PartRun) :
    Eff.apply d (.run p x) = { d with runs := tabPut d.runs p x } := rfl

@[simp] theorem apply_task_some (d : Dev) (p : PartId) (t : Nat) (x : Task) :
    Eff.apply d (.task p t (some x)) = { d with tasks := tabPut d.tasks (p, t) x } := rfl

@[simp] theorem apply_task_none (d : Dev) (p : PartId) (t : Nat) :
    Eff.apply d (.task p t none) = { d with tasks := tabDel d.tasks (p, t) } := rfl

@[simp] theorem apply_fn (d : Dev) (f : FnId) (x : Fn) :
    Eff.apply d (.fn f x) = { d with fns := tabPut d.fns f x } := rfl

@[simp] theorem apply_link (d : Dev) (l : LinkId) (x : Link) :
    Eff.apply d (.link l x) = { d with links := tabPut d.links l x } := rfl

@[simp] theorem apply_asm_some (d : Dev) (h : Nat) (bs : List Byte) :
    Eff.apply d (.asm h (some bs)) = { d with asm := tabPut d.asm h bs } := rfl

@[simp] theorem apply_asm_none (d : Dev) (h : Nat) :
    Eff.apply d (.asm h none) = { d with asm := tabDel d.asm h } := rfl

@[simp] theorem apply_chan_some (d : Dev) (i : ChanIdx) (x : Chan) :
    Eff.apply d (.chan i (some x)) = { d with chans := tabPut d.chans i x } := rfl

@[simp] theorem apply_chan_none (d : Dev) (i : ChanIdx) :
    Eff.apply d (.chan i none) = { d with chans := tabDel d.chans i } := rfl

@[simp] theorem apply_chanGen (d : Dev) (i : Nat) (g : Nat) :
    Eff.apply d (.chanGen i g) = { d with chanGen := tabPut d.chanGen i g } := rfl

@[simp] theorem apply_chanList (d : Dev) (n : Nat) (o : List Nat) :
    Eff.apply d (.chanList n o) = { d with chanNew := n, chanOld := o } := rfl

@[simp] theorem apply_barrel (d : Dev) (p : PartId) (x : Barrel) :
    Eff.apply d (.barrel p x) = { d with barrels := tabPut d.barrels p x } := rfl

@[simp] theorem apply_esc (d : Dev) (p : PartId) (x : Esc) :
    Eff.apply d (.esc p x) = { d with escs := tabPut d.escs p x } := rfl

@[simp] theorem apply_xch (d : Dev) (k : DieId) (x : Xch) :
    Eff.apply d (.xch k x) = { d with xchs := tabPut d.xchs k x } := rfl

@[simp] theorem apply_auditSnap (d : Dev) :
    Eff.apply d (.auditSnap) = { d with snapG := d.grants, snapR := d.returns } := rfl

@[simp] theorem apply_pwr (d : Dev) (x : Pwr) :
    Eff.apply d (.pwr x) = { d with pwr := x } := rfl

@[simp] theorem apply_fw (d : Dev) (x : Fw) :
    Eff.apply d (.fw x) = { d with fw := x } := rfl

@[simp] theorem apply_secState (d : Dev) (n : Option (List Byte)) (u : Option (Nat × Nat)) (h : List Byte) (cs : List (List Byte)) (bs : List Binding) :
    Eff.apply d (.secState n u h cs bs) = { d with sec := { d.sec with nonce := n, unlock := u, header := h, comps := cs, conns := bs } } := rfl

@[simp] theorem apply_burnSvn (d : Dev) (n : Nat) :
    Eff.apply d (.burnSvn n) = { d with sec := { d.sec with svn := max d.sec.svn (min n 255) } } := rfl

@[simp] theorem apply_burnKey (d : Dev) (k : Nat) :
    Eff.apply d (.burnKey k) = if d.sec.revoked ||| 2 ^ (k % 4) < 15 then { d with sec := { d.sec with revoked := d.sec.revoked ||| 2 ^ (k % 4) } } else d := rfl

@[simp] theorem apply_strike (d : Dev) (x : Strike) :
    Eff.apply d (.strike x) = { d with strike := x } := rfl

@[simp] theorem apply_dbg (d : Dev) (b : Nat) (x : DbgBlk) :
    Eff.apply d (.dbg b x) = { d with dbg := tabPut d.dbg b x } := rfl

@[simp] theorem apply_pins (d : Dev) (x : Pins) :
    Eff.apply d (.pins x) = { d with pins := x } := rfl

@[simp] theorem apply_fullReset (d : Dev) (k : Bool) :
    Eff.apply d (.fullReset k) = d.fullReset k := rfl

@[simp] theorem apply_wipeFn (d : Dev) (f : FnId) :
    Eff.apply d (.wipeFn f) = { d with
    regs := d.regs.filter fun r => !((r.1.name.row.map fun y => y.blk == Blk.fn).getD false && r.1.unit == f.val)
    ctrs := d.ctrs.filter fun r => !((r.1.name.row.map fun y => y.blk == Blk.fn).getD false && r.1.unit == f.val) } := rfl

@[simp] theorem apply_retire (d : Dev) (c : CoreId) :
    Eff.apply d (.retire c) = { d with retired := setIns d.retired c.val } := rfl

@[simp] theorem apply_out (d : Dev) (o : Out) :
    Eff.apply d (.out o) = { d with out := d.out ++ [o] } := rfl

end Sys2Proof.Laws
end

