-- ==== Sys2Proof/Laws/Prog.lean ====
section
/-! SUPPORT. Laws of programs: how an action runs, piece by piece, and that whatever every primitive effect keeps every program keeps. -/

namespace Sys2Proof.Laws

open Sys2Proof.Machine Sys2Proof.Safety

variable {α β : Type}

/-! Running an action, piece by piece. -/

theorem runAct_def (m : Act Unit) (d : Dev) : runAct m d = Prog.run (m fun _ => .done) d := rfl

@[simp] theorem run_pure (a : α) (k : α → Prog) (d : Dev) : Prog.run ((pure a : Act α) k) d = (k a).run d := rfl

@[simp] theorem run_look (k : Dev → Prog) (d : Dev) : Prog.run (look k) d = (k d).run d := rfl

@[simp] theorem run_emit (e : Eff) (k : Unit → Prog) (d : Dev) : Prog.run (emit e k) d = (k ()).run (e.apply d) := rfl

@[simp] theorem run_bind (m : Act α) (f : α → Act β) (k : β → Prog) (d : Dev) :
    Prog.run ((m >>= f) k) d = Prog.run (m fun a => f a k) d := rfl

@[simp] theorem run_map (m : Act α) (f : α → β) (k : β → Prog) (d : Dev) : Prog.run ((f <$> m) k) d = Prog.run (m fun a => k (f a)) d := rfl

@[simp] theorem run_done (d : Dev) : Prog.run .done d = d := rfl

@[simp] theorem run_ite (c : Prop) [Decidable c] (m n : Act α) (k : α → Prog) (d : Dev) :
    Prog.run ((if c then m else n) k) d = if c then Prog.run (m k) d else Prog.run (n k) d := by split <;> rfl

@[simp] theorem run_onlyIf (b : Bool) (m : Act Unit) (k : Unit → Prog) (d : Dev) :
    Prog.run (onlyIf b m k) d = if b then Prog.run (m k) d else (k ()).run d := by cases b <;> rfl

@[simp] theorem run_onSome_none (f : α → Act Unit) (k : Unit → Prog) (d : Dev) : Prog.run (onSome none f k) d = (k ()).run d := rfl

@[simp] theorem run_onSome_some (a : α) (f : α → Act Unit) (k : Unit → Prog) (d : Dev) :
    Prog.run (onSome (some a) f k) d = Prog.run (f a k) d := rfl

@[simp] theorem run_each_nil (f : α → Act Unit) (k : Unit → Prog) (d : Dev) : Prog.run (each [] f k) d = (k ()).run d := rfl

@[simp] theorem run_each_cons (x : α) (xs : List α) (f : α → Act Unit) (k : Unit → Prog) (d : Dev) :
    Prog.run (each (x :: xs) f k) d = Prog.run (f x fun _ => each xs f k) d := rfl

/-! An action that runs from a module to an answer and another module (`Runs`), whatever comes after it. -/

theorem runAct_of_runs {m : Act Unit} {d d' : Dev} (h : Runs m d () d') : runAct m d = d' := h _

theorem runs_pure (a : α) (d : Dev) : Runs (Pure.pure a) d a d := fun _ => rfl

theorem runs_look (d : Dev) : Runs Machine.look d d d := fun _ => rfl

theorem runs_emit (e : Eff) (d : Dev) : Runs (Machine.emit e) d () (e.apply d) := fun _ => rfl

theorem runs_bind {m : Act α} {f : α → Act β} {d d' d'' : Dev} {a : α} {b : β} (h : Runs m d a d') (g : Runs (f a) d' b d'') :
    Runs (m >>= f) d b d'' := fun k => (h _).trans (g k)

theorem runs_onlyIf {b : Bool} {m : Act Unit} {d d' : Dev} (h : b = true → Runs m d () d') (g : b = false → d' = d) :
    Runs (Machine.onlyIf b m) d () d' := by
  cases b
  · rw [g rfl]; exact runs_pure _ _
  · exact h rfl

/-- An action that ends from every module: it answers some value and some module, and what comes after it cannot tell more. -/
def Ends (m : Act α) : Prop := ∀ d, ∃ a d', Runs m d a d'

theorem Ends.pure (a : α) : Ends (Pure.pure a : Act α) := fun d => ⟨a, d, runs_pure a d⟩

theorem Ends.look : Ends Machine.look := fun d => ⟨d, d, runs_look d⟩

theorem Ends.emit (e : Eff) : Ends (Machine.emit e) := fun d => ⟨(), e.apply d, runs_emit e d⟩

theorem Ends.bind {m : Act α} {f : α → Act β} (h : Ends m) (g : ∀ a, Ends (f a)) : Ends (m >>= f) := fun d =>
  let ⟨a, d', h'⟩ := h d
  let ⟨b, d'', g'⟩ := g a d'
  ⟨b, d'', runs_bind h' g'⟩

theorem Ends.map {m : Act α} {f : α → β} (h : Ends m) : Ends (f <$> m) := fun d =>
  let ⟨a, d', h'⟩ := h d
  ⟨f a, d', fun k => h' fun a => k (f a)⟩

theorem Ends.onlyIf {b : Bool} {m : Act Unit} (h : Ends m) : Ends (Machine.onlyIf b m) := by
  cases b
  · exact Ends.pure _
  · exact h

theorem Ends.ite {c : Prop} [Decidable c] {m n : Act α} (h : Ends m) (g : Ends n) : Ends (if c then m else n) := by
  split
  · exact h
  · exact g

theorem Ends.onSome {o : Option α} {f : α → Act Unit} (h : ∀ a, Ends (f a)) : Ends (Machine.onSome o f) := by
  cases o
  · exact Ends.pure _
  · exact h _

theorem Ends.each {f : α → Act Unit} (h : ∀ a, Ends (f a)) : ∀ xs : List α, Ends (Machine.each xs f)
  | [] => Ends.pure _
  | x :: xs => Ends.bind (h x) fun _ => Ends.each h xs

/-- What comes after an action that ends starts from the module it leaves. -/
theorem Ends.run {m : Act Unit} (h : Ends m) (d : Dev) (k : Unit → Prog) : Prog.run (m k) d = Prog.run (k ()) (runAct m d) := by
  obtain ⟨_, d', h'⟩ := h d
  rw [h' k, runAct_of_runs h']

/-- One action after another: the second runs from what the first leaves. -/
theorem Ends.runAct_then {m n : Act Unit} (h : Ends m) (d : Dev) : runAct (do m; n) d = runAct n (runAct m d) := h.run d _

/-! The shared writes of registers and counters. -/

@[simp] theorem run_setReg (n : RegName) (u i v : Nat) (k : Unit → Prog) (d : Dev) :
    Prog.run (setReg n u i v k) d = Prog.run (k ()) { d with regs := tabPut d.regs ⟨n, u, i⟩ (toWord v) } := rfl

@[simp] theorem run_orReg (n : RegName) (u i v : Nat) (k : Unit → Prog) (d : Dev) :
    Prog.run (orReg n u i v k) d = Prog.run (k ()) { d with regs := tabPut d.regs ⟨n, u, i⟩ (toWord (regOf d n u i ||| v)) } := rfl

@[simp] theorem run_setField (n : RegName) (u i hi lo v : Nat) (k : Unit → Prog) (d : Dev) :
    Prog.run (setField n u i hi lo v k) d =
      Prog.run (k ()) { d with regs := tabPut d.regs ⟨n, u, i⟩ (toWord (putBits (regOf d n u i) hi lo v)) } := rfl

@[simp] theorem run_count (c : CtrName) (u n i : Nat) (k : Unit → Prog) (d : Dev) :
    Prog.run (count c u n i k) d = Prog.run (k ()) (counted d c u n i) := by
  simp only [count, run_bind, run_look, run_onlyIf, run_emit, counted, apply_ctr]
  split <;> rfl

@[simp] theorem run_gauge (c : CtrName) (u v : Nat) (k : Unit → Prog) (d : Dev) :
    Prog.run (gauge c u v k) d = Prog.run (k ()) { d with ctrs := tabPut d.ctrs ⟨c, u, 0⟩ (BitVec.ofNat 64 v) } := rfl

theorem ends_setReg (n : RegName) (u i v : Nat) : Ends (setReg n u i v) := Ends.emit _

theorem ends_setField (n : RegName) (u i hi lo v : Nat) : Ends (setField n u i hi lo v) := Ends.look.bind fun _ => Ends.emit _

theorem ends_count (c : CtrName) (u n i : Nat) : Ends (count c u n i) := Ends.look.bind fun _ => (Ends.emit _).onlyIf

/-! What every effect keeps, every program keeps. -/

/-- A relation between modules that holds of every effect, from a module to itself, and one after the other, holds of every program. -/
theorem run_rel (R : Dev → Dev → Prop) (refl : ∀ d, R d d) (trans : ∀ a b c, R a b → R b c → R a c) (eff : ∀ d e, R d (Eff.apply d e)) :
    ∀ (m : Prog) (d : Dev), R d (m.run d)
  | .done, d => refl d
  | .ask k, d => run_rel R refl trans eff (k d) d
  | .eff e k, d => trans _ _ _ (eff d e) (run_rel R refl trans eff k _)

/-- A property that every effect keeps is kept by every program. -/
theorem run_keeps (P : Dev → Prop) (eff : ∀ d e, P d → P (Eff.apply d e)) (m : Prog) (d : Dev) (h : P d) : P (m.run d) :=
  run_rel (fun a b => P a → P b) (fun _ => id) (fun _ _ _ f g => g ∘ f) eff m d h

/-! Actions that use only some effects. -/

/-- Every effect of a program is one that `Q` names, whatever the program meets. -/
def ProgOnly (Q : Eff → Prop) : Prog → Prop
  | .done => True
  | .ask k => ∀ d, ProgOnly Q (k d)
  | .eff e k => Q e ∧ ProgOnly Q k

/-- Every effect of an action is one that `Q` names. -/
def Only (Q : Eff → Prop) (m : Act α) : Prop := ∀ k : α → Prog, (∀ a, ProgOnly Q (k a)) → ProgOnly Q (m k)

theorem Only.pure (Q : Eff → Prop) (a : α) : Only Q (Pure.pure a : Act α) := fun _ h => h a

theorem Only.look (Q : Eff → Prop) : Only Q Machine.look := fun _ h d => h d

theorem Only.emit {Q : Eff → Prop} {e : Eff} (he : Q e) : Only Q (Machine.emit e) := fun _ h => ⟨he, h ()⟩

theorem Only.bind {Q : Eff → Prop} {m : Act α} {f : α → Act β} (h : Only Q m) (g : ∀ a, Only Q (f a)) : Only Q (m >>= f) :=
  fun k hk => h _ fun a => g a k hk

theorem Only.map {Q : Eff → Prop} {m : Act α} {f : α → β} (h : Only Q m) : Only Q (f <$> m) := fun _ hk => h _ fun a => hk (f a)

theorem Only.onlyIf {Q : Eff → Prop} {b : Bool} {m : Act Unit} (h : Only Q m) : Only Q (Machine.onlyIf b m) := by
  cases b
  · exact Only.pure Q _
  · exact h

theorem Only.ite {Q : Eff → Prop} {c : Prop} [Decidable c] {m n : Act α} (h : c → Only Q m) (g : ¬ c → Only Q n) : Only Q (if c then m else n) := by
  split
  · exact h ‹_›
  · exact g ‹_›

theorem Only.onSome {Q : Eff → Prop} {o : Option α} {f : α → Act Unit} (h : ∀ a, Only Q (f a)) : Only Q (Machine.onSome o f) := by
  cases o
  · exact Only.pure Q _
  · exact h _

theorem Only.each {Q : Eff → Prop} {f : α → Act Unit} (h : ∀ a, Only Q (f a)) : ∀ xs : List α, Only Q (Machine.each xs f)
  | [] => Only.pure Q _
  | x :: xs => Only.bind (h x) fun _ => Only.each h xs

/-- What the effects that an action uses keep, the action keeps. -/
theorem Only.keeps {Q : Eff → Prop} {m : Act Unit} (h : Only Q m) (R : Dev → Dev → Prop) (refl : ∀ d, R d d)
    (trans : ∀ a b c, R a b → R b c → R a c) (eff : ∀ d e, Q e → R d (Eff.apply d e)) (d : Dev) : R d (runAct m d) := by
  have key : ∀ (p : Prog), ProgOnly Q p → ∀ d, R d (p.run d) := by
    intro p
    induction p with
    | done => intro _ d; exact refl d
    | ask k ih => intro hp d; exact ih d (hp d) d
    | eff e k ih => intro hp d; exact trans _ _ _ (eff d e hp.1) (ih hp.2 _)
  exact key _ (h (fun _ => .done) fun _ => trivial) d

end Sys2Proof.Laws
end

