-- ==== Sys2Proof/Laws/Ops.lean ====
section
/-! SUPPORT. What the shared operations do, said once: a command with power, the issue of a command, an admin command at the head of its ring, and
what a step keeps. -/

namespace Sys2Proof.Laws

open Sys2Proof.Machine Sys2Proof.Safety

/-- A command that acts with power runs its action, and then the module's engines go on. -/
theorem after_awake {s : State} {m : Act Unit} (h : awake s.dev = true) : after m s = .next { s with dev := settle (runAct m s.dev) } := by
  simp only [after, guarded, runAct_def, run_bind, run_look, run_onlyIf, h, if_true]

/-- A command that acts with power answers the module that its action runs to. -/
theorem answers_of_runs {s : State} {i : Instr} {m : Act Unit} {d : Dev} (he : exec i s = after m s) (ha : awake s.dev = true) (h : Runs m s.dev () d) :
    Answers i s d := by
  rw [Answers, he, after_awake ha, runAct_of_runs h]

theorem ends_taskIssued (p : PartId) (tid : Nat) : Ends (taskIssued p tid) := by
  unfold taskIssued
  repeat (first
    | exact Ends.pure _
    | exact Ends.look
    | exact Ends.emit _
    | exact ends_count _ _ _ _
    | apply Ends.onlyIf
    | (apply Ends.onSome; intro _)
    | (apply Ends.bind; rotate_left; intro _; rotate_left))

/-- The issue of a command of the kind wanted goes on with its action on the slot as it stands behind the command. -/
theorem run_issue {d : Dev} {c : CoreId} {k : SlotId} {op : Op} {len w : Nat} {again busy : Bool} {want : Op → Nat → Bool} {act : Slot → Nat → Nat → Act Unit}
    (h : Takes d c k op len w again) (hw : want op w = true) (g : Unit → Prog) :
    Prog.run (issue c k want busy act g) d = Prog.run (act (slotOf d c k) w (slotOf d c k).seq g) (issued d c k len again busy) := by
  obtain ⟨h1, h2⟩ := h
  simp only [issue, run_bind, run_look, h1, h2, hw, if_true, issued, runAct_def, run_emit, run_count]
  rw [(ends_taskIssued _ _).run, (ends_taskIssued _ _).run]
  rfl

/-- A command that the issue stage takes answers what its action makes of the module it was issued in. -/
theorem issue_answers {s : State} {i : Instr} {c : CoreId} {k : SlotId} {op : Op} {len w : Nat} {again busy : Bool} {want : Op → Nat → Bool}
    {act : Slot → Nat → Nat → Act Unit} (ha : awake s.dev = true) (h : Takes s.dev c k op len w again) (he : exec i s = after (issue c k want busy act) s)
    (hw : want op w = true) {d : Dev} (hd : runAct (act (slotOf s.dev c k) w (slotOf s.dev c k).seq) (issued s.dev c k len again busy) = d) :
    Answers i s d := by
  rw [Answers, he, after_awake ha, ← hd]
  simp only [runAct_def, run_issue h hw]

/-- An admin command that has its turn answers what its body answers, taken and posted. -/
theorem admin_run {s : State} {f : FnId} {host e b : List Byte} {d : Dev} (h : AdminTurn s.dev f host e b d) {i : Instr} {mine : List Byte → Bool}
    {body : FnId → PartId → Nat → List Byte → Act Reply} (he : exec i s = after (adminCmd f mine host body) s) (hm : mine e = true) :
    exec i s = .next { s with dev := settle (Prog.run ((body f (Fin.ofNat 16 (cmdPart e)) (cmdTag e) b) fun r => (match r with
      | .wait => pure ()
      | .later => adminTaken f
      | .done st detail res => do
        adminTaken f
        adminPost f (adminBytes (cmdTag e) st detail 0 res) : Act Unit) fun _ => .done) d) } := by
  obtain ⟨hp, w, h1, h2, h3, h4, h5, h6⟩ := h
  rw [he, after_awake hp, runAct_def, adminCmd, run_bind, h1, run_bind, run_look]
  subst h3
  simp only [run_onlyIf, h2, hm, Bool.and_self, if_true, run_bind, h4, h5]
  subst h6
  congr 2
  by_cases hh : inHost (adminHead w f) = true
  · simp only [hh, if_true, run_emit]
    rfl
  · simp only [hh]
    rfl

/-- A relation between modules that every effect keeps holds of `settle`. -/
theorem settle_rel (R : Dev → Dev → Prop) (refl : ∀ d, R d d) (trans : ∀ a b c, R a b → R b c → R a c) (eff : ∀ d e, R d (Eff.apply d e)) (d : Dev) :
    R d (settle d) := by
  unfold settle
  split
  · exact run_rel R refl trans eff _ d
  · exact refl d

end Sys2Proof.Laws
end

