-- ==== Sys2Proof/WellFormed.lean ====
section
/-! DEFINITION. Which commands are well formed: the bytes that a command carries have the lengths the spec lays down, and
numbers that are not bounded by their types lie in the spec's ranges. -/

namespace Sys2Proof

/-- A port access lies in the 4 MiB scratchpad (R95). -/
def PortAccess.wf (a : PortAccess) : Bool := decide (a.off + a.len ≤ 4194304)

/-- The environment of an island command names accesses of the scratchpad, and words of the scratchpad or, from 524,288 up, of the
chuck (R95, R132). -/
def IslandEnv.wf (e : IslandEnv) : Bool :=
  e.meet.all (fun m => m.all PortAccess.wf) && e.parity.all (fun h => decide (h.word < 557056))

/-- A fabric message is at most one exchange message, 4,096 B (R375). -/
def MsgSrc.wf : MsgSrc → Bool
  | .ring _ => true
  | .fabric bs => decide (bs.length ≤ 4096)

/-- Failing words are numbered 0–256, and a word that fails the re-read failed the first read (R296). -/
def SegErrors.wf (e : SegErrors) : Bool :=
  e.first.all (fun w => decide (w < 257)) && e.reread.all (fun w => e.first.contains w)

/-- A data frame or link frame is a unit of 33 words, and bad words are numbered 0–32 (R331). -/
def frameWf (words : List DWord) (bad : List Nat) : Bool :=
  words.length == 33 && bad.all (fun w => decide (w < 33))

/-- Well-formedness of a command. -/
def Instr.wf : Instr → Bool
  | .sload _ _ e | .pass _ _ e | .vop _ _ e | .funcForward _ _ e | .funcDerivative _ _ e
  | .normFwd _ _ e | .rmsFwd _ _ e | .normBwd _ _ e | .rmsBwd _ _ e | .smaxFwd _ _ e | .smaxRun _ _ e
  | .smaxBwd _ _ e | .chuckLoad _ _ e | .chuckStore _ _ e | .update _ _ e => e.wf
  | .dispatchMessageArrival _ s | .returnMessageArrival _ s | .rerunReqArrival _ s | .contributionMessage _ s
  | .gatherReceived _ s | .releaseReceived _ s | .abandonReceived _ s | .queryReceived _ s
  | .resolveReceived _ s | .answerReceived _ s => s.wf
  | .workNop _ _ d | .stepBegin _ _ d | .task _ _ d | .deps _ _ d | .stepEnd _ _ d | .item _ _ d =>
    d.length == 64
  | .accumulatorZeroDone _ i | .updateTaskPlacement _ i => decide (i < 1048576)
  | .dataWindowRead _ off len => decide (off + len ≤ 268435456)
  | .dataWindowWrite _ off bs _ => decide (off + bs.length ≤ 268435456)
  | .counterLowRead _ off | .counterClear _ off => decide (off < 67108864)
  | .registerWrite _ off _ _ => decide (off < 67108864)
  | .scrubComplete _ first n => decide (1 ≤ n.slots ∧ first + n.slots ≤ 64)
  | .dataFrameReceived _ ws bad | .linkFrameReceived _ ws bad => frameWf ws bad
  | .laneErrorWindow l lane | .laneSignalLoss l lane | .laneReadmitTimer l lane =>
    decide (l.val % 4 ≤ lane.val / 8)
  | .hello _ m | .helloAck _ m | .channelStatus _ m | .bye _ m | .byeAbort _ m => m.length == 32
  | .channelMessageArrival _ bs _ => decide (bs.length ≤ 4096)
  | .rmaReadRequest _ m | .rmaError _ m => m.length == 16
  | .rmaReadResponse _ m | .rmaWrite _ m => decide (16 < m.length ∧ m.length ≤ 4112)
  | .barrelApertureWrite _ va bs _ => decide (va + bs.length ≤ 281474976710656)
  | .barrelApertureRead _ va len => decide (va + len ≤ 281474976710656)
  | .pileRead _ va len e => decide (va + len ≤ 281474976710656) && e.wf
  | .pileWrite _ va bs _ => decide (va + bs.length ≤ 281474976710656)
  | .pileAtomic _ va _ _ => decide (va < 281474976710656) && va % 4 == 0
  | .patrolRead _ e => e.wf
  | .thermalSensorSample ds ps => ds.length == 16 && ps.length == 8
  | .pldmSensorRead _ id => decide (1 ≤ id ∧ id ≤ 29)
  | .challenge _ _ n | .getMeasurements _ _ _ n => n.length == 32
  | .mailboxMessage _ _ m => m.length == 64
  | .logAppend e => decide (e.payload.length ≤ 32)
  | .partitionCreate _ b => decide (b.length ≤ 256 + 16 * 4096)
  | .fwLoad _ b _ | .bundleDmaComplete b _ => decide (b.length ≤ 8388608)
  | _ => true

end Sys2Proof
end

