-- ==== Sys2Proof/Tests/Slice0.lean ====
section
/-! SUPPORT. Small tests: an ill-formed command for each check of WellFormed, the queue, and the spec's worked examples (each names its place). -/

open Sys2Proof Sys2Proof.Machine

namespace Sys2Proof.Tests

/-! WellFormed: one command that each check refuses, and one that it takes. -/

theorem test_wf_access : PortAccess.wf ⟨.vecRead, 4194300, 5⟩ = false ∧ PortAccess.wf ⟨.vecRead, 4194300, 4⟩ = true := by decide

theorem test_wf_env : (Instr.vop 0 0 ⟨0, 0, [[⟨.stream, 4194304, 1⟩]], []⟩).wf = false ∧ (Instr.pass 0 0 ⟨0, 0, [], [⟨557056, false⟩]⟩).wf = false ∧
    (Instr.sload 0 0 ⟨3, 1, [], [⟨557055, true⟩]⟩).wf = true := by decide

theorem test_wf_source : (MsgSrc.fabric (List.replicate 4097 0#8)).wf = false ∧ (MsgSrc.ring 7).wf = true := by decide +kernel

theorem test_wf_segment : (Instr.patrolRead 0 ⟨[257], [], ⟨0, false⟩, false⟩).wf = false ∧ (Instr.patrolRead 0 ⟨[256], [255], ⟨0, false⟩, false⟩).wf = false ∧
    (Instr.patrolRead 0 ⟨[256], [256], ⟨0, false⟩, false⟩).wf = true := by decide

theorem test_wf_frames : (Instr.dataFrameReceived 0 [] []).wf = false ∧ (Instr.linkFrameReceived 0 (List.replicate 33 0#64) [33]).wf = false ∧
    (Instr.dataFrameReceived 0 (List.replicate 33 0#64) [32]).wf = true := by decide

theorem test_wf_descriptors : (Instr.task 0 0 (List.replicate 63 0#8)).wf = false ∧ (Instr.item 0 0 (List.replicate 65 0#8)).wf = false ∧
    (Instr.workNop 0 0 (List.replicate 64 0#8)).wf = true := by decide

theorem test_wf_slices : (Instr.accumulatorZeroDone 0 1048576).wf = false ∧ (Instr.updateTaskPlacement 0 1048575).wf = true := by decide

theorem test_wf_windows : (Instr.dataWindowRead 0 268435455 2).wf = false ∧ (Instr.dataWindowWrite 0 268435456 [0#8] false).wf = false ∧
    (Instr.dataWindowRead 0 268435455 1).wf = true := by decide

theorem test_wf_registers : (Instr.registerWrite 0 67108864 4 0).wf = false ∧ (Instr.counterLowRead 0 67108864).wf = false ∧
    (Instr.counterClear 0 67108860).wf = true := by decide

theorem test_wf_scrub : (Instr.scrubComplete 0 0 ⟨0, 0⟩).wf = false ∧ (Instr.scrubComplete 0 63 ⟨2, 0⟩).wf = false ∧ (Instr.scrubComplete 0 63 ⟨1, 0⟩).wf = true := by decide

theorem test_wf_lanes : (Instr.laneSignalLoss 1 7).wf = false ∧ (Instr.laneErrorWindow 3 24).wf = true := by decide

theorem test_wf_messages : (Instr.hello 0 []).wf = false ∧ (Instr.bye 0 (List.replicate 32 0#8)).wf = true ∧
    (Instr.rmaError 0 []).wf = false ∧ (Instr.rmaWrite 0 (List.replicate 16 0#8)).wf = false ∧ (Instr.rmaWrite 0 (List.replicate 17 0#8)).wf = true := by decide

theorem test_wf_piles : (Instr.pileRead 0 281474976710656 1 ⟨[], [], ⟨0, false⟩, false⟩).wf = false ∧ (Instr.pileWrite 0 281474976710656 [0#8] ⟨false, ⟨0, false⟩⟩).wf = false ∧
    (Instr.pileAtomic 0 2 .satAdd 0).wf = false ∧ (Instr.pileAtomic 0 4 .satAdd 0).wf = true := by decide

theorem test_wf_barrel : (Instr.barrelApertureRead 0 281474976710656 1).wf = false ∧ (Instr.barrelApertureWrite 0 281474976710656 [0#8] false).wf = false ∧
    (Instr.barrelApertureRead 0 0 64).wf = true := by decide

theorem test_wf_sensors : (Instr.thermalSensorSample [] []).wf = false ∧ (Instr.pldmSensorRead .sideband 0).wf = false ∧
    (Instr.pldmSensorRead .sideband 30).wf = false ∧ (Instr.pldmSensorRead .sideband 29).wf = true := by decide

theorem test_wf_security : (Instr.challenge .pcieA 0 []).wf = false ∧ (Instr.mailboxMessage 0 1 []).wf = false ∧
    (Instr.getMeasurements .pcieA 1 true (List.replicate 32 0#8)).wf = true := by decide

theorem test_wf_log : (Instr.logAppend ⟨0, 0, 0, none, List.replicate 33 0#8⟩).wf = false ∧ (Instr.logAppend ⟨0, 0, 0, none, []⟩).wf = true := by decide

/-! The table gives no word a command, so withFetchWord changes nothing. -/

theorem test_no_words : decodeTableWord 8 0 = none ∧ State.reset.withFetchWord 8 0 = State.reset := by decide

/-! The queue: first in, first out. -/

theorem test_queue : (∃ t, step ⟨[.vinEnBreak, .nop 0 0], Dev.reset⟩ = .next t ∧ t.pending = [.nop 0 0] ∧ t.dev.pwr.shut = true) ∧
    step State.reset = .next State.reset := ⟨⟨_, rfl, rfl, by decide⟩, rfl⟩

/-! Worked examples of the spec. -/

/-- 02_number_formats.md: 28 is code 0x1F of F6. -/
theorem test_f6_28 : encodeElem .f6 0 false 0 (.num 28) = (0x1F, {}) ∧ decodeElem .f6 0x1F = (.num 28, {}) := by decide +kernel

/-- 02_number_formats.md: a row of 8,192 F8a elements occupies 8,448 bytes. -/
theorem test_row_bytes : rowBytes .f8a 8192 = 8448 := by decide

/-- 02_number_formats.md: the block encoded to F4 with largest magnitude 20.0 has scale 129 and these codes. -/
theorem test_f4_block :
    chooseScale .f4 [.num 20, .num 13, .num (-9), .num (31 / 10), .num (3 / 10)] = 129 ∧
    ([Val.num 20, .num 13, .num (-9), .num (31 / 10), .num (3 / 10), .nan].map fun v => (encodeElem .f4 0 false 0 (v.unscale 129)).1) =
      [0b0110, 0b0101, 0b1100, 0b0001, 0b0000, 0b1000] := by decide +kernel

/-- 02_number_formats.md: a gradient of 0.0003 under base −24 is counted in bin 14. -/
theorem test_histogram_bin : histBin (-24) (.num (3 / 10000)) = 14 := by decide +kernel

/-- 04_core_threads_scratchpad.md: the banks of the array row, the vector read and the landing of the worked example. -/
theorem test_banks : banksOf 0x24100 264 = [4, 5, 6, 7, 8] ∧ banksOf 0x30200 256 = [8, 9, 10, 11] ∧ banksOf 0x50A00 256 = [8, 9, 10, 11] := by decide

/-- 04_core_threads_scratchpad.md: those three accesses freeze the island for one cycle and defer the stream for two. -/
theorem test_bank_meet :
    let d := runAct (bankMeets 0 ⟨0, 0, [[⟨.arrayRow, 0x24100, 264⟩, ⟨.vecRead, 0x30200, 256⟩, ⟨.stream, 0x50A00, 256⟩]], []⟩) Dev.reset
    ctrOf d .CORE_FREEZE_BANK 0 = 1 ∧ ctrOf d .SPAD_STREAM_DEFER 0 = 2 := by decide +kernel

/-- 17_power_clocks_thermal.md: a charge of 700 W against an estimate of 1,100 W is a ratio of 162. -/
theorem test_power_ratio :
    partRatio { Dev.reset with regs := [(⟨.SCHED_QUOTA_POWER, 2, 0⟩, 700#32), (⟨.PWR_PART_EST, 0, 2⟩, 1100#32)] } 2 = 162 := by decide +kernel

end Sys2Proof.Tests
end

