-- ==== Sys2Proof/Tests/Witness.lean ====
section
/-! SUPPORT. Witnesses: for each statement with premises, concrete states and operands that meet them together (`witness_<statement>`). -/

open Sys2Proof Sys2Proof.Machine Sys2Proof.Safety Sys2Proof.Laws

namespace Sys2Proof.Tests

/-- The module right after reset. -/
abbrev d0 : Dev := Dev.reset

/-- A state with no command waiting. -/
abbrev on (d : Dev) : State := ⟨[], d⟩

/-- A READY slot whose buffer holds the bytes of one command, `n` bytes spelling `w`. -/
def slotWith (n w : Nat) : Slot := { Slot.empty with
  st := .ready
  size := 1
  bytes := n
  buf := leBytes n w }

/-- Core 0 with a READY slot 0 that is about to issue command `w` of `n` bytes. -/
def coreWith (n w : Nat) : Dev := { d0 with slots := [((0, 0), slotWith n w)] }

/-- A page table of partition 0 at physical 0 whose one 2 MiB page maps virtual 0 to physical 2 MiB, writable and open to streams. -/
def tables : Mem :=
  memPutN (memPutN (memPutN [] 0 (leBytes 8 0x8000000000000001)) 0x2000 (leBytes 8 0x8000000000000002)) 0x4000 (leBytes 8 0x9C00000000000100)

/-- A module in which partition 0 has that page, with the root latched, and four bytes at 0x100 in it. -/
def mapped : Dev := { d0 with
  runs := [(0, { PartRun.empty with latch := [((.PILE_MMU_ROOT_LO, 0), 1)] })]
  mems := [(.pile, memPutN tables 0x200100 [1#8, 2#8, 3#8, 4#8])] }

/-- Premises of `IssueStageCommands`: each command, with its counter reached or not and the slot idle or not. -/
theorem witness_IssueStageCommands :
    awake (coreWith 8 0) = true ∧ Takes (coreWith 8 0) 0 0 .nop 8 0 false ∧ Takes (coreWith 8 1) 0 0 .end_ 8 1 false ∧
    (let w := 2 + 3 * 2 ^ 40 + 1 * 2 ^ 48
     Takes (coreWith 8 w) 0 0 .wait 8 w false ∧ evOf (issued (coreWith 8 w) 0 0 8 false false) 0 0 (bitsOf w 44 40) < bitsOf w 63 48) ∧
    (let w := 2 + 3 * 2 ^ 40
     Takes (coreWith 8 w) 0 0 .wait 8 w false ∧ bitsOf w 63 48 ≤ evOf (issued (coreWith 8 w) 0 0 8 false false) 0 0 (bitsOf w 44 40)) ∧
    (∀ busy ∈ [[], [9]], let d : Dev := { d0 with slots := [((0, 0), { slotWith 8 4 with busy := busy })] }
      issuer d 0 = some 0 ∧ nextCmd (slotOf d 0 0) = .cmd .fence 8 4 false ∧ (slotOf (issued d 0 0 8 false false) 0 0).idle = busy.isEmpty) ∧
    (∀ w ∈ [3, 3 + 2 ^ 45], issuer (coreWith 8 w) 0 = some 0 ∧ nextCmd (slotOf (coreWith 8 w) 0 0) = .cmd .signal 8 w false) ∧
    bitsOf 3 47 45 = 0 ∧ bitsOf (3 + 2 ^ 45) 47 45 = 1 :=
  ⟨by decide, ⟨by decide, by decide⟩, ⟨by decide, by decide⟩, ⟨⟨by decide, by decide⟩, by decide⟩, ⟨⟨by decide, by decide⟩, by decide⟩, by decide, by decide,
    by decide, by decide⟩

/-- A module that meets the invariant and is not the reset one: core 3 is retired, one byte of pile memory is not 0, one unit of class 3 is out, and
one bundle key is revoked. -/
def sound : Dev := { d0 with
  mems := [(.pile, [(5, 7#8)])]
  grants := [(3, 2#64)]
  returns := [(3, 1#64)]
  sec := { Sec.reset with
    svn := 255
    revoked := 14 }
  retired := [3, 799] }

/-- Premises of `StepTakesTheFront`: a queue with two commands, and an empty one. -/
theorem witness_StepTakesTheFront : (⟨[.vinEnBreak, .nop 0 0], d0⟩ : State).pending = [.vinEnBreak, .nop 0 0] ∧ (on d0).pending = [] := ⟨rfl, rfl⟩

/-- Premises of `StepKeepsInvariant`: a module that meets the invariant and is not the reset one. -/
theorem witness_StepKeepsInvariant : MemsSound sound ∧ FusesSound sound ∧ RetireSound sound ∧ ∀ k, (tabGet sound.returns k 0#64).toNat ≤ (tabGet sound.grants k 0#64).toNat := by
  refine ⟨?_, ⟨by decide, by decide⟩, ⟨by decide, by decide⟩, fun k => ?_⟩
  · intro x hx
    simp only [sound, List.mem_singleton] at hx
    subst hx
    decide
  · by_cases h : k = 3
    · subst h; decide
    · have e : ∀ v : BitVec 64, tabGet [((3 : Nat), v)] k 0#64 = 0#64 := fun v => by
        simp [tabGet, tabFind, Ne.symm h]
      simp [sound, e]

/-- Premises of `StepKeepsInvariant`: and it takes a step; so too for `StepKeepsFuses` and `StepKeepsSent`. -/
theorem witness_StepKeepsInvariant_step : ∃ t, step ⟨[.vinEnBreak], sound⟩ = .next t ∧ t.dev.pwr.shut = true := ⟨_, rfl, by decide⟩

/-- Premises of `WithoutPowerNothingHappens` at concrete states and operands. -/
theorem witness_WithoutPowerNothingHappens : awake { d0 with pwr := { Pwr.reset with trip := true } } = false ∧ unpowered (.nop 0 0) = false := by decide

/-- Premises of `SharedOperationsFrame` at concrete states and operands. -/
theorem witness_SharedOperationsFrame : (fnOf d0 8).st = .active ∧ adminFull d0 8 = false ∧ goesOn d0 = false ∧
    (⟨.CORE_ISSUE_COUNT, 1, 0⟩ : CtrKey) ≠ ⟨.CORE_ISSUE_COUNT, 0, 0⟩ ∧ ((0, 1) : CoreId × SlotId) ≠ (0, 0) := by decide

/-- Premises of `MemoryReadsBack` at concrete states and operands. -/
theorem witness_MemoryReadsBack : MemsSound { d0 with mems := [(.pile, [(5, 7#8)])] } ∧ Region.log ≠ Region.pile := by
  refine ⟨fun x hx => ?_, by decide⟩
  simp only [List.mem_singleton] at hx
  subst hx
  decide

/-- Premises of `CounterControls` at concrete states and operands. -/
theorem witness_CounterControls : RegName.ARR_CTRL.row.isSome = true ∧ RegName.XCH_CTRL.row.isSome = true ∧ regOf d0 .ARR_CTRL 0 < 2 ∧ regOf d0 .XCH_CTRL 0 < 2 ∧
    domOf { d0 with pwr := { d0.pwr with doms := d0.pwr.doms.set 31 .on } } (799 / 25) = .on := by
  decide

/-- Premises of `CounterReads`: the low word; the high word with the latch and without. -/
theorem witness_CounterReads :
    (let d : Dev := { d0 with ctrs := [(⟨.PWR_ENERGY_MJ, 0, 0⟩, 0x1_0000_0002#64)] }
     reaches d 0 = true ∧ Runs wakeFabric d () d ∧ barDecodes d 0 0x1200 = true ∧ counterAt d 0 0x1200 = some (0x1_0000_0002, false)) ∧
    (let d : Dev := { d0 with latches := [(0, 0x1200, 1#32)] }
     reaches d 0 = true ∧ Runs wakeFabric d () d ∧ barDecodes d 0 0x1204 = true ∧ counterAt d 0 0x1204 = some (0, true) ∧
       tabFind d.latches 0 = some (0x1200, 1#32)) ∧
    (reaches d0 0 = true ∧ counterAt d0 0 0x1204 = some (0, true) ∧ ∀ low w, tabFind d0.latches 0 = some (low, w) → low + 4 ≠ 0x1204) ∧
    counting d0 .ARR_PASS_COUNT 799 = true := by
  refine ⟨⟨by decide, fun _ => rfl, by decide, by decide⟩, ⟨by decide, fun _ => rfl, by decide, by decide, by decide⟩,
    ⟨by decide, by decide, ?_⟩, by decide⟩
  intro _ _ h
  cases h

/-- Premises of `NumberEdges`: a subnormal, results just beyond the largest finite magnitude, and integers at their limits. -/
theorem witness_NumberEdges :
    0x03FF >>> Fmt.f16.row.mbits % 2 ^ Fmt.f16.row.ebits = 0 ∧ Fmt.f16.maxFinite < rounded .f16 0 0 65520 ∧ Fmt.f8a.maxFinite < rounded .f8a 1 0 (-1000) ∧
      (2 ^ 7 - 1 : Nat) < roundMag 0 0 (ratAbs 128) ∧ (2 ^ 7 : Nat) < roundMag 0 0 (ratAbs (-129)) := by
  decide +kernel

/-- Premises of `EngineCommandsQueue`: each opcode and each operation of it at the head of a slot. -/
theorem witness_EngineCommandsQueue :
    (∀ x ∈ [(Op.sload, 0x40, 16), (.vop, 0x41, 16), (.func, 0x42, 16), (.pass, 0x80, 32), (.lathe, 0x81, 32), (.xdispatch, 0x82, 32),
        (.xcombine, 0x83, 32), (.update, 0x84, 32), (.send, 0x45, 16), (.recv, 0x46, 16)],
      issuer (coreWith x.2.2 x.2.1) 0 = some 0 ∧ nextCmd (slotOf (coreWith x.2.2 x.2.1) 0 0) = .cmd x.1 x.2.2 x.2.1 false) ∧
    (vopF 0x42).fmode = 0 ∧ (∃ w, w % 256 = 0x42 ∧ (vopF w).fmode ≠ 0 ∧ nextCmd (slotOf (coreWith 16 w) 0 0) = .cmd .func 16 w false) ∧
    (∀ op ∈ List.range 16, bitsOf (0x81 + op * 256) 11 8 = op ∧
      nextCmd (slotOf (coreWith 32 (0x81 + op * 256)) 0 0) = .cmd .lathe 32 (0x81 + op * 256) false) ∧
    (∀ op ∈ List.range 4, bitsOf (0x82 + op * 256) 9 8 = op ∧
      nextCmd (slotOf (coreWith 32 (0x82 + op * 256)) 0 0) = .cmd .xdispatch 32 (0x82 + op * 256) false ∧
      nextCmd (slotOf (coreWith 32 (0x83 + op * 256)) 0 0) = .cmd .xcombine 32 (0x83 + op * 256) false) := by
  refine ⟨by decide, by decide, ?_, by decide, by decide⟩
  exact ⟨0x42 + 2 ^ 8, by decide, by decide, by decide⟩

/-- A memory that holds `bs` from address `a`, and 0 elsewhere. -/
def memWith (a : Nat) (bs : List Byte) : Mem := memPutN [] a bs

/-- A landing stream of two 2 KiB chunks from virtual address 0x800, with a ring of two at scratchpad offset 0x8000. -/
def landing : Stream := ⟨⟨0x800, 4096, 1, 1, 1, 0, 0, 0, 0x8000, 2048, 2, 0⟩, 0, 0, 0, 0, none, 0, 0, 0, 0, 0, 0, (0, 0), [], false, .run, false, 0, 0, none⟩

/-- A drain stream of the same shape. -/
def drain : Stream := { landing with desc := ⟨0x800, 4096, 1, 1, 1, 0, 0, 0, 0x8000, 2048, 2, 0x10400⟩ }

/-- The SARM descriptor of a landing stream: one run of 2 KiB from 0x10000, a ring of one 2 KiB chunk at offset 0x8000. -/
def descBytes : List Byte := leBytes 8 0x10000 ++ leBytes 4 2047 ++ List.replicate 36 0#8 ++ leBytes 4 0x8000 ++ leBytes 4 32 ++ List.replicate 8 0#8

/-- Premises of `StreamCommands` at concrete states and operands. -/
theorem witness_StreamCommands_sarm :
    let d : Dev := { coreWith 16 0x43 with mems := [(.spad 0, memWith 0 descBytes)] }
    let t := tookStrm (issued d 0 0 16 false true) 0 (strmCmd d 0 0 0x43 [])
    awake d = true ∧ Takes d 0 0 .sarm 16 0x43 false ∧ strmQ d 0 = [] ∧ (slotOf t 0 0).phys (bitsOf 0x43 85 64) = 0 ∧ ∃ e y, Runs (portParity 0 [] 0 64) t () e ∧
      (slotOf t 0 0).inWindow 0 64 = true ∧ badIn e (.spad 0) 0 64 = [] ∧ sarmCheck e 0 (slotOf t 0 0) 0 (bytesOf e (.spad 0) 0 64) = .ok y :=
  ⟨by decide, ⟨by decide, by decide⟩, by decide, by decide, _, ⟨0x10000, 2048, 1, 1, 1, 0, 0, 0, 0x8000, 2048, 1, 0⟩, fun _ => rfl, by decide, by decide, by rfl⟩

/-- Premises of `StreamCommands` at concrete states and operands. -/
theorem witness_StreamCommands :
    (let d : Dev := { coreWith 16 0x44 with streams := [((0, 0), drain)] }
     let e := tookStrm (issued d 0 0 16 false true) 0 (strmCmd d 0 0 0x44 [])
     Takes d 0 0 .srearm 16 0x44 false ∧ strmQ d 0 = [] ∧ streamIdle (issued d 0 0 16 false true) 0 0x44 = true ∧ streamStateBad e 0 (slotOf e 0 0) 0 = false ∧
       streamOf e 0 0 = some drain ∧ ∃ e' z,
       Runs (onlyIf drain.desc.drain (releaseUpTo 0 0 drain.desc.chunks ((slotOf e 0 0).part, (slotOf e 0 0).tid))) e () e' ∧ streamOf e' 0 0 = some z) ∧
    (∀ w ∈ [5, 0x1005], let d : Dev := { coreWith 8 w with streams := [((0, 0), landing)] }
      let e := tookStrm (issued d 0 0 8 false true) 0 (strmCmd d 0 0 w [])
      issuer d 0 = some 0 ∧ nextCmd (slotOf d 0 0) = .cmd .sdisarm 8 w false ∧ bitsOf w 63 13 = 0 ∧ strmQ d 0 = [] ∧
        streamIdle (issued d 0 0 8 false true) 0 w = true ∧ streamStateBad e 0 (slotOf e 0 0) 0 = false) :=
  ⟨⟨⟨by decide, by decide⟩, by decide, by decide, by decide, by decide, _, _, fun _ => rfl, by rfl⟩, by decide⟩

/-- An open channel end of partition 0 with 4 ring slots of 256 B, index 0, of kind `kind`; its handle is 0. -/
def chanWith (kind : Nat) : Chan where
  st := .opened
  part := 0
  gen := 0
  peer := 1
  peerH := 0
  kind := kind
  cls := 1
  weight := 1
  slotK := 0
  slots := 4
  ring := 0x100000
  rma := true
  tmo := 0
  listens := false
  hellos := 0
  sent := 0
  pSlots := 4
  pLanded := 0
  pFreed := 0
  pRma := 0
  landed := 0
  freed := 0
  rmaDone := 0
  said := (0, 0)
  changed := false
  byeIn := false
  jobs := []
  sents := []
  recvs := []
  reqs := []
  rmaSent := 0
  tagNext := 0
  wait := []
  link := none
  hold := false
  back := []

/-- The 64-byte operand of a SEND or RECV on the channel with handle 0: its mode, where the bytes are and how many there are. -/
def sendDesc (mode src n : Nat) : List Byte := leBytes 4 0 ++ leBytes 4 mode ++ leBytes 8 src ++ leBytes 4 n ++ List.replicate 44 0#8

/-- Core 0 about to issue `w` with that operand at offset 0, and the open channel end. -/
def sendWith (w mode src n : Nat) : Dev := { coreWith 16 w with
  mems := [(.spad 0, memWith 0 (sendDesc mode src n))]
  chans := [(0, chanWith mode)] }

/-- Premises of `SendsAndReceives`: a SEND of each mode and a RECV. -/
theorem witness_SendsAndReceives :
    (let d := sendWith 0x45 0 0x1000 8
     let t := tookStrm (issued d 0 0 16 false true) 0 (strmCmd d 0 0 0x45 [])
     let x := slotOf t 0 0
     Takes d 0 0 .send 16 0x45 false ∧ strmQ d 0 = [] ∧ sendFieldsOk 0x45 = true ∧ x.inWindow 0 64 = true ∧ isContrib d 0 (slotOf d 0 0) 0x45 = false ∧
       x.inWindow 0x1000 8 = true ∧ ∃ e, Runs (portParity 0 [] (x.phys (bitsOf 0x45 85 64)) 64) t () e ∧ badIn e (.spad 0) 0 64 = [] ∧ bytesOf e (.spad 0) 0 64 = sendDesc 0 0x1000 8 ∧
       ((sendDesc 0 0x1000 8).drop 0x24).all (· == 0#8) = true ∧ openChan e 0 0 = some (0, chanWith 0)) ∧
    (let d := sendWith 0x45 1 0x1000 32
     let t := tookStrm (issued d 0 0 16 false true) 0 (strmCmd d 0 0 0x45 [])
     let x := slotOf t 0 0
     Takes d 0 0 .send 16 0x45 false ∧ isContrib d 0 (slotOf d 0 0) 0x45 = true ∧ x.inWindow 0x1000 128 = true ∧ ∃ e,
       Runs (portParity 0 [] (x.phys (bitsOf 0x45 85 64)) 64) t () e ∧ badIn e (.spad 0) 0 64 = [] ∧ bytesOf e (.spad 0) 0 64 = sendDesc 1 0x1000 32 ∧
       openChan e 0 0 = some (0, chanWith 1)) ∧
    (let d := sendWith 0x46 0 0x1000 256
     let t := tookStrm (issued d 0 0 16 false true) 0 (strmCmd d 0 0 0x46 [])
     let x := slotOf t 0 0
     Takes d 0 0 .recv 16 0x46 false ∧ x.inWindow 0x1000 256 = true ∧ (chanWith 0).slotBytes = 256 ∧ ∃ e,
       Runs (portParity 0 [] (x.phys (bitsOf 0x46 85 64)) 64) t () e ∧ badIn e (.spad 0) 0 64 = [] ∧ bytesOf e (.spad 0) 0 64 = sendDesc 0 0x1000 256 ∧
       chanBy e 0 = some (0, chanWith 0)) := by
  refine ⟨⟨⟨by decide, by decide⟩, by decide, by decide, by decide, by decide, by decide, _, fun _ => rfl, by decide, by rfl, by decide, by decide⟩,
    ⟨⟨by decide, by decide⟩, by decide, by decide, _, fun _ => rfl, by decide, by rfl, by decide⟩,
    ⟨by decide, by decide⟩, by decide, by decide, _, fun _ => rfl, by decide, by rfl, by decide⟩

/-- Premises of `TaskEndCompletes`: with and without a drain of the task left. -/
theorem witness_TaskEndCompletes :
    (let d : Dev := { d0 with slots := [((0, 0), { Slot.empty with st := .ending })] }
     awake d = true ∧ (slotOf d 0 0).st = .ending ∧ (slotOf d 0 0).idle = true ∧ d.streams.all (fun _ => false) = true) ∧
    (let d : Dev := { d0 with slots := [((0, 0), { Slot.empty with st := .ending })], streams := [((0, 0), drain)] }
     (slotOf d 0 0).idle = true ∧
       (d.streams.any fun y => y.1.1 == 0 && y.2.part == 0 && y.2.tid == 0 && y.2.desc.drain && !y.2.desc.persist) = true) := by decide

/-- The page of `mapped` reads as it was written. -/
theorem witness_vaRead : ∃ bs bad e, Runs (vaRead (envOf mapped 0) 0 {} 0x100 4) mapped (.ok (bs, bad)) e ∧ bs = [1#8, 2#8, 3#8, 4#8] ∧ bad = [] :=
  ⟨_, _, _, fun _ => by rfl, by decide, by decide⟩

/-- A command of slot 0 in an engine's queue. -/
def queued (w : Nat) (desc : List Byte) : Queued := ⟨0, 0, w, ⟨0, 0, [], []⟩, 0, desc⟩

/-- A pass of one output row of 128 bytes at offset 0, that is written or not yet, of slot 0. -/
def passRun (feeding discard : Bool) (out : List OutRow) : PassRun := ⟨Slot.empty, 0, 0, 0x80, ⟨0, 0, [], []⟩, 0, 32, 1, 0, 128, true, feeding, out, discard⟩

/-- Premises of `ArrayCompletions` at concrete states and operands. -/
theorem witness_ArrayCompletions :
    (let o : Operand := ⟨0, 0, 0, 0, 1, 1, [[]], 0⟩
     let r : Run := ⟨queued 0x40 [], 1, none⟩
     ∀ reload ∈ [false, true], let d : Dev := { d0 with arrs := [(0, { Arr.empty with load := some r, shadow := some o, sh := .loading, reload := reload })] }
       let a := arrOf d 0
       a.load = some r ∧ a.shadow = some o ∧ a.sh = .loading ∧ o.rows.length = o.next ∧ a.reload = reload) ∧
    (let d (p : PassRun) : Dev := { d0 with arrs := [(0, { Arr.empty with passes := [p] })] }
     (arrOf (d (passRun true false [])) 0).passes = [passRun true false []] ∧
     (∀ discard ∈ [false, true], (passRun false discard []).feeding = false ∧ (passRun false discard []).out = []) ∧
     (∀ discard : Bool, ∃ b e, Runs (reachCycle (envOf (d (passRun false discard []))) 0 0) (d (passRun false discard [])) b e ∧
       (arrOf e 0).passes = [passRun false discard []]) ∧
     let o : OutRow := ⟨0, 5, List.replicate 32 ⟨.zero false, false⟩⟩
     let x : Stream := { drain with chunks := [⟨0, .draining, [], 0, 0, false, [], [], none⟩] }
     let w : Dev := { d (passRun false false [o]) with streams := [((0, 0), { x with desc := { x.desc with ring := 0 } })] }
     ∃ b e, Runs (reachCycle (envOf w) 0 261) w b e ∧ (arrOf e 0).passes = [passRun false false [o]]) :=
  ⟨by decide, by decide, by decide, fun discard => by cases discard <;> exact ⟨_, _, fun _ => by rfl, by rfl⟩, _, _, fun _ => by rfl, by rfl⟩

/-- Premises of `EngineCompletions` at concrete states and operands. -/
theorem witness_EngineCompletions :
    (let r : Run := ⟨queued 0x41 (List.replicate 64 0#8), 1, none⟩
     let d : Dev := { d0 with vecs := [(0, ⟨[], some r⟩)] }
     (vecOf d 0).run = some r ∧ r.q.cmd % 256 ≠ 0x84 ∧ vecDone r = true) ∧
    (let r : Run := ⟨queued 0x84 (List.replicate 64 0#8), 0, none⟩
     let d : Dev := { d0 with vecs := [(0, ⟨[], some r⟩)] }
     (vecOf d 0).run = some r ∧ r.q.cmd % 256 = 0x84 ∧ updDone r = true) ∧
    (let r : Run := ⟨queued 0x81 [], 1, none⟩
     let d : Dev := { d0 with lathes := [(0, ⟨[], some r⟩)] }
     (latheOf d 0).run = some r ∧ latheDone r = true) ∧
    (let d : Dev := { d0 with
      ftabs := [((0, 9), { FTab.empty with loading := some (0x100, 0) })]
      pwr := { d0.pwr with doms := d0.pwr.doms.set 0 .on } }
     (ftabOf d 0 9).loading = some (0x100, 0) ∧ tableFree d 0 9 = true ∧ domOf d (0 / 25) = .on ∧ ∃ r e, Runs (vaBytes (envOf d 0) 0 0x100 6208) d r e) :=
  ⟨by decide, by decide, by decide, by decide, by decide, by decide, _, _, fun _ => by rfl⟩

/-- The first piece of chunk 0 of a stream: 16 bytes from 0x800, by way of tier `tier`. -/
def piece (tier : Nat) (tag : Option Nat) : Piece := ⟨0, [⟨0x800, 16, 1, 0, 16⟩], tier, 0, tag⟩

/-- Chunk 0 with that piece outstanding. -/
def chunkOn (st : ChunkSt) (q : Piece) : Chunk := ⟨0, st, [q], 0, 0, false, [], [], none⟩

/-- A module with stream 0 of core 0 in which chunk 0 has `q` outstanding. -/
def streaming (d : Dev) (x : Stream) (st : ChunkSt) (q : Piece) : Dev := { d with streams := [((0, 0), { x with chunks := [chunkOn st q] })] }

/-- Premises of `Landings` at concrete states and operands. -/
theorem witness_Landings :
    (let d : Dev := { mapped with streams := [((0, 0), landing)] }
     streamOf d 0 0 = some landing ∧ landing.desc.drain = false ∧ landing.paused = false ∧ landing.mode = .run ∧ landing.next < landing.desc.chunks ∧
       landing.next + heldCredits d 0 0 < landing.rel + landing.desc.ccount ∧
       (allPiles.all fun pl => decide (watchesOn d pl + ((watchesOf d 0 landing (piecesOf d 0 landing 0)).filter fun w =>
         pileOfPa (if 2 ^ 40 ≤ w then w - 2 ^ 40 else w * 2048) == pl).length ≤ 8192)) = true) ∧
    (∀ q ∈ [piece 1 none, piece 2 none, piece 3 none], (pieceOf (streaming mapped landing .fetching q) 0 0 0 0).map (·.2) = some (chunkOn .fetching q, q)) ∧
    (∃ r e, Runs (vaRead (envOf mapped 0) 0 { stream := true } 0x800 16) mapped r e) :=
  ⟨by decide, by decide, _, _, fun _ => by rfl⟩

/-- Partition 0, running job 7, its step 5 open in state `st`. -/
def stepping (st : StepSt) : Part := { Part.empty with
  alive := true
  running := true
  job := 7
  step := some ⟨st, 5, 0, 0, false, false, 0, []⟩ }

/-- A module in that step. -/
def inStep (st : StepSt) : Dev := { mapped with parts := [(0, stepping st)] }

/-- A task of partition 0. -/
def taskWith (tid : Nat) (st : TaskSt) : Task where
  tid := tid
  flags := 0
  deps := []
  cmd := 0
  win := 3
  due := 0xFFFF
  mb := 0
  seed := 0
  slots := 1
  st := st
  crit := false
  started := false
  core := none
  arena := none
  fn := 0
  ring := 0
  stamp := 0
  image := none
  cause := none
  slice := none
  endst := none
  more := 0
  hurt := none

/-- A drain with a write outstanding in a chunk of a released state, and one released chunk. -/
def draining (d : Dev) (st : ChunkSt) (q : Piece) : Dev := streaming d drain st q

/-- The tier-2 page of partition 0: virtual 0 to 2 MiB of record 0, which is function 0's host memory. -/
def hostMapped : Dev := { d0 with
  runs := [(0, { PartRun.empty with
    latch := [((.PILE_MMU_ROOT_LO, 0), 1)]
    t2 := [leBytes 8 1 ++ leBytes 8 0x10000] })]
  fns := [(0, { Fn.empty with part := some 0 })]
  mems := [(.pile, memPutN (memPutN (memPutN [] 0 (leBytes 8 0x8000000000000001)) 0x2000 (leBytes 8 0x8000000000000002)) 0x4000 (leBytes 8 0xCC00000000000000))] }

set_option maxRecDepth 100000 in
/-- Premises of `Drains` at concrete states and operands. -/
theorem witness_Drains :
    (let k : Chunk := chunkOn .released (piece 1 none)
     let x := { drain with chunks := [k] }
     streamOf (draining mapped .released (piece 1 none)) 0 0 = some x ∧ x.desc.drain = true ∧ x.paused = false ∧ x.mode = .run ∧
       (x.chunks.find? fun k => k.st == .released) = some k) ∧
    (∀ q ∈ [piece 1 none, piece 2 none, piece 2 (some 9)],
      (pieceOf (draining mapped .draining q) 0 0 0 0).map (·.2) = some (chunkOn .draining q, q)) ∧
    (∃ r e, Runs (vaWrite (envOf mapped 0) 0 { stream := true } 0x800 (bytesOf mapped (.spad 0) 0x8000 16) []) mapped r e) ∧
    targetOf hostMapped 0 drain 0x800 = .host 0 0x10800 ∧
    (let d : Dev := { draining mapped .draining (piece 2 (some 9)) with chans := [(0, chanWith 2)] }
     ((chanBy d (piece 2 (some 9)).tgt).map fun ic => ic.2.reqs.any fun r => r.tag == 9) = some false) :=
  ⟨by decide, by decide, ⟨_, _, fun _ => by rfl⟩, by decide +kernel, by decide⟩

/-- Premises of `StreamTimeouts` at concrete states and operands. -/
theorem witness_StreamTimeouts :
    (pieceOf (streaming mapped landing .fetching (piece 2 none)) 0 0 0 0).map (·.2) = some (chunkOn .fetching (piece 2 none), piece 2 none) ∧
    (let r : Run := ⟨queued 0x41 [], 0, some ⟨0, 0, 0, [(2, 0x8000, 4)], []⟩⟩
     let d : Dev := { streaming d0 landing .fetching (piece 1 none) with
       vecs := [(0, ⟨[], some r⟩)]
       regs := [(⟨.STRM_CTRL, 0, 0⟩, 0x10000#32)] }
     standing d 0 = some ⟨0, 0, 0, ⟨0, 0, 0, [(2, 0x8000, 4)], []⟩⟩ ∧ bitsOf (regOf d .STRM_CTRL 0) 31 16 = 1 ∧
       movedSince d 0 ⟨0, 0, 0, [(2, 0x8000, 4)], []⟩ = false) := by decide

/-- Premises of `CommandBufferRefills`: a read that succeeds and one that fails. -/
theorem witness_CommandBufferRefills :
    (let d : Dev := { mapped with slots := [((0, 0), { Slot.empty with st := .placed, list := 0x100, bytes := 64 })], pwr := { Pwr.reset with doms := List.replicate 50 .on } }
     (slotOf d 0 0).st = .placed ∧ domOf d 0 = .on ∧ min (2048 - (slotOf d 0 0).buf.length) 64 = 64 ∧ ∃ bs bad e,
       Runs (vaRead (envOf d 0) 0 { die := some 0 } 0x140 64) d (.ok (bs, bad)) e) ∧
    (let d : Dev := { d0 with slots := [((0, 0), { Slot.empty with st := .placed, list := 0x100, bytes := 64 })] }
     ∃ code a e, Runs (vaRead (envOf d 0) 0 { die := some 0 } 0x140 64) d (.error (code, a)) e) :=
  ⟨⟨by decide, by decide, by decide, _, _, _, fun _ => by rfl⟩, _, _, _, fun _ => by rfl⟩

/-- Premises of `StateImageSaves` at concrete states and operands. -/
theorem witness_StateImageSaves :
    let d : Dev := { inStep .forward with slots := [((0, 0), { Slot.empty with st := .saving, tid := 4 })], tasks := [((0, 4), taskWith 4 .placed)] }
    (slotOf d 0 0).st = .saving ∧ ([(vecOf d 0).run, (latheOf d 0).run].all fun r => (r.bind (·.stall)).isNone) = true ∧ (arrOf d 0).run.isNone = true ∧ taskOf d 0 4 = some (taskWith 4 .placed) := by
  decide

/-- The 64-byte header of an exchange message of type `t` of job 7 and step `n`. -/
def xchMsg (t n : Nat) : List Byte := leBytes 4 t ++ leBytes 4 7 ++ leBytes 8 n ++ List.replicate 48 0#8

/-- The descriptor of a round with nothing in it. -/
def noDesc : XDesc := ⟨0, 0, 0, 0, 0, 0, 0, 0, 0, 0, 0, 0, 0, 0, 0, 0, 0, 0, 0, 0, 0, 0⟩

/-- An open round of step 5 that waits for one batch from this partition itself. -/
def roundOf (kind : RoundKind) : Round :=
  ⟨1, kind, 0, 0, 0, 0, 0, 0, 1, none, none, 7, 5, noDesc, [⟨0, [], [], [], 0, false, false⟩], [], [], 0, 0, false⟩

/-- Premises of `ExchangeMessagesArrive`: a message of the open step, of one before it and of one after it. -/
theorem witness_ExchangeMessagesArrive :
    (∀ x ∈ [(RoundKind.receive, 0x10), (.dispatch, 0x11)],
      let d : Dev := { inStep .forward with xchs := [(2, ⟨[], [roundOf x.1], 2⟩)] }
      let m := xchMsg x.2 5
      64 ≤ m.length ∧ fieldAt m 0 1 = x.2 ∧ matchMsg d 0 (srcHandle d (.fabric m)) x.1 m = .land 2 1 0 ∧
        matchMsg d 0 0 x.1 (xchMsg x.2 4) = .drop 0 ∧ matchMsg d 0 0 x.1 (xchMsg x.2 6) = .wait) ∧
    (let m := xchMsg 0x14 5
     fieldAt m 0 1 = 0x14 ∧ 64 ≤ m.length ∧ stepRule (inStep .forward) 0 m = none) ∧
    (let m := xchMsg 0x10 5
     Runs (takeMsg 0 [2, 3] (.fabric m)) (inStep .forward) (some m) (inStep .forward)) :=
  ⟨by decide, by decide, fun _ => rfl⟩

/-- Slice 0 of the open step, of 32 elements with its accumulator at offset 0 of core 0, expecting `n` contributions, in state `st`. -/
def sliceWith (st : SliceSt) (n : Nat) : Slice := ⟨0, 0, 32, n, 0, 0, 0, 4, st, 0, false, .none⟩

/-- The open step with that slice. -/
def slicing (x : Slice) : Dev := { inStep .backward with escs := [(0, { Esc.empty with
  st := .running
  step := 5
  slices := [x] })] }

/-- A contribution of job 7 and step `n` to slice 0 from contributor 0: all 32 elements, as F32, its first and last message. -/
def contrib (n : Nat) : List Byte :=
  leBytes 4 7 ++ leBytes 4 0 ++ leBytes 8 n ++ leBytes 4 0 ++ leBytes 4 32 ++ leBytes 2 0 ++ leBytes 1 0 ++ leBytes 1 3 ++ leBytes 4 0 ++ List.replicate 128 0#8

/-- The first and the last bit of contributor 0 of that slice are set. -/
def finished : Dev := { slicing (sliceWith .accum 2) with mems := [(.spad 0, memWith 128 (leBytes 1 1 ++ List.replicate 511 0#8 ++ leBytes 1 1))] }

set_option maxRecDepth 100000 in
/-- Premises of `ContributionsArrive`: each way a contribution is sorted. -/
theorem witness_ContributionsArrive :
    sortContrib (slicing (sliceWith .accum 2)) 0 (contrib 4) = .stale ∧ sortContrib (slicing (sliceWith .accum 2)) 0 (contrib 6) = .wait ∧
    sortContrib (slicing (sliceWith .idle 2)) 0 (contrib 5) = .zero 0 (sliceWith .idle 2) ∧
    sortContrib (slicing (sliceWith .accum 1)) 0 (contrib 5) = .take 0 (sliceWith .accum 1) .f32 ∧
    (sortContrib finished 0 (contrib 5) = .take 0 (sliceWith .accum 2) .f32 ∧ sliceBit finished (sliceWith .accum 2) 0 0 = true ∧
      sliceBit finished (sliceWith .accum 2) 1 0 = true) ∧
    (let d := slicing (sliceWith .accum 1)
     let x := sliceWith .accum 1
     Runs (takeMsg 0 [1] (.fabric (contrib 5))) d (some (contrib 5)) d ∧ Runs (dropMsg (.fabric (contrib 5))) d () d ∧
       sliceBit d x 1 (fieldAt (contrib 5) 0x18 2) = false ∧ sliceBit d x 0 (fieldAt (contrib 5) 0x18 2) = !(bitOf (fieldAt (contrib 5) 0x1B 1) 0) ∧ ∃ e1 e2,
       Runs (onlyIf (bitOf (fieldAt (contrib 5) 0x1B 1) 0) (setSliceBit x 0 (fieldAt (contrib 5) 0x18 2))) d () e1 ∧
       Runs (addContribution 0 x .f32 0 32 ((contrib 5).drop 32)) e1 true e2) ∧
    (let x := { sliceWith .idle 2 with zeroing := true }
     (escOf (slicing x) 0).slices[0]? = some x ∧ x.st = .idle ∧ x.zeroing = true ∧ (partOf (slicing x) 0).step.isSome = true) :=
  ⟨by decide +kernel, by decide +kernel, by decide +kernel, by decide +kernel, by decide +kernel, ⟨fun _ => rfl, fun _ => rfl, by decide +kernel, by decide +kernel, _, _,
    fun _ => by rfl, fun _ => by rfl⟩, by decide +kernel⟩

/-- Premises of `ContributionsArrive`: contributor 0 has begun and not ended, and begins again. -/
theorem witness_ContributionsArrive_twice :
    let d : Dev := { slicing (sliceWith .accum 2) with mems := [(.spad 0, memWith 128 (leBytes 1 1))] }
    sortContrib d 0 (contrib 5) = .take 0 (sliceWith .accum 2) .f32 ∧ bitOf (fieldAt (contrib 5) 0x1B 1) 0 = true ∧
      sliceBit d (sliceWith .accum 2) 0 (fieldAt (contrib 5) 0x18 2) = true ∧ sliceBit d (sliceWith .accum 2) 1 (fieldAt (contrib 5) 0x18 2) = false := by decide +kernel

/-- A ready partition with a STEP_BEGIN that waits. -/
def begun (serving : Bool) : Dev := { d0 with parts := [(0, { stepping .opened with
  step := none
  begin? := some ⟨0, 0, 5⟩
  serving := serving })] }

/-- An entry of the barrel's plan: 4 KiB from 2^40, group 6, consumer task 4, twin task 9. -/
def entry (st : EntSt) : Ent := ⟨2 ^ 40, 4096, 0, 0, 0, 0, false, 0, 6, 4, 9, 64, st, 0, 0, [], [], false, [], [], [], none, 0, 0, [], false, false⟩

/-- A barrel with that entry, in an open step. -/
def barrelWith (st : EntSt) (tasks : List (Nat × Task)) : Dev := { inStep .forward with
  runs := [(0, { PartRun.empty with latch := [((.BARL_CTRL, 0), 0x14)] })]
  barrels := [(0, { Barrel.empty with
    ents := [entry st]
    active := true
    spilling := true })]
  tasks := tasks.map fun x => ((0, x.1), x.2) }

/-- Premises of `StepsOpenAndTasksPlace` at concrete states and operands. -/
theorem witness_StepsOpenAndTasksPlace :
    (∀ serving ∈ [false, true], let y := partOf (begun serving) 0
      y.running = true ∧ y.step = none ∧ y.held = false ∧ fatal (begun serving) = false ∧ y.serving = serving ∧ y.begin? = some ⟨0, 0, 5⟩) ∧
    (let d : Dev := { inStep .forward with
       regs := [(⟨.SCHED_QUOTA_SLOTS, 0, 0⟩, 8#32)]
       runs := [(0, { PartRun.empty with crit := [4] })]
       tasks := [((0, 4), taskWith 4 .ready)]
       wins := [⟨3, 0, 51, 0, 2, false, .granted, 0, false, 0, 0, none, []⟩] }
     (candidates d).findSome? (fun c => (whereTo d c.p c.t).bind fun w => if dieOf w.core = 1 then some (c.t.tid, w) else none) = some (4, ⟨51, 0, 2, none⟩)) ∧
    (let d : Dev := { slicing (sliceWith .full 2) with tasks := [((0, 4), taskWith 4 .waiting)] }
     (escOf d 0).slices[0]? = some (sliceWith .full 2) ∧ taskOf d 0 4 = some (taskWith 4 .waiting) ∧ depsDone d 0 (taskWith 4 .waiting) = true) ∧
    (let d := barrelWith .held [(4, taskWith 4 .waiting)]
     (barrelOf d 0).active = true ∧ ((groupEnts d 0 6).map (·.consumer)).dedup = [4] ∧ taskOf d 0 4 = some (taskWith 4 .waiting) ∧
       depsDone d 0 (taskWith 4 .waiting) = true ∧ ((barrelOf d 0).ents.all fun e => e.consumer != 4 || e.st == .held || e.st == .spilled) = true) ∧
    (let d := barrelWith .absent [(9, taskWith 9 .waiting)]
     groupEnts d 0 6 = [entry .absent] ∧ ((barrelOf d 0).ents.filter fun y => y.consumer == 4) = [entry .absent] ∧ taskOf d 0 4 = none ∧
       taskOf d 0 9 = some (taskWith 9 .waiting)) := by
  refine ⟨by decide +kernel, by decide +kernel, by decide +kernel, by decide +kernel, by decide +kernel⟩

/-- Premises of `BarrelAccesses` at concrete states and operands. -/
theorem witness_BarrelAccesses :
    (∃ bs, barrelRead (barrelWith .held []) 0 (2 ^ 40) 64 = .data bs) ∧
    (∀ st ∈ [EntSt.absent, .wpool], entAt (barrelWith st []) 0 (2 ^ 40) = some (0, entry st) ∧ (barrelOf (barrelWith st []) 0).ents[0]? = some (entry st)) ∧
    (let d := barrelWith .held []
     (barrelOf d 0).active = true ∧ (barrelOf d 0).spilling = true ∧ (barrelOf d 0).lost = false ∧ bitsOf (latched d 0 .BARL_CTRL) 5 4 ≠ 0) :=
  ⟨⟨_, by rfl⟩, by decide +kernel, by decide +kernel⟩

/-- Premises of `BarrelAccesses`: an entry that takes no write. -/
theorem witness_BarrelAccesses_closed :
    ∀ st ∈ [EntSt.held, .spilled, .freed], entAt (barrelWith st []) 0 (2 ^ 40) = some (0, entry st) := by decide +kernel

/-- A piece of a landing chunk that reads the barrel. -/
def barrelPiece : Piece := { piece 3 none with spans := [⟨2 ^ 40, 16, 1, 0, 16⟩] }

/-- Premises of `Landings` at concrete states and operands. -/
theorem witness_Landings_barrel :
    let d := streaming (barrelWith .held []) landing .fetching barrelPiece
    (pieceOf d 0 0 0 0).map (·.2) = some (chunkOn .fetching barrelPiece, barrelPiece) ∧ (spilledFrame d 0 barrelPiece.va).isSome = false ∧
      ∃ bs, barrelSpans d 0 barrelPiece.spans = .ok (some bs) :=
  ⟨by decide, by decide, _, by rfl⟩

set_option maxRecDepth 100000 in
/-- Premises of `HistogramBankReleases` at concrete states and operands. -/
theorem witness_HistogramBankReleases :
    (let d : Dev := { mapped with
       regs := [(⟨.UPD_GOV_LO, 0, 0⟩, 0x200#32)]
       runs := [(0, { PartRun.empty with
         latch := [((.PILE_MMU_ROOT_LO, 0), 1), ((.UPD_HIST_LO, 0), 0x400)]
         banks := [1] })]
       mems := [(.pile, memPutN tables 0x200200 (leBytes 4 0x8000))] }
     ((runOf d 0).banks.find? fun x => x % 2 == 1) = some 1 ∧ 1 / 2 = 0 ∧ (partOf d 0).expert = false ∧ tableVa d 0 .UPD_HIST_LO .UPD_HIST_HI = 0x400 ∧
       (∃ old e e', Runs (vaBytes (envOf d 0) 0 0x200 4) d (some old) e ∧ bitOf (fieldAt old 0 4) 15 = true ∧
         Runs (vaWrite (envOf d 0) 0 { inner := true } 0x200 (leBytes 4 0xF0FF) []) e (.ok ()) e') ∧
       ∃ e, Runs (vaWrite (envOf d 0) 0 { inner := true } (0x400 + 192 + 0x8C) (leBytes 1 5) []) d (.ok ()) e) :=
  ⟨by decide, by decide, by decide, by decide, ⟨_, _, _, fun _ => by rfl, by rfl, fun _ => by rfl⟩, _, fun _ => by rfl⟩

/-- Step 5 in its commit phase, with position `self` of three, in escapement state `st`. -/
def escaping (self : Nat) (st : EscSt) (e : Esc) : Dev := { inStep .commit with escs := [(0, { e with
  st := st
  step := 5
  table := [1, 2, 3]
  self := self })] }

/-- Premises of `EscapementReadyAndTimers` at concrete states and operands. -/
theorem witness_EscapementReadyAndTimers :
    (escReady (escaping 0 .running Esc.empty) 0 = true ∧ (escOf (escaping 0 .running Esc.empty) 0).token = false) ∧
    (let d := escaping 1 .running { Esc.empty with hold := some (0, 1) }
     escReady d 0 = true ∧ (escOf d 0).self ≠ 0 ∧ (escOf d 0).hold = some (0, 1)) ∧
    (∀ st ∈ [EscSt.running, .releasing], let d := escaping 0 st Esc.empty
      (partOf d 0).step.isSome = true ∧ (partOf d 0).serving = false ∧ (escOf d 0).st = st) ∧
    (∀ self ∈ [1, 2], ∀ asked ∈ [false, true], ∀ resolv ∈ [false, true],
      let e := escOf (escaping self .passed { Esc.empty with asked := asked, resolv := resolv }) 0
      e.st = .passed ∧ e.self = self ∧ e.asked = asked ∧ e.resolv = resolv) := by decide +kernel

/-- A message of the escapement: type `t`, of job 7 about step 5. -/
def escMsg (t : Nat) : List Byte := leBytes 4 t ++ leBytes 4 7 ++ leBytes 8 5 ++ List.replicate 48 0#8

/-- Premises of `EscapementMessages` at concrete states and operands. -/
theorem witness_EscapementMessages :
    (∀ t ∈ [1, 2, 3, 4, 5, 6], (escMsg t).length = 64 ∧ fieldAt (escMsg t) 0 1 = t ∧ fieldAt (escMsg t) 4 4 = 7 ∧ fieldAt (escMsg t) 8 8 = 5) ∧
    (let d := escaping 1 .running Esc.empty
     (partOf d 0).running = true ∧ (partOf d 0).job = 7 ∧ (partOf d 0).step.map (·.num) = some 5 ∧
       Runs (takeMsg 0 [3] (.fabric (escMsg 1))) d (some (escMsg 1)) d ∧ Runs (takeMsg 0 [3] (.fabric (leBytes 8 1))) d (some (leBytes 8 1)) d) ∧
    (leBytes 8 1).length ≠ 64 ∧ fieldAt (leBytes 8 1) 0 1 = 1 :=
  ⟨by decide +kernel, ⟨by decide, by decide, by decide, fun _ => rfl, fun _ => rfl⟩, by decide, by decide⟩

/-- Function 0 of partition 0 with work ring 0 on, of 64 descriptors, one of them waiting. -/
def ringing (p : Part) : Dev := { mapped with
  regs := [(⟨.HIF_WRING_CTRL, 0, 0⟩, 0x106#32)]
  fns := [(0, { Fn.empty with
    part := some 0
    rings := [(0, { Ring.empty with
      bell := 1
      unsig := 1 })] })]
  parts := [(0, p)] }

/-- Premises of `RingDoorbells`: a doorbell at the ring's end and one past it. -/
theorem witness_RingDoorbells :
    (let d := ringing (stepping .forward)
     reaches d 0 = true ∧ Runs wakeFabric d () d ∧ bitOf (regOf d .HIF_WRING_CTRL 0 0) 8 = true ∧ (ringOf d 0 0).stopped = false ∧
       2 ^ bitsOf (regOf d .HIF_WRING_CTRL 0 0) 4 0 = 64 ∧ ¬ (2 ^ 31 ≤ (64 + 2 ^ 32 - 1) % 2 ^ 32 ∨ 64 < (64 + 2 ^ 32 - 0) % 2 ^ 32) ∧
       (2 ^ 31 ≤ (65 + 2 ^ 32 - 1) % 2 ^ 32 ∨ 64 < (65 + 2 ^ 32 - 0) % 2 ^ 32) ∧ (fnOf d 0).st = .active ∧ (ringOf d 0 0).unsig ≠ 0 ∧
       (∃ e, Runs (setRing 0 0 { ringOf d 0 0 with consumed := 1 }) d () e ∧ (fnOf e 0).st = .active) ∧
       ∃ e, Runs (setRing 0 0 { ringOf d 0 0 with unsig := 0 }) d () e) :=
  ⟨by decide, fun _ => rfl, by decide, by decide, by decide, by decide, by decide, by decide, by decide, ⟨_, fun _ => rfl, by rfl⟩, _, fun _ => rfl⟩

/-- A 64-byte descriptor: its first 16 bytes, and 0. -/
def desc (a b : Nat) : List Byte := leBytes 8 a ++ leBytes 8 b ++ List.replicate 48 0#8

/-- Premises of `Descriptors` at concrete states and operands. -/
theorem witness_Descriptors :
    (let d := ringing { stepping .forward with step := none }
     canFetch d 0 0 0 = true ∧ (partOf d 0).skip = none ∧ (partOf d 0).serving = false ∧ (partOf d 0).step = none ∧ (partOf d 0).begin? = none ∧
       (desc 1 5).length = 64 ∧ fieldAt (desc 1 5) 0 1 = 1 ∧ ∃ i e, Runs (takeDesc 0 0) d i e) ∧
    (let d := ringing (stepping .forward)
     canFetch d 0 0 0 = true ∧ (partOf d 0).step = some ⟨.forward, 5, 0, 0, false, false, 0, []⟩ ∧ pendingTask d 0 0 = none ∧
       taskOk d 0 0 (desc (2 + 4 * 2 ^ 32) 0x100) = true ∧
       (let b := desc (3 + 7 * 2 ^ 32) 5
        fieldAt b 0 1 = 3 ∧ zeroBytes b 1 4 = true ∧ zeroBytes b 0x10 0x40 = true ∧ fieldAt b 4 4 = 7 ∧ fieldAt b 8 8 = 5)) ∧
    (let d : Dev := { ringing (stepping .forward) with tasks := [((0, 4), { taskWith 4 .waiting with more := 1 })] }
     canFetch d 0 0 0 = true ∧ depsOk d 0 0 (desc (5 + 4 * 2 ^ 32) 0) = true) ∧
    (let d := ringing { stepping .forward with serving := true }
     canFetch d 0 0 0 = true ∧ (partOf d 0).skip = none ∧ (partOf d 0).serving = true ∧ openItem d 0 = none ∧
       itemOk d 0 (desc (4 + 2 ^ 16 + 7 * 2 ^ 32) 0) = true ∧ ∃ i e, Runs (takeDesc 0 0) d i e) :=
  ⟨⟨by decide, by decide, by decide, by decide, by decide, by decide, by decide, _, _, fun _ => rfl⟩, by decide +kernel, by decide +kernel,
    by decide, by decide, by decide, by decide, by decide +kernel, _, _, fun _ => rfl⟩

/-- An admin command: its opcode, flags, partition and parameters, with tag 9. -/
def adminEntry (op flags part : Nat) (prm : List Byte) : List Byte :=
  leBytes 1 op ++ leBytes 1 flags ++ leBytes 2 part ++ leBytes 4 9 ++ padTo 56 0#8 prm

/-- HIF, LNK and SEC run, partition 0 lives, and the first admin command of function 0 is `e`. -/
def adminOn (d : Dev) (p : Part) (e : List Byte) : Dev := { d with
  fw := { Fw.reset with procs := [(0, { Proc.empty with st := .running }), (1, { Proc.empty with st := .running }), (2, { Proc.empty with st := .running }),
    (3, { Proc.empty with st := .running }), (4, { Proc.empty with st := .running }), (5, { Proc.empty with st := .running })] }
  fns := tabPut d.fns 0 { fnOf d 0 with adb := 1 }
  parts := tabPut d.parts 0 p
  mems := tabPut d.mems (.admin 0) (memWith 0 e) }

/-- What is asked of a command at the head of function 0's admin ring, as one check. -/
def turns (d : Dev) (host e b : List Byte) : Bool :=
  awake d && domOf d 48 == .on && adminReady d 0 && adminHead d 0 == e && (adminRefused d 0 e).isNone && blockOf e host == some b

theorem turn_of {d : Dev} {host e b : List Byte} (h : turns d host e b = true) :
    AdminTurn d 0 host e b (if inHost e then { d with out := d.out ++ [.hostRead 0 (fieldAt e 8 8) (fieldAt e 0x10 4)] } else d) := by
  simp only [turns, Bool.and_eq_true, beq_iff_eq, Option.isNone_iff_eq_none] at h
  obtain ⟨⟨⟨⟨⟨h1, h2⟩, h3⟩, h4⟩, h5⟩, h6⟩ := h
  exact ⟨h1, d, fun k => by simp [wakeFabric, h2, onlyIf], h3, h4, h5, h6, rfl⟩

/-- A living partition. -/
def living : Part := { Part.empty with alive := true }

/-- A partition with its job running. -/
def working : Part := { living with running := true, job := 7 }

/-- The head of function 0's ring is command `op` of partition 0 with parameters `prm`, and it has its turn. -/
def headOk (d : Dev) (p : Part) (op : Nat) (prm : List Byte) : Bool :=
  let e := adminEntry op 0 0 prm
  turns (adminOn d p e) [] e (padTo 56 0#8 prm) && cmdOp e == op

/-- Premises of `AdminFunctionsAndPartitions` at concrete states and operands. -/
theorem witness_AdminFunctionsAndPartitions :
    headOk d0 living 1 [0xFF#8, 0xFF#8] = true ∧ headOk d0 living 4 [8#8, 0#8] = true ∧
    (let d : Dev := { d0 with fns := [(8, { Fn.empty with part := some 0 })] }
     headOk d living 4 [8#8, 1#8] = true ∧ (fnOf d 8).part = some 0) ∧
    headOk d0 living 0x18 [0#8] = true ∧ headOk d0 living 0x18 [1#8, 1#8] = true ∧ headOk d0 living 3 [] = true := by decide +kernel

/-- A module about to take a GEN_ALIGN to step 0. -/
def aligning : Dev := adminOn d0 living (adminEntry 0x14 0 0 [0#8])

theorem align_ok : ∃ e, Runs (alignEsc 0 0) aligning 0 e := by
  have last : ∃ e, Runs (writeRecord 0) (counted { aligning with escs := [(0, Esc.empty)] } .ESC_ALIGNS 0 1) () e := ⟨_, fun _ => by rfl⟩
  obtain ⟨e, h⟩ := last
  refine ⟨e, fun k => ?_⟩
  simp only [alignEsc, run_bind, run_look]
  rw [if_neg (by decide)]
  simp only [run_bind, run_look, run_onlyIf]
  rw [show ((escOf aligning 0).st == EscSt.inDoubt) = false from rfl]
  rw [show regOf aligning .UPD_SHARD_COUNT (0 : PartId).val % 2 ^ 17 = 0 from by decide +kernel]
  simp only [Bool.not_false, if_true, readTable, run_bind, run_pure, updEsc, run_look, run_emit]
  rw [if_pos (by decide +kernel)]
  simp only [run_bind, run_count, Bool.false_eq_true, if_false, run_pure]
  exact h _

/-- Premises of `AdminJobCommands` at concrete states and operands. -/
theorem witness_AdminJobCommands :
    (let prm := leBytes 4 2048 ++ leBytes 2 4095 ++ leBytes 2 1
     headOk d0 { living with expert := true } 5 prm = true ∧ ∃ id e, Runs draw d0 id e) ∧
    headOk d0 working 6 [] = true ∧ headOk d0 living 0x11 [3#8, 3#8, 7#8] = true ∧ headOk d0 living 0x12 [] = true ∧ headOk d0 living 0x13 [] = true ∧
    (headOk d0 living 0x14 [0#8] = true ∧ ∃ e, Runs (alignEsc 0 0) aligning 0 e) ∧
    headOk d0 living 0x15 (leBytes 2 1 ++ leBytes 2 3600 ++ leBytes 2 60000) = true ∧
    (let d : Dev := { d0 with fns := [(0, { Fn.empty with part := some 0 })] }
     headOk d { living with held := true } 0x16 [] = true ∧ (fnOf d 0).part = some 0) ∧
    (let d (prm : List Byte) := adminOn d0 { living with ctx := List.range 64 } (adminEntry 0x10 0 0 prm)
     headOk d0 { living with ctx := List.range 64 } 0x10 (leBytes 8 0 ++ leBytes 8 64) = true ∧ quotasFit (d []) 0 64 0 0 = true ∧
       headOk d0 living 0x10 (leBytes 8 1 ++ leBytes 8 1024) = true ∧ quotasFit (d []) 0 0 0 1024 = true ∧
       headOk d0 living 0x10 (leBytes 8 4 ++ leBytes 8 65535) = true ∧ quotasFit (d []) 0 0 0 0 = true) ∧
    (let e := adminEntry 0x10 1 0 (leBytes 8 0x5000 ++ leBytes 4 116)
     let b := leBytes 16 6 ++ List.replicate 100 0xFF#8
     turns (adminOn d0 living e) b e b = true ∧ cmdOp e = 0x10 ∧ b.length = 116 ∧ fieldAt b 0 1 = 6 ∧ fieldsOnly b [(0, 1), (16, 100)] = true) := by
  refine ⟨⟨by decide +kernel, _, _, fun _ => rfl⟩, by decide +kernel, by decide +kernel, by decide +kernel, by decide +kernel,
    ⟨by decide +kernel, align_ok⟩, by decide +kernel, by decide +kernel, by decide +kernel, by decide +kernel⟩

theorem find_of_head {α : Type} (ok : α → Bool) (a : α) (n : Nat) (h : ok a = true) :
    (([a].drop (if [a].isEmpty then 0 else n % [a].length) ++ [a].take (if [a].isEmpty then 0 else n % [a].length)).find? ok) = some a := by
  simp [Nat.mod_one, h]

/-- A choice with one candidate that is good takes it. -/
theorem runs_pick_one {α : Type} (ok : α → Bool) (a : α) (d : Dev) (h : ok a = true) : Runs (pick ok [a]) d (some a) { d with freeAt := d.freeAt + 1 } := by
  intro k
  have := find_of_head ok a (Config.freeValue d.freeAt) h
  simp only [pick, draw, run_bind, run_look, run_emit, run_pure, this]
  rfl

/-- A module in which partition 0 has the page of `mapped`, pile 0 is ready and lends it channel group 0, and its quota is 1,024 units. -/
def allocating (e : List Byte) : Dev := adminOn { mapped with
  regs := [(⟨.PILE_MMU_ROOT_LO, 0, 0⟩, 1#32), (⟨.SCHED_QUOTA_PILE, 0, 0⟩, 1024#32)]
  piles := [(0, { Pile.empty with ready := true })] } { living with groups := [1] } e

/-- ALLOC of 2 MiB at 2 MiB, tier 1, writable and open to streams. -/
def allocEntry : List Byte := adminEntry 7 0 0 (leBytes 8 0x601 ++ leBytes 8 0x200000 ++ leBytes 8 0x200000)

theorem search_first (ok : Nat → Bool) (n k : Nat) (h : 0 < k) (g : ∀ i, i < k → ok i = true) : searchNat ok n k k = some (n % k) := by
  obtain ⟨j, rfl⟩ := Nat.exists_eq_succ_of_ne_zero (Nat.pos_iff_ne_zero.mp h)
  simp [searchNat, g _ (Nat.mod_lt n h)]

theorem frame_ok (i : Nat) (h : i < 4096) : frameOk (allocating allocEntry) [] (candFrame 0 [0] 2097152 i) 2097152 = true := by
  have hp : candFrame 0 [0] 2097152 i = i * 2097152 := by
    have : i / (2 ^ 33 / 2097152) = 0 := Nat.div_eq_of_lt (by simpa using h)
    have : i % (2 ^ 33 / 2097152) = i := Nat.mod_eq_of_lt (by simpa using h)
    simp [candFrame, *]
  have hq : pileOfPa (i * 2097152) = 0 := by
    have : i * 2097152 / 2 ^ 36 = 0 := Nat.div_eq_of_lt (by omega)
    simp only [pileOfPa, this]
    rfl
  have hm : i * 2097152 % pileBytes + 2097152 ≤ pileBytes - 2 ^ 22 := by
    rw [Nat.mod_eq_of_lt (by simp [pileBytes]; omega)]
    simp [pileBytes]
    omega
  rw [hp]
  simp only [frameOk, hq, hm, decide_true, Bool.true_and]
  rfl

theorem ends_writePa (pa : Nat) (bs : List Byte) : Ends (writePa pa bs []) := by
  unfold writePa clearBad addBad
  repeat (first | exact Ends.pure _ | exact Ends.look | exact Ends.emit _ | apply Ends.onlyIf | (apply Ends.bind; rotate_left; intro _; rotate_left))

theorem ends_runs {m : Act Unit} (h : Ends m) (d : Dev) : Runs m d () (runAct m d) := fun k => h.run d k

theorem ends_putLeaf (p : PartId) (va : Nat) (small : Bool) (e : Nat) : Ends (putLeaf p va small e) :=
  Ends.look.bind fun _ => Ends.onSome fun _ => ends_writePa _ _

theorem ends_updPart (p : PartId) (f : Part → Part) : Ends (updPart p f) := Ends.look.bind fun _ => Ends.emit _

theorem ends_grant (cls n : Nat) : Ends (Machine.grant cls n) := (Ends.emit _).onlyIf

theorem ends_showUse (p : PartId) : Ends (showUse p) := Ends.look.bind fun _ => Ends.emit _

theorem runs_pickNat (ok : Nat → Bool) (k : Nat) (d : Dev) (h : 0 < k) (g : ∀ i, i < k → ok i = true) :
    Runs (pickNat ok k) d (some (Config.freeValue d.freeAt % k)) { d with freeAt := d.freeAt + 1 } := by
  rw [← search_first ok _ k h g]
  exact runs_bind (runs_bind (runs_look _) (runs_bind (runs_emit _ _) (runs_pure _ _))) (runs_pure _ _)

/-- One frame chosen on a pile whose every candidate is free. -/
theorem runs_chooseFrames (p : PartId) (size q : Nat) (gs : List Nat) (d : Dev) (hg : groupsOn d p q = gs) (h : 0 < gs.length * (2 ^ 33 / size))
    (g : ∀ i, i < gs.length * (2 ^ 33 / size) → frameOk d [] (candFrame q gs size i) size = true) :
    ∃ fs, Runs (chooseFrames p [([q], size)] []) d (some fs) { d with freeAt := d.freeAt + 1 } := by
  subst hg
  refine ⟨[(candFrame q (groupsOn d p q) size (Config.freeValue d.freeAt % ((groupsOn d p q).length * (2 ^ 33 / size))), size)], ?_⟩
  unfold chooseFrames
  refine runs_bind (d' := { d with freeAt := d.freeAt + 1 }) (a := some (candFrame q (groupsOn d p q) size (Config.freeValue d.freeAt % ((groupsOn d p q).length * (2 ^ 33 / size))))) ?_ ?_
  · unfold chooseFrame
    exact runs_bind (runs_look _) (runs_bind (runs_pickNat _ _ _ h g) (runs_pure _ _))
  · exact runs_bind (by unfold chooseFrames; exact runs_pure _ _) (runs_pure _ _)

theorem alloc_ok : ∃ e, Runs (grantAlloc 0 0x200000 0x200000 0x601 0 0 0) (allocating allocEntry) 0 e := by
  obtain ⟨fs, hc⟩ := runs_chooseFrames 0 2097152 0 [0] (allocating allocEntry) (by decide +kernel) (by decide +kernel)
    (fun i h => frame_ok i (by simpa using h))
  have key : ∀ ws, ws = [([0], 2097152)] → Runs (chooseFrames 0 ws []) (allocating allocEntry) (some fs) { allocating allocEntry with freeAt := (allocating allocEntry).freeAt + 1 } := by
    rintro _ rfl
    exact hc
  have none_made : ∀ ks l, ks = [] → ∀ d, Runs (makeTables 0 (List.zip ks l)) d () d := by
    rintro _ l rfl d
    exact fun _ => rfl
  apply Exists.intro
  unfold grantAlloc
  apply runs_bind (runs_look _)
  dsimp only
  rw [if_neg (by decide +kernel)]
  apply runs_bind (key _ (by decide +kernel))
  dsimp only
  apply runs_bind (none_made _ _ (by decide +kernel) _)
  apply runs_bind (ends_runs (Ends.each (fun (x : Nat × Nat) => ends_putLeaf 0 x.1 _ x.2) _) _)
  apply runs_bind (ends_runs (ends_updPart 0 _) _)
  apply runs_bind (ends_runs (ends_grant 10 _) _)
  apply runs_bind (ends_runs (ends_showUse 0) _)
  exact runs_pure _ _

/-- A window of core 51 that partition 0 holds. -/
def windowIn (st : WinSt) : Window := ⟨3, 0, 51, 0, 2, false, st, 0x100, false, 51, 0, none, []⟩

/-- A partition whose mask is core 51 alone, its job running, with that window. -/
def windowed (st : WinSt) (e : List Byte) : Dev := adminOn { mapped with
  regs := (List.range 25).map fun i => (⟨.SCHED_CORE_MASK, 0, i⟩, if i = 1 then 0x80000#32 else 0#32)
  wins := [windowIn st] } { working with expert := true } e

theorem only_51 (st : WinSt) (e : List Byte) : coreList (windowed st e) 0 0xFFFF = [51] := by
  show coreList (windowed .granted []) 0 0xFFFF = [51]
  decide +kernel

/-- Premises of `AdminMemoryCommands` at concrete states and operands. -/
theorem witness_AdminMemoryCommands_windows :
    (let prm := leBytes 2 0xFFFF ++ leBytes 2 0x402
     let e := adminEntry 0xA 0 0 prm
     let d := windowed .granted e
     turns d [] e (padTo 56 0#8 prm) = true ∧ coreList d 0 0xFFFF = [51] ∧ baseList 4 = [4] ∧ coreFits d 2 [4] false 51 = true ∧ (partOf d 0).running = true) ∧
    (let e := adminEntry 0xB 0 0 (leBytes 4 3)
     turns (windowed .granted e) [] e (padTo 56 0#8 (leBytes 4 3)) = true ∧ windowBy (windowed .granted e) 0 3 = some (windowIn .granted)) ∧
    (let prm := leBytes 8 3 ++ leBytes 8 0x100
     let e := adminEntry 0xC 0 0 prm
     turns (windowed .granted e) [] e (padTo 56 0#8 prm) = true ∧ areaOk (windowed .granted e) 0 0x100 139264 = true ∧ (partOf (windowed .granted e) 0).step.isSome = false) ∧
    (let prm := leBytes 4 3 ++ leBytes 2 0xFFFF ++ [8#8]
     let e := adminEntry 0xD 0 0 prm
     let d := windowed .evicted e
     turns d [] e (padTo 56 0#8 prm) = true ∧ windowBy d 0 3 = some (windowIn .evicted) ∧ coreList d 0 0xFFFF = [51] ∧
       (streamsMove d (windowIn .evicted) 51 && coreFits d 2 [8] false 51) = true ∧ (partOf d 0).expert = true) :=
  ⟨⟨by decide +kernel, only_51 _ _, by decide, by decide +kernel, by decide +kernel⟩, by decide +kernel, by decide +kernel,
    by decide +kernel, by decide +kernel, only_51 _ _, by decide +kernel, by decide +kernel⟩

/-- Premises of `AdminMemoryCommands` at concrete states and operands. -/
theorem witness_AdminMemoryCommands :
    (let prm := leBytes 8 0x601 ++ leBytes 8 0x200000 ++ leBytes 8 0x200000
     let d := allocating allocEntry
     turns d [] allocEntry (padTo 56 0#8 prm) = true ∧ hintOk 0x601 = true ∧ hintTier 0x601 = 1 ∧ hintComp 0x601 = false ∧ 0x200000 % hintPage 0x601 = 0 ∧
       allocWaits d 0 0x601 = false ∧ vaFree d 0 0x200000 0x200000 = true ∧ ∃ e, Runs (grantAlloc 0 0x200000 0x200000 0x601 0 0 0) d 0 e) ∧
    (let a : Alloc := ⟨0x200000, 0x200000, 0x601, 0, 0, [], [], 0⟩
     let p := { living with allocs := [a] }
     headOk d0 p 8 (leBytes 8 0x200000) = true ∧ (p.allocs.find? fun (a : Alloc) => a.owner == 0 && a.va == 0x200000 && a.bytes != 0) = some a) ∧
    headOk d0 living 9 (leBytes 8 0x10000 ++ leBytes 8 0x20000) = true :=
  ⟨⟨by decide +kernel, by decide, by decide, by decide, by decide, by decide +kernel, by decide +kernel, alloc_ok⟩, by decide +kernel, by decide +kernel⟩

/-- The block of a PARTITION_CREATE with an orphan hold of one second and nothing else asked. -/
def createBlock : List Byte := leBytes 8 0 ++ leBytes 8 1 ++ List.replicate 240 0#8

/-- A PARTITION_CREATE whose block lies in the host. -/
def createEntry : List Byte := adminEntry 2 1 0 (leBytes 8 0x5000 ++ leBytes 4 256)

/-- Partitions 0–14 live; 15 is free. -/
def crowded : Dev :=
  let d := adminOn d0 living createEntry
  { d with
    parts := (List.range 15).map fun i => (Fin.ofNat 16 i, living)
    out := [.hostRead 0 0x5000 256] }

/-- A choice among the sixteen partitions of the one that is good. -/
theorem runs_pick_15 (d : Dev) (h : ∀ q : PartId, (!(partOf d q).alive) = (q == 15)) :
    Runs (pick (fun q => !(partOf d q).alive) allParts) d (some 15) { d with freeAt := d.freeAt + 1 } := by
  have turn : ∀ k, k < 16 → ((allParts.drop k ++ allParts.take k).find? fun q => q == 15) = some 15 := by decide
  intro k
  have := turn (Config.freeValue d.freeAt % 16) (Nat.mod_lt _ (by decide))
  simp only [pick, draw, run_bind, run_look, run_emit, run_pure, h]
  rw [show (if allParts.isEmpty = true then 0 else Config.freeValue d.freeAt % allParts.length) = Config.freeValue d.freeAt % 16 from rfl, this]
  rfl

/-- The module once the new partition has its record. -/
def recorded : Dev := { crowded with
  freeAt := 1
  parts := tabPut crowded.parts 15 (createPart crowded createBlock) }

/-- The module once the new partition has its registers, ways and tables too. -/
def created : Dev := runAct (setWays (some 15)) (runAct (createRegs 15 createBlock) recorded)

theorem power_zero (p : PartId) (d : Dev) (h : bitsOf (regOf d .SCHED_QUOTA_POWER p.val) 15 0 = 0) :
    Runs (setPower p 0) d () (runAct (setReg .SCHED_QUOTA_POWER p.val 0 0) d) := by
  intro k
  simp only [setPower, run_bind, run_look]
  rw [h]
  rfl

theorem runs_setReg (n : RegName) (u i v : Nat) (d : Dev) : Runs (setReg n u i v) d () (runAct (setReg n u i v) d) := fun _ => rfl

theorem runs_createRegs : ∃ e, Runs (createRegs 15 createBlock) recorded () e := by
  apply Exists.intro
  unfold createRegs
  iterate 4 apply runs_bind (runs_setReg _ _ _ _ _)
  apply runs_bind (power_zero _ _ (by decide +kernel))
  iterate 10 apply runs_bind (runs_setReg _ _ _ _ _)
  exact runs_setReg _ _ _ _ _

theorem ends_setWays (p : PartId) : Ends (setWays (some p)) :=
  Ends.look.bind fun _ => Ends.each (fun _ => (Ends.each (fun _ => ends_setReg _ _ _ _) _).bind fun _ =>
    (Ends.look.bind fun _ => Ends.look.bind fun _ => Ends.emit _).onlyIf) _

theorem no_unlock (p : PartId) (d : Dev) (h : d.sec.unlock = none) : Runs (endUnlockOf p) d () d :=
  runs_bind (runs_look _) (by rw [h]; exact runs_pure _ _)

theorem runs_create : Runs (do
    emit (.part 15 (createPart crowded createBlock))
    endUnlockOf 15
    createRegs 15 createBlock
    setWays (some 15)
    createRoot 15) { crowded with freeAt := 1 } () created := by
  refine runs_bind (d' := recorded) (runs_emit _ _) ?_
  refine runs_bind (no_unlock _ _ rfl) ?_
  obtain ⟨e, h⟩ := runs_createRegs
  rw [← runAct_of_runs h] at h
  refine runs_bind h ?_
  refine runs_bind (fun k => (ends_setWays 15).run _ k) ?_
  exact runs_bind (runs_look _) (runs_onlyIf (fun h => absurd h (by decide +kernel)) fun _ => rfl)

/-- Premises of `AdminFunctionsAndPartitions`: PARTITION_CREATE with one partition number free. -/
theorem witness_AdminFunctionsAndPartitions_create :
    AdminTurn { crowded with out := [] } 0 createBlock createEntry createBlock crowded ∧ cmdOp createEntry = 2 ∧ createOk createBlock = true ∧
    createAllowed crowded 0 createBlock = true ∧ createTaken crowded createBlock = none ∧ pilesPending crowded createBlock = false ∧
    Runs (pick (fun q => !(partOf crowded q).alive) allParts) crowded (some 15) { crowded with freeAt := 1 } ∧
    ∃ d2, Runs (do
      emit (.part 15 (createPart crowded createBlock))
      endUnlockOf 15
      createRegs 15 createBlock
      setWays (some 15)
      createRoot 15) { crowded with freeAt := 1 } () d2 ∧ Runs (createT2 15 createBlock) d2 0 d2 :=
  ⟨turn_of (d := { crowded with out := [] }) (by decide +kernel), by decide +kernel, by decide +kernel, by decide +kernel, by decide +kernel, by decide +kernel,
    runs_pick_15 crowded (by decide +kernel), created, runs_create, runs_pure _ _⟩

/-- CHANNEL_CREATE to module 1: messages, the class of the kind, weight 1, 4 slots of 256 B from 2 MiB, listening. -/
def chanParams : List Byte := [1#8, 0#8, 0#8, 0xFF#8, 0#8, 0#8, 0#8, 0#8, 1#8, 0#8, 4#8, 0#8, 0#8, 0#8, 0#8, 0#8] ++ leBytes 8 0x200000

/-- A module in which partition 0 may have a channel and has a 64 KiB page at 2 MiB for its ring. -/
def linking : Dev := adminOn { mapped with
  regs := [(⟨.SCHED_QUOTA_CHAN, 0, 0⟩, 4#32), (⟨.SCHED_QUOTA_LINK, 0, 0⟩, 4#32)]
  mems := [(.pile, memPutN (memPutN tables 0x4008 (leBytes 8 0x8000000000000003)) 0x6000 (leBytes 8 0x9C00000000000200))] } living (adminEntry 0xE 0 0 chanParams)

/-- Premises of `AdminChannelAndLoadCommands` at concrete states and operands. -/
theorem witness_AdminChannelAndLoadCommands :
    (let b := padTo 56 0#8 chanParams
     turns linking [] (adminEntry 0xE 0 0 chanParams) b = true ∧ procRuns linking procLNK = true ∧ bitOf (fieldAt b 12 1) 0 = false ∧
       ∃ h e, Runs (createChan 0 ⟨1, 0, 0, 0xFF, 1, 0, 4, 0x200000, 0, 0⟩) linking (.ok h) e) ∧
    (let d : Dev := { d0 with chans := [(0, chanWith 0)] }
     headOk d living 0xF (leBytes 4 0) = true ∧ chanBy d 0 = some (0, chanWith 0) ∧ (chanWith 0).part = 0) ∧
    (let prm := leBytes 8 0x5000 ++ leBytes 4 512
     let e := adminEntry 0x17 0 0 prm
     turns (adminOn d0 living e) [] e (padTo 56 0#8 prm) = true ∧ procRuns (adminOn d0 living e) procSEC = true ∧
       (((adminOn d0 living e).fw.load.map fun l => !l.told).getD false) = false) :=
  ⟨⟨by decide +kernel, by decide +kernel, by decide +kernel, _, _, fun _ => by rfl⟩, by decide +kernel, by decide +kernel⟩

/-- A bundle of six 64-byte components, svn 1, with the base set of features, whose digests, key and signature are all 0. -/
def bundle : List Byte :=
  leBytes 4 0x57464745 ++ leBytes 2 1 ++ leBytes 2 1 ++ leBytes 4 3 ++ leBytes 4 896 ++ leBytes 32 0xFFFF ++ List.replicate 16 0#8 ++
    ((List.range 6).flatMap fun j => leBytes 4 j ++ leBytes 4 (512 + 64 * j) ++ leBytes 4 64 ++ List.replicate 36 0#8) ++ List.replicate 544 0#8

/-- A reading of the free constants under which that bundle is good: every digest and every key hash is 32 bytes of 0, and every signature verifies. -/
structure ZeroHashes : Prop where
  sm3 : ∀ b, Config.sm3 b = List.replicate 32 0#8
  verify : ∀ k d g, Config.sm2Verify k d g = true
  keys : ∀ i, Config.bundleKeyHash i = List.replicate 32 0#8
  debug : Config.debugKeyHash = List.replicate 32 0#8
  serial : Config.serial = 0#64

/-- Under that reading the bundle fails no check; that a signature verifies is a free value (log entry 3), so no closed witness can say it. -/
theorem witness_bundle (h : ZeroHashes) (d : Dev) (hs : d.sec = Sec.reset) : bundleFails d bundle false = none := by
  simp only [bundleFails, keySlot, h.sm3, h.verify, h.keys, hs]
  decide +kernel

/-- An empty bundle fails the first check. -/
theorem witness_bundle_bad : bundleFails d0 [] false = some 1 := by decide +kernel

theorem ends_setField' (n : RegName) (u i hi lo v : Nat) (d : Dev) : Runs (setField n u i hi lo v) d () (runAct (setField n u i hi lo v) d) := fun _ => rfl

theorem runs_updProcs (f : Nat → Proc → Proc) : ∀ (l : List Nat) (d : Dev), ∃ fw, Runs (each l fun i => updProc (Fin.ofNat 6 i) (f i)) d () { d with fw := fw } ∧
    fw.load = d.fw.load
  | [], d => ⟨d.fw, fun _ => rfl, rfl⟩
  | i :: l, d => by
    obtain ⟨fw, h, g⟩ := runs_updProcs f l { d with fw := { d.fw with procs := tabPut d.fw.procs (Fin.ofNat 6 i) (f i (tabGet d.fw.procs (Fin.ofNat 6 i) Proc.empty)) } }
    exact ⟨fw, runs_bind (fun _ => rfl) h, g⟩

theorem ends_adminPost (f : FnId) (bs : List Byte) : Ends (adminPost f bs) := by
  refine Ends.look.bind fun d => ?_
  refine Ends.ite (Ends.pure _) (Ends.ite (Ends.emit _) ?_)
  exact (Ends.emit _).bind fun _ => (Ends.emit _).bind fun _ => (Ends.emit _).onlyIf

theorem ends_progress (d : Dev) (l : FwLoad) (h : d.fw.load = some l) (g : l.act = []) : ∃ e, Runs loadProgress d () e := by
  apply Exists.intro
  unfold loadProgress
  apply runs_bind (runs_look _)
  rw [h]
  apply runs_bind (d' := d) (runs_onlyIf (fun x => absurd x (by simp [g])) fun _ => rfl)
  apply runs_bind (runs_look _)
  dsimp only
  rw [if_pos (by simp [g])]
  have a : Ends (onlyIf (!l.told && procRuns d procHIF) do
      adminPost l.f (adminBytes l.tag 0 0 0 (fwResult d l))
      updFw fun x => { x with load := some { l with told := true } }) :=
    ((ends_adminPost _ _).bind fun _ => Ends.look.bind fun _ => Ends.emit _).onlyIf
  have b : Ends (onlyIf (l.act.isEmpty && (l.told || procRuns d procHIF)) do
      setReg .FW_VERSION 0 0 (bundleVersion d.fw.pend)
      measureHeader d.fw.pend
      updFw fun x => { x with
        running := x.pend
        pend := []
        load := none }) :=
    ((ends_setReg _ _ _ _).bind fun _ => (Ends.look.bind fun _ => Ends.emit _).bind fun _ => Ends.look.bind fun _ => Ends.emit _).onlyIf
  exact runs_bind (fun k => a.run _ k) fun k => b.run _ k

/-- Premises of `AdminChannelAndLoadCommands`: FW_LOAD of that bundle starts, under that reading. -/
theorem witness_AdminChannelAndLoadCommands_load (h : ZeroHashes) : ∃ e, Runs (startLoad 0 9 bundle false false) (adminOn d0 living []) none e := by
  have act : (actOrder.filter fun i => let p := procOf (adminOn d0 living []) (Fin.ofNat 6 i)
      Config.sm3 p.comp != Config.sm3 (bundleComp bundle i) || p.st == .halted) = [] := by
    simp only [h.sm3]
    decide +kernel
  have tail : ∀ (d : Dev) (l : FwLoad), d.fw.load = some l → l.act = [] → ∃ e, Runs (do
      each (List.range 6) fun i => updProc (Fin.ofNat 6 i) fun x => { x with pending := l.act.contains i }
      loadProgress
      (Pure.pure none : Act (Option (Nat × Nat)))) d none e := fun d l hl g => by
    obtain ⟨fw, r, k⟩ := runs_updProcs (fun i x => { x with pending := l.act.contains i }) (List.range 6) d
    obtain ⟨e, r'⟩ := ends_progress { d with fw := fw } l (k.trans hl) g
    exact ⟨e, runs_bind r (runs_bind r' (runs_pure _ _))⟩
  have last : ∀ (d : Dev) (l : FwLoad), l.act = [] → ∃ e, Runs (do
      updFw fun x => { x with
        pend := bundle
        load := some l }
      each (List.range 6) fun i => updProc (Fin.ofNat 6 i) fun x => { x with pending := l.act.contains i }
      loadProgress
      (Pure.pure none : Act (Option (Nat × Nat)))) d none e := fun d l g => by
    obtain ⟨e, r⟩ := tail { d with fw := { d.fw with pend := bundle, load := some l } } l rfl g
    exact ⟨e, runs_bind (fun _ => rfl) r⟩
  have all : ∃ e, Runs (do
      setField .FW_STATUS 0 0 4 4 0
      setField .FW_STATUS 0 0 11 8 0
      setField .FW_STATUS 0 0 16 16 0
      updFw fun x => { x with
        pend := bundle
        load := some ⟨0, 9, [], [], false⟩ }
      each (List.range 6) fun i => updProc (Fin.ofNat 6 i) fun x => { x with pending := [].contains i }
      loadProgress
      (Pure.pure none : Act (Option (Nat × Nat)))) (adminOn d0 living []) none e := by
    obtain ⟨e, r⟩ := last _ ⟨0, 9, [], [], false⟩ rfl
    exact ⟨e, runs_bind (ends_setField' _ _ _ _ _ _ _) (runs_bind (ends_setField' _ _ _ _ _ _ _) (runs_bind (ends_setField' _ _ _ _ _ _ _) r))⟩
  obtain ⟨e, r⟩ := all
  refine ⟨e, fun k => ?_⟩
  rw [← r k]
  simp only [startLoad, run_bind, run_look, witness_bundle h (adminOn d0 living []) rfl, act]
  rw [show ((!allFns.all fun g => activeFeat (adminOn d0 living []) g &&& bundleFeatures bundle % 2 ^ 24 == activeFeat (adminOn d0 living []) g) = false) from by decide +kernel]
  rfl

/-- A window of one slot of core 0 in state `st`, or an empty one. -/
def jobWindow (st : WinSt) (size : Nat) : Window := ⟨3, 0, 0, 0, size, false, st, 0x100, false, 0, 2, none, []⟩

/-- A module with that window and every domain on. -/
def windowDev (st : WinSt) (size : Nat) : Dev := { mapped with
  wins := [jobWindow st size]
  pwr := { Pwr.reset with doms := List.replicate 50 .on } }

/-- Completions of windows. The image of an eviction is taken of an empty window: writing 64 KiB is too long to evaluate here. -/
theorem witness_WindowCompletions :
    (let d := windowDev .evicting 0
     (d.wins.find? fun w => w.id == (3#32).toNat && !w.arena && w.st == .evicting) = some (jobWindow .evicting 0) ∧
       (windowTasks d (jobWindow .evicting 0)).all (fun t => t.core.isNone) = true ∧ windowFlying d 0 0 0 = false ∧
       ∃ e, Runs (vaWrite (envOf d 0) 0 {} 0x100 (windowImage d (jobWindow .evicting 0)).1 (windowImage d (jobWindow .evicting 0)).2) d (.ok ()) e) ∧
    (let d := windowDev .restoring 0
     (d.wins.find? fun w => w.id == (3#32).toNat && !w.arena && w.st == .restoring) = some (jobWindow .restoring 0) ∧ domOf d 0 = .on ∧
       ∃ bs bad e, Runs (vaRead (envOf d 0) 0 {} 0x100 0) d (.ok (bs, bad)) e) ∧
    (let d : Dev := { windowDev .granted 1 with scrubs := [(0, [4, 5])] }
     ((List.range 2).all fun i => inScrub d 0 (4 + i)) = true ∧ domOf d 0 = .on ∧ (dbgOf d 0).marks = []) :=
  ⟨⟨by decide, by decide, by decide, _, fun _ => rfl⟩, ⟨by decide, by decide, _, _, _, fun _ => rfl⟩, by decide⟩

/-- Function 0 of partition 0 with its data window at virtual 0. -/
def windowing : Dev := { mapped with fns := [(0, { Fn.empty with part := some 0 })] }

set_option maxRecDepth 100000 in
/-- Premises of `DataWindowAccesses` at concrete states and operands. -/
theorem witness_DataWindowAccesses :
    reaches windowing 0 = true ∧ Runs wakeFabric windowing () windowing ∧ windowVa windowing 0 0x100100 4 = some (0, 0x100) ∧
    (∃ bs bad e, Runs (vaRead (envOf windowing 0) 0 {} 0x100 4) windowing (.ok (bs, bad)) e) ∧
    windowVa mapped 0 0x100000 4 = none ∧
    ∃ e, Runs (vaWrite (envOf windowing 0) 0 {} 0x100 [1#8, 2#8] []) windowing (.ok ()) e :=
  ⟨by decide, fun _ => rfl, by decide, ⟨_, _, _, fun _ => by rfl⟩, by decide, _, fun _ => by rfl⟩

/-- What the writes of registers ask of an offset. -/
def writable (d : Dev) (f : FnId) (off : Nat) (counters : Bool) : Bool :=
  off % 4 == 0 && writeDecodes d f off &&
    match barAt d f off with
    | .reg row unit idx => (!row.blk.inPart || (partOf d (Fin.ofNat 16 unit)).alive) && writeStands d f row unit idx &&
        (!counters || ctrMap.any fun r => r.ctl == some row.name)
    | _ => false

/-- Premises of `RegisterAccesses`: a register of the module and one of a partition. -/
theorem witness_RegisterAccesses :
    reaches d0 0 = true ∧ Runs wakeFabric d0 () d0 ∧ writable { d0 with fns := [(0, { Fn.empty with feat := 0x1FFFF })] } 0 0x10 true = true ∧
    writable { d0 with parts := [(3, { Part.empty with alive := true, expert := true })] } 8 0x2300000 false = true ∧
    writeDecodes d0 8 (0x3000110 + 0x40 * 15) = true ∧ isPf 0 = true ∧ hasFeat { d0 with fns := [(0, { Fn.empty with feat := 0x1FFFF })] } 0 16 = true ∧
    bitOf (0x80000000#32 : Word).toNat 31 = true :=
  ⟨by decide, fun _ => rfl, by decide +kernel, by decide +kernel, by decide +kernel, by decide, by decide, by decide⟩

/-- Every firmware processor runs. -/
def running : Fw := { Fw.reset with procs := (List.finRange 6).map fun i => (i, { Proc.empty with st := .running }) }

/-- Premises of `FunctionResets` at concrete states and operands. -/
theorem witness_FunctionResets :
    (let d : Dev := { windowing with fw := running }
     procRuns d procHIF = true ∧ (fnOf d 0).st = .active ∧ (fnOf d 0).part.isSome = true ∧ (fnOf d 0).live ≠ some 0) ∧
    (∀ same ∈ [0, 1, 2], let d : Dev := { windowing with fw := running, fns := [(0, { Fn.empty with part := some 0, live := some 0, same := same })] }
     (fnOf d 0).live = some (leNat (bytesOf d (.admin 0) 0x5000 4)) ∧ (fnOf d 0).same = same) ∧
    (let d : Dev := { d0 with fw := running, parts := [(0, { Part.empty with held := true })] }
     procRuns d procHIF = true ∧ (partOf d 0).held = true) ∧
    (∀ port ∈ [HostPort.portA, .portB], strapped d0 port = false ∧ d0.pins.perst.contains port = false ∧
      (let d : Dev := { d0 with pins := { Pins.reset with perst := [port] } }
       d.pins.perst.contains port = true)) ∧
    bitOf (regOf d0 .HIF_RESET_CTRL 0) 0 = false ∧
    (let d : Dev := { d0 with fw := running, regs := [(⟨.HIF_RESET_CTRL, 0, 0⟩, 1#32)] }
     bitOf (regOf d .HIF_RESET_CTRL 0) 0 = true ∧ d.fw.notice = none ∧ procRuns d procHIF = true) := by
  refine ⟨by decide, by decide, by decide, by decide, by decide, by decide⟩

/-- Premises of `FunctionResets`: a host port that is strapped off. -/
theorem witness_FunctionResets_strapped : strapped { d0 with pins := { Pins.reset with straps := 8 } } .portB = true := by decide

/-- Premises of `ModuleResets` at concrete states and operands. -/
theorem witness_ModuleResets :
    ({ Fw.reset with notice := some 1 } : Fw).notice = some 1 ∧ resettable d0 = true ∧
    (let d : Dev := { d0 with fw := running, regs := [(⟨.TOP_ERR_STATUS, 0, 0⟩, 0x10#32), (⟨.TOP_ERR_CTRL, 0, 0⟩, 4#32), (⟨.TOP_ERR_FIRST, 0, 0⟩, 0x10000000#32)] }
     awake d = true ∧ autoResets d = true) := by
  refine ⟨rfl, by decide, by decide⟩

/-- Premises of `CoreRetires` at concrete states and operands. -/
theorem witness_CoreRetires :
    let d : Dev := { d0 with fw := running }
    procRuns d procSUP = true ∧ d.retired.contains 799 = false ∧
      ∃ e, Runs (each (allParts.filter fun p => (partOf d p).alive && !(coreTasks d 799 p).isEmpty) fun p =>
        abortTasks p 0x19 fun t => ((coreTasks d 799 p).map (·.tid)).contains t.tid) d () e :=
  ⟨by decide, by decide, _, fun _ => by rfl⟩

/-- A module whose firmware runs, with every domain on and link 4 in state `x`, and with the expert feature active. -/
def linked (x : Link) : Dev := { d0 with
  fw := running
  pwr := { Pwr.reset with doms := List.replicate 50 .on }
  fns := [(0, { Fn.empty with feat := 0x1FFFF })]
  regs := [(⟨.TYL_ENG_CTRL, 1, 0⟩, 0x20#32), (⟨.TYL_LANE_CTRL, 1, 0⟩, 0x100#32)]
  links := [(4, x)] }

/-- Premises of `LinkTrainings`: links down and failed, and lane counts around the minimum. -/
theorem witness_LinkTrainings :
    (∀ st ∈ [LinkSt.down, .failed], let d := linked { Link.empty with st := st }
      procRuns d procLNK = true ∧ domOf d (40 + 4 / 16) = .on ∧ linkLanes d 4 = some [0, 1, 2, 3, 4, 5, 6, 7] ∧
        bitOf (regOf d .TYL_ENG_CTRL (4 / 4)) 5 = true ∧ linksBasic d = false ∧ (linkOf d 4).st = st) ∧
    (let d := linked { Link.empty with st := .training, lanes := 8 }
     (linkOf d 4).st = .training ∧ minLanes d 4 = 4 ∧
       (∀ m ∈ [(0x7, 3), (0xF, 4), (0xFF, 8)], popcount (m.1 &&& laneMask ((linkLanes d 4).getD [])) = m.2)) := by
  refine ⟨by decide, by decide⟩

/-- A data frame's words: sequence number `n`, class C, to channel handle 0 of module 0, with 256 payload bytes of 0. -/
def dataFrame (n : Nat) : List DWord := BitVec.ofNat 64 (n * 2 ^ 50) :: List.replicate 32 0#64

/-- A frame kept for replay. -/
def keptFrame : Frame := ⟨0, 0, true, 0, true, 0, [], false⟩

/-- A link that is up. -/
def up : Link := { Link.empty with
  st := .up
  lanes := 8
  rxMask := 0xFF
  txMask := 0xFF }

set_option maxRecDepth 100000 in
/-- Premises of `LinkFramesAndTimers`: frames with the expected number and another, the NAK latch set and not. -/
theorem witness_LinkFramesAndTimers :
    (∀ nak ∈ [false, true], let d := linked { up with nak := nak }
      awake d = true ∧ (linkOf d 4).live = true ∧ (linkOf d 4).nak = nak ∧ (linkOf d 4).rxSeq = 0 ∧
        (∀ n ∈ [0, 1], ((frameOf ((dataFrame n).map (·.toNat))).map (·.seq)) = some n ∧ bitsOf (((dataFrame n).map (·.toNat)).getD 0 0) 63 62 = 0)) ∧
    Runs wakeFabric (linked up) () (linked up) ∧
    (let ws : List DWord := BitVec.ofNat 64 (2 ^ 62) :: List.replicate 32 0#64
     bitsOf ((ws.map (·.toNat)).getD 0 0) 63 62 = 1 ∧ bitOf ((ws.map (·.toNat)).getD 3 0) 63 = false ∧ bitOf ((ws.map (·.toNat)).getD 3 0) 62 = false) :=
  ⟨by decide +kernel, fun _ => rfl, by decide +kernel⟩

/-- Premises of `LinkFramesAndTimers`: replays 0, 15 and 16; lanes that leave enough and too few. -/
theorem witness_LinkFramesAndTimers_timers :
    (let d := linked { up with owe := true, got := 64 }
     (linkOf d 4).live = true ∧ (linkOf d 4).owe = true ∧ 64 ≤ (linkOf d 4).got) ∧
    (∀ n ∈ [0, 15, 16], let d := linked { up with kept := [keptFrame], stuck := n }
      (linkOf d 4).live = true ∧ (linkOf d 4).kept ≠ [] ∧ (linkOf d 4).stuck = n) ∧
    (linkOf (linked { up with nak := true }) 4).nak = true ∧
    (let d := linked up
     bitOf ((linkOf d 4).lreq.getD (linkOf d 4).rxMask) 7 = true ∧ minLanes d 4 ≤ popcount (0xFF - 2 ^ 7)) ∧
    (let d := linked { up with rxMask := 0xF }
     bitOf ((linkOf d 4).lreq.getD (linkOf d 4).rxMask) 3 = true ∧ popcount (0xF - 2 ^ 3) < minLanes d 4) ∧
    (let d := linked { up with rxMask := 0x7F }
     bitOf ((linkOf d 4).lreq.getD (linkOf d 4).rxMask) 7 = false ∧ procRuns d procLNK = true ∧ ((linkLanes d 4).getD []).contains 7 = true ∧
       tabGet (linkOf d 4).downs (7 : LaneId) 0 ≤ bitsOf (regOf d .TYL_LANE_CTRL (4 / 4)) 15 12) := by decide +kernel

/-- A module with one channel end of index 0. -/
def ended (c : Chan) : Dev := { mapped with chans := [(0, c)] }

/-- The 32 bytes of a channel message from module 1 about shape `shape`. -/
def chanMsg (shape : Nat) : List Byte := leBytes 1 0 ++ leBytes 1 shape ++ leBytes 2 1 ++ List.replicate 28 0#8

/-- Premises of `ChannelControl`: an end in each state. -/
theorem witness_ChannelControl :
    chanBy d0 0 = none ∧ chanBy (ended (chanWith 0)) 0 = some (0, chanWith 0) ∧
    (∀ st ∈ [ChanSt.listen, .connecting, .opened, .closing, .failed], let c := { chanWith 0 with st := st }
      chanBy (ended c) (0#32).toNat = some (0, c) ∧ chanOf (ended c) 0 = some c ∧ fieldAt (chanMsg c.shape) 2 2 = c.peer ∧ fieldAt (chanMsg c.shape) 1 1 = c.shape ∧
        fieldAt (chanMsg 99) 1 1 ≠ c.shape) ∧
    (∃ e c', Runs (startClosing 0) (ended (chanWith 0)) () e ∧ chanOf e 0 = some c') ∧
    (∀ n ∈ [7, 8], ({ chanWith 0 with st := .connecting, hellos := n } : Chan).hellos = n) ∧
    ({ chanWith 0 with sent := 1 } : Chan).pLanded < ({ chanWith 0 with sent := 1 } : Chan).sent :=
  ⟨by decide, by decide, by decide, ⟨_, _, fun _ => by rfl, by rfl⟩, by decide, by decide⟩

/-- Channel 0 with its ring on the page of `mapped`. -/
def ringed (kind : Nat) : Chan := { chanWith kind with ring := 0x1000 }

set_option maxRecDepth 100000 in
/-- Premises of `ChannelTraffic` at concrete states and operands. -/
theorem witness_ChannelTraffic :
    (∀ kind ∈ [0, 3], let c := ringed kind
      chanBy (ended c) (0#32).toNat = some (0, c) ∧ c.landed < c.said.2 + c.slots ∧ [1#8].length ≤ c.slotBytes ∧ c.slotBytes < (List.replicate 257 0#8).length) ∧
    (∃ e, Runs (landInRing 0 [1#8] true) (ended (ringed 0)) true e) ∧
    (∀ b ∈ [1#8, 0x1F#8], 1 ≤ fieldAt [b] 0 1 ∧ fieldAt [b] 0 1 < 0x20) ∧ (∀ b ∈ [0#8, 0x20#8], fieldAt [b] 0 1 = 0 ∨ 0x20 ≤ fieldAt [b] 0 1) ∧
    (let c := { ringed 0 with landed := 4 }
     chanBy (ended c) 0 = some (0, c) ∧ c.said.2 + c.slots ≤ c.landed) ∧
    (let msg := leBytes 2 1 ++ leBytes 2 8 ++ leBytes 4 9 ++ leBytes 8 0x100 ++ List.replicate 8 1#8
     rmaOk (ringed 0) msg = true ∧ rmaLen msg = 8 ∧ rmaVa msg = 0x100 ∧ rmaOk (ringed 0) [] = false ∧
       (∃ bs e, Runs (vaRead (envOf (ended (ringed 0)) 0) 0 { stream := true } 0x100 8) (ended (ringed 0)) (.ok (bs, [])) e) ∧
       ∃ e y, Runs (vaWrite (envOf (ended (ringed 0)) 0) 0 { stream := true, next := !inOwnBank (ended (ringed 0)) 0 0x100 } 0x100 [1#8, 2#8] []) (ended (ringed 0)) (.ok ()) e ∧ chanOf e 0 = some y) ∧
    (let r : RmaReq := ⟨9, false, 0, some (0, 0, 0, 0), none⟩
     let d : Dev := streaming (ended { ringed 0 with reqs := [r] }) landing .fetching (piece 2 (some 9))
     reqOf { ringed 0 with reqs := [r] } 9 = some r ∧ (∃ e x ch, Runs (endRma 0 9) d () e ∧ pieceOf e 0 0 0 0 = some (x, ch, piece 2 (some 9))) ∧
       ∃ v e, Runs draw d v e) :=
  ⟨by decide, ⟨_, fun _ => by rfl⟩, by decide, by decide, by decide,
    ⟨by decide, by decide, by decide, by decide, ⟨_, _, fun _ => by rfl⟩, _, _, fun _ => by rfl, by rfl⟩,
    by decide, ⟨_, _, _, fun _ => by rfl, by rfl⟩, _, _, fun _ => by rfl⟩

set_option maxRecDepth 100000 in
/-- Premises of `Piles` at concrete states and operands. -/
theorem witness_Piles :
    (∃ e r e', Runs (walkTouch 0 0x100) d0 () e ∧ (locate e 0 (envOf e 0).odd (envOf e 0).chanOk {} false 0x100).1.stored e = none ∧
      Runs (vaRead (envOf e 0) 0 {} 0x100 4) e (.error r) e') ∧
    (∃ e ws e1 e2 bs bad e3, Runs (walkTouch 0 0x100) mapped () e ∧
      let l := (locate e 0 (envOf e 0).odd (envOf e 0).chanOk {} false 0x100).1
      l.stored e = some 0x200100 ∧ Runs (do
        segmentPath (pileOfPa 0x200100) ⟨[], [], ⟨1, false⟩, false⟩
        segError 0x200100 [] []) e ws e1 ∧ Runs (hurtLine l ws) e1 () e2 ∧ Runs (vaRead (envOf e2 0) 0 {} 0x100 4) e2 (.ok (bs, bad)) e3) ∧
    (∃ e e', Runs (onSome ((locate mapped 0 (envOf mapped 0).odd (envOf mapped 0).chanOk {} true 0x100).1.stored mapped) fun pa => linkPath (pileOfPa pa) ⟨1, false⟩) mapped () e ∧
      Runs (vaWrite (envOf e 0) 0 {} 0x100 [1#8] []) e (.ok ()) e') :=
  ⟨⟨_, _, _, fun _ => by rfl, by rfl, fun _ => by rfl⟩, ⟨_, _, _, _, _, _, _, fun _ => by rfl, by rfl, fun _ => by rfl, fun _ => by rfl, fun _ => by rfl⟩,
    ⟨_, _, fun _ => by rfl, fun _ => by rfl⟩⟩

set_option maxRecDepth 100000 in
/-- Premises of `Piles` at concrete states and operands: an atomic. -/
theorem witness_Piles_atomic :
    (locate mapped 0 (envOf mapped 0).odd (envOf mapped 0).chanOk { inner := true } true 0x100).1 = .plain 0x200100 ∧
    (∃ e r e', Runs (vaRead (envOf mapped 0) 0 {} 0x100 4) mapped (.ok ([1#8, 2#8, 3#8, 4#8], [])) e ∧
      Runs (vaWrite (envOf e 0) 0 { inner := true } 0x100 [7#8, 0#8, 0#8, 0#8] []) e r e') ∧
    leBytes 4 (atomicResult .exchange (leNat [1#8, 2#8, 3#8, 4#8]) 7) = [7#8, 0#8, 0#8, 0#8] :=
  ⟨by decide +kernel, ⟨_, _, _, fun _ => by rfl, fun _ => by rfl⟩, by decide⟩

/-- Premises of `Piles`: a pile that trains, one that is ready, and one that patrols. -/
theorem witness_Piles_states :
    (∀ t ∈ [true, false], let d : Dev := { d0 with piles := [(7, { Pile.empty with training := t, ready := true, fences := [⟨0, 65536, 1⟩] })] }
      (pileOf d 7).training = t ∧ (pileOf d 7).ready = true ∧ (pileOf d 7).lines = [] ∧ (pileOf d 7).fences = [⟨0, 65536, 1⟩]) ∧
    bitsOf (regOf { d0 with regs := [(⟨.PILE_CTRL, 7, 0⟩, 0x1000000#32)] } .PILE_CTRL 7) 31 24 ≠ 0 := by decide

/-- Premises of `InputPower`: voltages where the clauses meet. -/
theorem witness_InputPower :
    d0.pwr.shut = false ∧
    (∀ mv ∈ [38000, 46000], 38000 ≤ mv ∧ mv ≤ 46000) ∧
    (∀ x ∈ [(34000, 0), (35999, 24998), (36000, 0), (37999, 0)], 34000 ≤ x.1 ∧ x.1 < 38000 ∧ (if x.1 < 36000 then x.2 + 1 else 0) < 25000) ∧
    (∀ mv ∈ [46001, 48000], 46000 < mv ∧ mv ≤ 48000) ∧
    (∀ x ∈ [(33999, 0), (48001, 0), (35999, 24999)], x.1 < 34000 ∨ 48000 < x.1 ∨ 25000 ≤ (if x.1 < 36000 then x.2 + 1 else 0)) ∧
    ({ Pwr.reset with shut := true } : Pwr).shut = true ∧ d0.pins.broken = false := by decide

/-- Premises of `PowerLoops`: currents and powers where the clauses meet. -/
theorem witness_PowerLoops :
    awake d0 = true ∧ procRuns { d0 with fw := running } procBAL = true ∧
    (∀ x ∈ [(8001, 63), (8001, 64)], 8000 < x.1 ∧ 64 ≤ x.2 + 1) ∧ (∀ x ∈ [(8000, 100), (8001, 62)], (if 8000 < x.1 then x.2 + 1 else 0) < 64) ∧
    (∀ x ∈ [(2401, 0), (0, 7001)], 2400 < x.1 ∨ 7000 < x.2) ∧ d0.pwr.guard = false ∧
    (let d : Dev := { d0 with
       pwr := { Pwr.reset with guard := true, held := some 255 }
       regs := [(⟨.PWR_INPUT, 0, 0⟩, BitVec.ofNat 32 (38000 * 65536))] }
     d.pwr.guard = true ∧ bitsOf (regOf d .PWR_INPUT 0) 31 16 = 38000) := by decide

/-- A module whose domains all stand in state `x`. -/
def domed (x : DomSt) (q : List Nat) : Dev := { d0 with pwr := { Pwr.reset with
  doms := List.replicate 50 x
  wakeQ := q } }

/-- Premises of `PowerDomains` at concrete states and operands. -/
theorem witness_PowerDomains :
    (let d : Dev := { domed .on [] with regs := [(⟨.PWR_SLEEP, 0, 0⟩, 0#32)] }
     domOf d 31 = .on ∧ domHeld d 31 = false ∧ domIdle d 31 = true ∧ bitOf (regOf d .PWR_SLEEP 0) 1 = false ∧ domHeld d 39 = false ∧ coreIdle d 799 = true ∧
       domHeld d 44 = false ∧ domHeld d 45 = false) ∧
    (let d : Dev := { domed .on [] with regs := [(⟨.PWR_SLEEP, 0, 0⟩, 2#32)] }
     bitOf (regOf d .PWR_SLEEP 0) 1 = true ∧ (d.wins.all fun w => !w.inDom 31) = true ∧ domIdle d 31 = true) ∧
    (∀ x ∈ [DomSt.sleep, .off], let d := domed x [31, 48]
      domOf d 31 = x ∧ d.pwr.wakeQ.head? = some 31 ∧ wakingCores d < 4 ∧ domOf d 48 = x ∧ d.pwr.wakeQ.contains 48 = true) ∧
    (∀ i ∈ [0, 31, 32, 39, 40, 49], domOf (domed .waking []) i = .waking) ∧
    (let d : Dev := { domed .on [] with piles := [(7, { Pile.empty with ready := true })] }
     (pileOf d 7).ready = true ∧ (pileOf d 7).fences = []) ∧
    (let d : Dev := { domed .sleep [] with
       pwr := { Pwr.reset with doms := List.replicate 48 .sleep ++ [.on, .sleep] }
       regs := [(⟨.PWR_SLEEP, 0, 0⟩, 1#32)] }
     domOf d 48 = .on ∧ domHeld d 48 = false ∧ bitOf (regOf d .PWR_SLEEP 0) 0 = true ∧ ringsWait d = false ∧
       ((d.pwr.doms.take 40).all fun x => x == .sleep || x == .off) = true) ∧
    tabGet d0.pins.ports .portB PortSt.up = .up ∧
    tabGet ({ Pins.reset with ports := [(.portA, .l1)] } : Pins).ports .portA PortSt.up = .l1 := by decide +kernel

/-- Premises of `ManagementMessages`: and `SpdmRequests`: each binding up, SEC and BAL running, and indices where the clauses meet. -/
theorem witness_ManagementMessages :
    (∀ b ∈ [Binding.sideband, .pcieA, .pcieB], bindingUp d0 b = true ∧ bindingUp { d0 with fw := running } b = true) ∧
    procRuns { d0 with fw := running } procBAL = true ∧ procRuns { d0 with fw := running } procSEC = true ∧ bitOf d0.pins.straps 2 = false ∧
    (∀ t ∈ [0, 2], fieldAt (leBytes 1 0 ++ leBytes 1 t) 1 1 % 64 = 0 ∨ fieldAt (leBytes 1 0 ++ leBytes 1 t) 1 1 % 64 = 2) ∧
    (fieldAt (leBytes 1 0 ++ leBytes 1 1) 1 1 % 64 ≠ 0 ∧ fieldAt (leBytes 1 0 ++ leBytes 1 1) 1 1 % 64 ≠ 2) ∧
    d0.sec.conns.contains Binding.sideband = false ∧ (1 : Nat) ≠ 0 ∧ (∀ i ∈ [1, 10], 1 ≤ i ∧ i ≤ 10) ∧ (∀ i ∈ [11, 254], 10 < i ∧ i ≠ 255) := by
  decide +kernel

/-- Premises of `SpdmRequests` at concrete states and operands. -/
theorem witness_SpdmRequests :
    (∀ b ∈ [Binding.sideband, .pcieA, .pcieB], bindingUp { d0 with fw := running } b = true) ∧ procRuns { d0 with fw := running } procSEC = true ∧
    (∀ x ∈ [(true, false), (false, true), (false, false)], (x.1 && x.2) = false) ∧ (1 : Nat) ≠ 0 ∧
    (∀ i ∈ [1, 10], 1 ≤ i ∧ i ≤ 10) ∧ (∀ i ∈ [11, 254, 256], 10 < i ∧ i ≠ 255) := by decide

/-- The load of a bundle stands at state `n`. -/
def loading (n : Nat) : Dev := { d0 with
  fw := { running with pend := bundle }
  regs := [(⟨.FW_STATUS, 0, 0⟩, BitVec.ofNat 32 n)] }

/-- Premises of `BundleLoads` at concrete states and operands. -/
theorem witness_BundleLoads :
    (∀ n ∈ [0, 5], let d := loading n
      awake d = true ∧ reaches d 0 = true ∧ isPf 0 = true ∧ (fwState d = 0 ∨ fwState d = 5)) ∧ Runs wakeFabric (loading 0) () (loading 0) ∧
    fwState (loading 1) = 1 ∧ fwState (loading 2) = 2 ∧ (∃ c, bundleFails (loading 2) [] false = some c) ∧ fwState (loading 3) = 3 ∧
    procRuns (loading 3) procHIF = true ∧ bitOf (0x80000000#32 : Word).toNat 31 = true :=
  ⟨by decide, fun _ => rfl, by decide, by decide, ⟨1, by decide +kernel⟩, by decide, by decide, by decide⟩

/-- Premises of `BundleLoads`: the bundle passes, under that reading. -/
theorem witness_BundleLoads_passes (h : ZeroHashes) : bundleFails (loading 2) (loading 2).fw.pend (loading 2).fw.dmaErr = none :=
  witness_bundle h _ rfl

/-- Premises of `ProcessorEvents`: restarts that make four and five within 600 s. -/
theorem witness_ProcessorEvents :
    (let d : Dev := { d0 with fw := running }
     procRuns d 0 = true ∧ procRuns d 5 = true ∧ (0 : ProcId) ≠ 5 ∧ (tabGet d.fw.mail ((0 : ProcId), (5 : ProcId)) []).length < 32 ∧ (procOf d 3).st = .running) ∧
    (let d : Dev := { d0 with fw := { Fw.reset with procs := [(0, { Proc.empty with st := .running })] } }
     procRuns d 0 = true ∧ procRuns d 5 = false) ∧
    (∀ ts ∈ [[10, 20, 30], [10, 20, 30, 40]],
      let d : Dev := { d0 with fw := { running with procs := tabPut running.procs 3 { Proc.empty with st := .restarting, times := ts } } }
      (procOf d 3).st = .restarting ∧ procRuns d procSEC = true ∧ d.fw.load = none ∧
        (50 :: (procOf d 3).times.filter fun t => decide (50 < t + 600)).length = ts.length + 1) ∧
    (let l : FwLoad := ⟨0, 9, [1], [], false⟩
     let d : Dev := { d0 with
       fw := { running with load := some l }
       regs := [(⟨.FW_STATUS, 0, 0⟩, 0x10000#32)] }
     d.fw.load = some l ∧ bitOf (regOf d .FW_STATUS 0) 16 = true ∧ l.act.head? = some 1 ∧ emergency d = false) := by decide +kernel

/-- Premises of `ProcessorEvents`: a sender that is the receiver, a full queue, a processor that does not run, a restart asked for, and a restart
within a load of a processor that has been activated. -/
theorem witness_ProcessorEvents_edges :
    (let d : Dev := { d0 with fw := { running with mail := [((0, 5), List.replicate 32 [])] } }
     procRuns d 0 = true ∧ 32 ≤ (tabGet d.fw.mail ((0 : ProcId), (5 : ProcId)) []).length ∧ procRuns { d0 with fw := Fw.reset } 0 = false) ∧
    (procOf { d0 with fw := Fw.reset } 3).st ≠ .running ∧ ProcFault.poisonedWord ≠ .sharedWord ∧
    (let d : Dev := { d0 with fw := running }
     reaches d 0 = true ∧ isPf 0 = true ∧ Runs wakeFabric d () d) ∧
    (let l : FwLoad := ⟨0, 9, [1], [3], false⟩
     let d : Dev := { d0 with fw := { running with
       load := some l
       procs := tabPut running.procs 3 { Proc.empty with st := .restarting } } }
     (procOf d 3).st = .restarting ∧ procRuns d procSEC = true ∧ d.fw.load = some l ∧ l.act.head? ≠ some 3 ∧ 3 ∈ l.done) ∧
    (let l : FwLoad := ⟨0, 9, [3], [], false⟩
     let d : Dev := { d0 with fw := { running with
       load := some l
       procs := tabPut running.procs 3 { Proc.empty with st := .restarting } } }
     (procOf d 3).st = .restarting ∧ procRuns d procSEC = true ∧ d.fw.load = some l ∧ l.act.head? = some 3 ∧ bitOf (regOf d .FW_STATUS 0) 16 = false) :=
  ⟨by decide, by decide, by decide, ⟨by decide, by decide, fun _ => rfl⟩, by decide, by decide⟩

/-- A restarted processor's stored component is the measured one under the reading in which every digest is 0. -/
theorem witness_ProcessorEvents_good (h : ZeroHashes) (i : ProcId) :
    ((((List.range 6).find? fun j => fieldAt (bundleEntry bundle j) 0 1 == i.val).map (bundleEntry bundle)).map (·.drop 16)) =
      some (Config.sm3 (bundleComp bundle i.val)) := by
  rw [h.sm3]
  revert i
  decide +kernel

/-- Premises of `ProcessorEvents`: with no bundle there is no such component. -/
theorem witness_ProcessorEvents_bad : ((((List.range 6).find? fun j => fieldAt (bundleEntry [] j) 0 1 == 3).map (bundleEntry [])).map (·.drop 16)) = none := by decide

/-- SEC runs, with nothing burned or with three keys revoked. -/
def securing (revoked : Nat) : Dev := { d0 with
  fw := { running with running := bundle }
  sec := { Sec.reset with revoked := revoked } }

/-- Premises of `SecurityCommands` at concrete states and operands. -/
theorem witness_SecurityCommands :
    reaches (securing 0) 0 = true ∧ Runs wakeFabric (securing 0) () (securing 0) ∧ procRuns (securing 0) procSEC = true ∧ bundleSvn bundle = 1 ∧
    (securing 0).sec.svn < min (bundleSvn (securing 0).fw.running) 255 ∧
    (let d : Dev := { securing 0 with sec := { Sec.reset with svn := 1 } }
     min (bundleSvn d.fw.running) 255 ≤ d.sec.svn) ∧
    ((securing 0).sec.revoked ||| 2 ^ 3) % 16 ≠ 15 ∧ bitOf (securing 0).sec.revoked 3 = false ∧ ((securing 7).sec.revoked ||| 2 ^ 3) % 16 = 15 ∧
    (∃ c, tokenFails (securing 0) 0 (tokenBytes (securing 0)) = some c) ∧
    (∃ e, Runs endUnlock (securing 0) () e ∧ procRuns e procSEC = true) :=
  ⟨by decide, fun _ => rfl, by decide, by decide +kernel, by decide +kernel, by decide +kernel, by decide, by decide, by decide, ⟨1, by decide +kernel⟩,
    _, fun _ => by rfl, by rfl⟩

/-- Premises of `SecurityCommands`: SEC restarts; the unlock ended or not; a refusal cleared or not. -/
theorem witness_SecurityCommands_edges :
    (let d : Dev := { d0 with fw := { running with procs := tabPut running.procs procSEC { Proc.empty with st := .restarting } } }
     reaches d 0 = true ∧ (procOf d procSEC).st = .restarting) ∧
    (∀ b ∈ [false, true], ∃ e, Runs (onlyIf b (setField .SEC_KEY_CTRL 0 0 2 2 0)) (securing 0) () e ∧ procRuns e procSEC = true) ∧
    (∀ b ∈ [false, true], ∃ e, Runs (onlyIf b endUnlock) (securing 0) () e ∧ procRuns e procSEC = true) :=
  ⟨by decide, fun b _ => by cases b <;> exact ⟨_, fun _ => by rfl, by rfl⟩, fun b _ => by cases b <;> exact ⟨_, fun _ => by rfl, by rfl⟩⟩

/-- A debug token that asks for a full unlock of every partition for one second, to a challenge of 0. -/
def token : List Byte := leBytes 4 0x4B544744 ++ leBytes 2 1 ++ leBytes 2 3 ++ List.replicate 24 0#8 ++ leBytes 2 0xFFFF ++ leBytes 2 1 ++ List.replicate 156 0#8

/-- Premises of `SecurityCommands`: that token passes, under that reading. -/
theorem witness_SecurityCommands_token (h : ZeroHashes) (d : Dev) (hf : hasFeat d 0 23 = true) (hn : d.sec.nonce = some (List.replicate 16 0#8)) : tokenFails d 0 token = none := by
  simp only [tokenFails, hf, hn, h.sm3, h.debug, h.verify, h.serial]
  decide +kernel

/-- Premises of `StrikeCommands` at concrete states and operands. -/
theorem witness_StrikeCommands :
    (∀ v ∈ [1, 0x81, 0xFF], v < 256 ∧ bitOf v 0 = true) ∧ bitOf 0x101 8 = true ∧
    (let d : Dev := { d0 with sec := { Sec.reset with unlock := some (1, 0xFFFF) } }
     inUnlock d 0 (dbgSel d) = true ∧ unlockOf d 0 = some 0xFFFF) ∧ inUnlock d0 0 (dbgSel d0) = false ∧
    bitOf (regOf { d0 with regs := [(⟨.STRIKE_CTRL, 0, 0⟩, 0x40#32)] } .STRIKE_CTRL 0) 6 = true ∧
    (let d : Dev := { d0 with
       regs := [(⟨.STRIKE_THR_SEL, 0, 3⟩, 0x1200#32), (⟨.STRIKE_THR_LO, 0, 3⟩, 5#32), (⟨.STRIKE_CTRL, 0, 0⟩, 0x10#32)]
       ctrs := [(⟨.PWR_ENERGY_MJ, 0, 0⟩, 5#64)]
       strike := ⟨none, [false, false, false, true], none⟩ }
     counterAt d 0 (bitsOf (regOf d .STRIKE_THR_SEL 0 3) 25 3 * 8) = some (5, false) ∧ regOf d .STRIKE_THR_HI 0 3 * 2 ^ 32 + regOf d .STRIKE_THR_LO 0 3 = 5 ∧
       d.strike.below.getD 3 false = true ∧ bitOf (regOf d .STRIKE_CTRL 0) (1 + 3) = true) ∧
    (let d : Dev := { d0 with dbg := [(0xFFF, { DbgBlk.empty with delayed := [(1, 2)] })] }
     (dbgOf d (0xFFF#12).toNat).delayed = [(1, 2)]) := by decide +kernel

/-- Premises of `StrikeCommands`: the input disabled, a counter below its threshold and one that stays above it, no credit held, a partial unlock. -/
theorem witness_StrikeCommands_edges :
    bitOf (regOf d0 .STRIKE_CTRL 0) 6 = false ∧ (dbgOf d0 (0xFFF#12).toNat).delayed = [] ∧
    (∀ thr ∈ [5, 6], let d : Dev := { d0 with
       regs := [(⟨.STRIKE_THR_SEL, 0, 3⟩, 0x1200#32), (⟨.STRIKE_THR_LO, 0, 3⟩, BitVec.ofNat 32 thr)]
       ctrs := [(⟨.PWR_ENERGY_MJ, 0, 0⟩, 5#64)] }
     counterAt d 0 (bitsOf (regOf d .STRIKE_THR_SEL 0 3) 25 3 * 8) = some (5, false) ∧
       regOf d .STRIKE_THR_HI 0 3 * 2 ^ 32 + regOf d .STRIKE_THR_LO 0 3 = thr) ∧
    ({ d0 with strike := ⟨none, [false, false, false, false], none⟩ } : Dev).strike.below.getD 3 false = false ∧
    (∀ v ∈ [0, 1], bitOf v 8 = false) ∧ (∀ v ∈ [0x100, 0x101], bitOf v 8 = true) ∧
    (∃ sel, kindOf sel = .pile ∧ kindOf 0 ≠ .pile) ∧ bitsOf 0x8C000000 27 26 = 3 := by
  refine ⟨by decide +kernel, by decide +kernel, by decide +kernel, by decide +kernel, by decide, by decide, ⟨blockPile 0, by decide +kernel⟩, by decide⟩

end Sys2Proof.Tests
end

/-! SUPPORT. What a step is, said once: every command carries out an action, and then the module's engines go on. What every primitive effect keeps, every
step keeps; from that the invariant of the module and the permanence of its fuses and its retirement map. -/

namespace Sys2Proof.Proofs

open Sys2Proof.Machine Sys2Proof.Safety Sys2Proof.Laws

/-! A step, as an action. -/

/-- Every command carries out some action, and then the module's engines go on. -/
theorem exec_eq_always (i : Instr) (s : State) : ∃ m : Act Unit, exec i s = always m s := by
  cases i <;> exact ⟨_, rfl⟩

/-- A step idles, or leaves the module that some action and then the module's engines make of it. -/
theorem step_dev {s t : State} (h : step s = .next t) : t = s ∨ ∃ m : Act Unit, t.dev = settle (runAct m s.dev) := by
  unfold step at h
  split at h
  · exact .inl (Host.Outcome.next.inj h).symm
  · next c cs _ =>
    obtain ⟨m, hm⟩ := exec_eq_always c { s with pending := cs }
    exact .inr ⟨m, (congrArg State.dev (Host.Outcome.next.inj (hm.symm.trans h))).symm⟩

/-- A relation between modules that every effect keeps holds of every step. -/
theorem step_rel (R : Dev → Dev → Prop) (refl : ∀ d, R d d) (trans : ∀ a b c, R a b → R b c → R a c) (eff : ∀ d e, R d (Eff.apply d e))
    {s t : State} (h : step s = .next t) : R s.dev t.dev := by
  obtain rfl | ⟨m, hm⟩ := step_dev h
  · exact refl _
  · rw [hm]
    exact trans _ _ _ (run_rel R refl trans eff _ _) (settle_rel R refl trans eff _)

/-- A property of the module that every effect keeps is kept by every step. -/
theorem step_keeps (P : Dev → Prop) (eff : ∀ d e, P d → P (Eff.apply d e)) {s t : State} (h : step s = .next t) (hs : P s.dev) : P t.dev :=
  step_rel (fun a b => P a → P b) (fun _ => id) (fun _ _ _ f g => g ∘ f) eff h hs

/-! What each effect does to a part of the invariant. -/

/-- A memory of a sound module is in canonical form, also one that it does not list. -/
theorem memsSound_get {d : Dev} (h : MemsSound d) (r : Region) : Memory.wf (tabGet d.mems r []) = true := by
  unfold tabGet
  cases hf : tabFind d.mems r with
  | none => rfl
  | some m => exact h _ (tabFind_mem hf)

/-- A memory in canonical form may take a region's place. -/
theorem memsSound_put {d : Dev} (h : MemsSound d) (r : Region) {m : Mem} (hm : Memory.wf m = true) : MemsSound { d with mems := tabPut d.mems r m } := by
  intro x hx
  obtain rfl | hx := mem_tabPut hx
  · exact hm
  · exact h x hx

/-- Of the memories a full reset keeps some or none. -/
theorem memsSound_fullReset {d : Dev} (h : MemsSound d) (keepLog : Bool) : MemsSound (d.fullReset keepLog) := by
  cases keepLog with
  | true => exact fun x hx => h x (List.mem_of_mem_filter hx)
  | false => exact fun x hx => absurd hx List.not_mem_nil

/-- The saturating sum is the sum, capped at the greatest value of 64 bits. -/
theorem toNat_satAdd64 (v : DWord) (n : Nat) : (satAdd64 v n).toNat = min (v.toNat + n) (2 ^ 64 - 1) := by
  rw [satAdd64, BitVec.toNat_ofNat, Nat.mod_eq_of_lt (by omega)]

/-- A grant leaves every class with at least what it had. -/
theorem auditSound_grant {d : Dev} (h : AuditSound d) (c n : Nat) : AuditSound (Eff.apply d (.grant c n)) := by
  intro k
  have hk := h k
  by_cases hc : k = c
  · subst hc
    simp only [apply_grant, tabGet_put_same, toNat_satAdd64]
    omega
  · simpa only [apply_grant, tabGet_put_ne _ _ _ hc] using hk

/-- A return of no more than is outstanding leaves no class with more returned than granted. -/
theorem auditSound_ret {d : Dev} (h : AuditSound d) {c n : Nat} (hn : n ≤ outstanding d c) :
    AuditSound { d with returns := tabPut d.returns c (satAdd64 (tabGet d.returns c 0#64) n) } := by
  intro k
  have hk := h k
  by_cases hc : k = c
  · subst hc
    simp only [tabGet_put_same, toNat_satAdd64]
    unfold outstanding at hn
    omega
  · simpa only [tabGet_put_ne _ _ _ hc] using hk

/-- A core of the module joins a sorted retirement map in its place. -/
theorem retireSound_retire {d : Dev} (h : RetireSound d) (c : CoreId) : RetireSound (Eff.apply d (.retire c)) := by
  refine ⟨setIns_pairwise c.val h.1, fun x hx => ?_⟩
  obtain rfl | hx := mem_setIns.1 hx
  · exact c.isLt
  · exact h.2 x hx

/-! The invariant. -/

/-- Every effect keeps the invariant: but for those named, no effect reaches what it speaks of. -/
theorem inv_apply (q : List Instr) (d : Dev) (e : Eff) (h : Inv ⟨q, d⟩) : Inv ⟨q, e.apply d⟩ := by
  obtain ⟨hm, ha, hf, hr⟩ := h
  cases e with
  | write r a bs => exact ⟨memsSound_put hm r (memPutN_wf a bs (memsSound_get hm r)), ha, hf, hr⟩
  | zero r a n => exact ⟨memsSound_put hm r (memZero_wf a n (memsSound_get hm r)), ha, hf, hr⟩
  | drop r => exact ⟨fun x hx => hm x (List.mem_of_mem_filter hx), ha, hf, hr⟩
  | fullReset k => exact ⟨memsSound_fullReset hm k, fun _ => le_rfl, hf, hr⟩
  | grant c n => exact ⟨hm, auditSound_grant ha c n, hf, hr⟩
  | ret c n =>
    rw [apply_ret]
    split
    case isTrue hn => exact ⟨hm, auditSound_ret ha hn, hf, hr⟩
    case isFalse => exact ⟨hm, ha, hf, hr⟩
  | burnSvn n => exact ⟨hm, ha, ⟨max_le hf.1 (min_le_right n 255), hf.2⟩, hr⟩
  | burnKey k =>
    rw [apply_burnKey]
    split
    case isTrue hk => exact ⟨hm, ha, ⟨hf.1, hk⟩, hr⟩
    case isFalse => exact ⟨hm, ha, hf, hr⟩
  | retire c => exact ⟨hm, ha, hf, retireSound_retire hr c⟩
  | latch _ v | stream _ _ v | task _ _ v | asm _ v | chan _ v => cases v <;> exact ⟨hm, ha, hf, hr⟩
  | _ => exact ⟨hm, ha, hf, hr⟩

/-- Settles O3: every primitive effect keeps the invariant, and so every step does. -/
theorem stepKeepsInvariant : Obligations.StepKeepsInvariant := by
  intro s t hs h
  have keeps := step_keeps (fun d => Inv ⟨[], d⟩) (inv_apply []) h ⟨hs.mems, hs.audit, hs.fuses, hs.retire⟩
  exact ⟨keeps.mems, keeps.audit, keeps.fuses, keeps.retire⟩

/-! What no effect undoes. -/

theorem fusesKept_refl (d : Dev) : FusesKept d d := ⟨le_rfl, fun _ => id, fun _ => id⟩

theorem fusesKept_trans {a b c : Dev} (h : FusesKept a b) (g : FusesKept b c) : FusesKept a c :=
  ⟨h.svn.trans g.svn, fun k => g.revoked k ∘ h.revoked k, fun c => g.retired c ∘ h.retired c⟩

/-- No effect lowers the svn minimum, clears a revoke bit or takes a core from the retirement map. -/
theorem fusesKept_apply (d : Dev) (e : Eff) : FusesKept d (e.apply d) := by
  have same := fusesKept_refl d
  cases e with
  | burnSvn n => exact ⟨le_max_left _ _, same.revoked, same.retired⟩
  | burnKey k =>
    rw [apply_burnKey]
    split
    case isTrue => exact ⟨le_rfl, fun j hj => by simp [hj], same.retired⟩
    case isFalse => exact same
  | retire c => exact ⟨le_rfl, same.revoked, fun _ hx => mem_setIns.2 (.inr hx)⟩
  | latch _ v | stream _ _ v | task _ _ v | asm _ v | chan _ v => cases v <;> exact ⟨le_rfl, same.revoked, same.retired⟩
  | ret => rw [Eff.apply]; split <;> exact ⟨le_rfl, same.revoked, same.retired⟩
  | _ => exact ⟨le_rfl, same.revoked, same.retired⟩

/-- Settles O4: no primitive effect undoes a fuse or a retirement, and so no step does. -/
theorem stepKeepsFuses : Obligations.StepKeepsFuses := fun _ _ h =>
  step_rel FusesKept fusesKept_refl (fun _ _ _ => fusesKept_trans) fusesKept_apply h

/-! The state after reset. -/

/-- The state after reset meets the invariant: it holds no memory, no audit class has granted anything, no fuse is burned and no core is retired. -/
theorem inv_reset : Inv State.reset :=
  { mems := fun _ hx => absurd hx List.not_mem_nil
    audit := fun _ => le_rfl
    fuses := ⟨by decide, by decide⟩
    retire := ⟨.nil, fun _ hx => absurd hx List.not_mem_nil⟩ }

/-- Settles O2: nothing waits and nothing is in hand in the reset module, which meets the invariant. -/
theorem resetIsSound : Obligations.ResetIsSound := ⟨inv_reset, rfl, by decide⟩

end Sys2Proof.Proofs

/-! SUPPORT. What the admin commands of functions, partitions and the module answer once they have their turn (R435). -/

namespace Sys2Proof.Proofs

open Sys2Proof.Machine Sys2Proof.Safety Sys2Proof.Laws

/-- An admin command that has its turn, and whose body comes to an action from module `d'` and then a completion, answers what the action and the
posting of that completion make of `d'`. -/
theorem admin_answers {s : State} {f : FnId} {host e b : List Byte} {d d' : Dev} (h : AdminTurn s.dev f host e b d) {i : Instr} {mine : List Byte → Bool}
    {body : FnId → PartId → Nat → List Byte → Act Reply} (he : exec i s = after (adminCmd f mine host body) s) (hm : mine e = true) (m : Act Unit) {st res : Nat}
    (hb : ∀ k, Prog.run (body f (Fin.ofNat 16 (cmdPart e)) (cmdTag e) b k) d = Prog.run (m fun _ => k (.done st 0 res)) d') :
    Answers i s (runAct (do
      m
      adminAnswer f e st res) d') := by
  rw [Answers, admin_run h he hm, hb]
  rfl

section
variable {s : State} {f : FnId} {e b : List Byte} {d : Dev} (h : AdminTurn s.dev f [] e b d)
include h

/-- FEATURES on a function whose partition has no job running: it activates what is asked and offered (R467). -/
theorem features_answers (hop : cmdOp e = 1) (hbase : fieldAt b 0 32 % 65536 = 65535)
    (hidle : ((fnOf d f).part.all fun q => !(partOf d q).running) = true) :
    Answers (.features f) s (runAct (adminAnswer f e 0 (bundleVersion d.fw.running))
      { d with fns := tabPut d.fns f { fnOf d f with feat := fieldAt b 0 32 &&& (offered d ||| 0xFFFF) } }) := by
  have hstopped : ((fnOf d f).part.map fun q => (partOf d q).running).getD false = false := by
    cases hp : (fnOf d f).part with
    | none => rfl
    | some q => simpa [hp] using hidle
  refine admin_answers (body := doFeatures) h rfl (by simp [isFeatures, hop]) (pure ()) fun k => ?_
  simp only [doFeatures, run_bind, run_look, hbase, hstopped, ne_eq, not_true_eq_false, Bool.false_eq_true, if_false]
  rfl

/-- BIND between steps of a function that belongs to no partition (R435). -/
theorem bind_answers (hop : cmdOp e = 4) (hfn : fieldAt b 0 1 ≤ 15) (hstep : (partOf d (Fin.ofNat 16 (cmdPart e))).step = none)
    (hbind : fieldAt (cmdParams e) 1 1 = 0) (hb : fieldAt b 1 1 = 0) (hfree : (fnOf d (Fin.ofNat 16 (fieldAt b 0 1))).part = none) :
    Answers (.bind f) s (runAct (adminAnswer f e 0 0)
      { d with
        fns := tabPut d.fns (Fin.ofNat 16 (fieldAt b 0 1))
          { fnOf d (Fin.ofNat 16 (fieldAt b 0 1)) with part := some (Fin.ofNat 16 (cmdPart e)) } }) := by
  refine admin_answers (body := doBind) h rfl (by simp [isOp, hop, hbind]) (pure ()) fun k => ?_
  simp only [doBind, run_bind, run_look]
  rw [if_neg (by omega), if_neg (by rw [hstep, hfree]; simp)]
  rfl

/-- UNBIND between steps of a function from its partition (R435). -/
theorem unbind_answers (hop : cmdOp e = 4) (hfn : fieldAt b 0 1 ≤ 15) (hstep : (partOf d (Fin.ofNat 16 (cmdPart e))).step = none)
    (hunbind : fieldAt (cmdParams e) 1 1 = 1) (hbound : (fnOf d (Fin.ofNat 16 (fieldAt b 0 1))).part = some (Fin.ofNat 16 (cmdPart e))) :
    Answers (.unbind f) s (runAct (do
      unbindFn (Fin.ofNat 16 (fieldAt b 0 1))
      adminAnswer f e 0 0) d) := by
  refine admin_answers (body := doUnbind) h rfl (by simp [isOp, hop, hunbind]) _ fun k => ?_
  simp only [doUnbind, run_bind, run_look]
  rw [if_neg (by omega), if_neg (by rw [hstep, hbound]; simp)]
  rfl

/-- MODULE_RESET with action 0: the reset notice, unless one is pending (R444, R445). -/
theorem moduleResetFull_answers (hop : cmdOp e = 0x18) (hfull : fieldAt (cmdParams e) 0 1 = 0) (hb : fieldAt b 0 1 = 0) :
    Answers (.moduleResetFull f) s (runAct (do
      onlyIf d.fw.notice.isNone (resetNotice 1)
      adminAnswer f e 0 0) d) := by
  refine admin_answers (body := doModuleReset) h rfl (by simp [isOp, hop, hfull]) _ fun k => ?_
  simp only [doModuleReset, run_bind, run_look]
  rw [if_neg (by simp [hb])]
  rfl

/-- MODULE_RESET with action 1: HIF_RESET_CTRL.hot_full takes the value given (R601). -/
theorem moduleResetSetHotFull_answers (hop : cmdOp e = 0x18) (hhot : fieldAt (cmdParams e) 0 1 = 1) (hb : fieldAt b 1 1 ≤ 1) :
    Answers (.moduleResetSetHotFull f) s (runAct (adminAnswer f e 0 0)
      { d with regs := tabPut d.regs ⟨.HIF_RESET_CTRL, 0, 0⟩ (toWord (fieldAt b 1 1)) }) := by
  refine admin_answers (body := doSetHotFull) h rfl (by simp [isOp, hop, hhot]) (pure ()) fun k => ?_
  rw [doSetHotFull, if_neg (by omega)]
  rfl

/-- PARTITION_DESTROY (R578). -/
theorem partitionDestroy_answers (hop : cmdOp e = 3) :
    Answers (.partitionDestroy f) s (runAct (do
      destroyPart (Fin.ofNat 16 (cmdPart e)) (some f)
      adminAnswer f e 0 0) d) :=
  admin_answers (body := doPartDestroy) h rfl (by simp [isOp, hop]) _ fun _ => rfl

end

/-- The end of a creation (R402, R435): the partition gets its mask and, at the basic level, the compiled tables, and its functions are bound to it. -/
def openCreated (p : PartId) (b : List Byte) : Act Unit := do
  setMask p (b.drop 0x10)
  onlyIf (fieldAt b 0 1 != 1) do
    let n ← draw
    let d ← look
    each (allCores.filter (inMask d p)) (loadCompiled n)
  each (createFns b) fun g => do
    let d ← look
    emit (.fn g { fnOf d g with part := some p })

/-- PARTITION_CREATE with a block in order, allowed and nothing taken, whose number is `p` and whose target table fits (R402): from the module with the
partition's record, registers, ways and tables, the creation ends and its number is answered. -/
theorem partitionCreate_answers {s : State} {f : FnId} {host e b : List Byte} {d d1 d2 d3 : Dev} {p : PartId} (h : AdminTurn s.dev f host e b d)
    (hop : cmdOp e = 2) (hok : createOk b = true) (hallowed : createAllowed d f b = true) (htaken : createTaken d b = none)
    (hpiles : pilesPending d b = false) (hpick : Runs (pick (fun q => !(partOf d q).alive) allParts) d (some p) d1)
    (hmade : Runs (do
      emit (.part p (createPart d b))
      endUnlockOf p
      createRegs p b
      setWays (some p)
      createRoot p) d1 () d2) (ht2 : Runs (createT2 p b) d2 0 d3) :
    Answers (.partitionCreate f host) s (runAct (do
      openCreated p b
      adminAnswer f e 0 p.val) d3) := by
  refine admin_answers (body := doPartCreate) h rfl (by simp [isOp, hop]) _ fun k => ?_
  rw [doPartCreate, run_bind, run_look]
  simp only [hok, hallowed, htaken, hpiles, Bool.not_true, Bool.false_eq_true, if_false, run_bind]
  rw [hpick]
  exact (hmade _).trans (ht2 _)

/-- Settles O37: each command has its turn with a block that its checks let pass. -/
theorem adminFunctionsAndPartitions : Obligations.AdminFunctionsAndPartitions := by
  refine ⟨fun s f e b d h => ⟨features_answers h, fun hop hfn hstep => ⟨bind_answers h hop hfn hstep, unbind_answers h hop hfn hstep⟩,
    moduleResetFull_answers h, moduleResetSetHotFull_answers h⟩, fun s f host e b d => ⟨?_, fun h => partitionDestroy_answers h⟩⟩
  intro h hop hok hallowed htaken hpiles p d1 d2 d3 hpick hmade ht2
  exact partitionCreate_answers h hop hok hallowed htaken hpiles hpick hmade ht2

end Sys2Proof.Proofs

/-! SUPPORT. What a write of a host to a register comes to, once it decodes and stands (R3, R7, R421), and the retirement of a core (R507). -/

namespace Sys2Proof.Proofs

open Sys2Proof.Machine Sys2Proof.Safety Sys2Proof.Laws

/-- A command that acts with power answers the module that its action makes of the module before it. -/
theorem answers_of_runAct {s : State} {i : Instr} {m : Act Unit} {d : Dev} (he : exec i s = after m s) (ha : awake s.dev = true)
    (h : runAct m s.dev = d) : Answers i s d := by
  rw [Answers, he, after_awake ha, h]

/-! Writes of a host to registers, said once. -/

/-- A host reaches only a module with power (R441, R444). -/
theorem awake_of_reaches {d : Dev} {f : FnId} (h : reaches d f = true) : awake d = true := by
  simp only [reaches, Bool.and_eq_true] at h
  obtain ⟨⟨hpower, -⟩, -⟩ := h
  exact hpower

/-- A write that decodes, to a register of a living partition or of none, that stands (R3, R7, R421): once the fabric is awake it is the register's write. -/
theorem run_barWrite {d w : Dev} {f : FnId} {off unit idx : Nat} {row : RegRow} (hr : reaches d f = true) (hw : Runs wakeFabric d () w) (hoff : off % 4 = 0)
    (hdec : writeDecodes d f off = true) (hat : barAt d f off = .reg row unit idx)
    (hpart : row.blk.inPart = true → (partOf d (Fin.ofNat 16 unit)).alive = true) (hst : writeStands d f row unit idx = true) (v : Nat) (k : Unit → Prog) :
    Prog.run (barWrite f off 4 v k) d = Prog.run (regWrite f row unit idx v k) w := by
  have hdead : ¬ (row.blk.inPart = true ∧ (!(partOf d (Fin.ofNat 16 unit)).alive) = true) := by
    rintro ⟨hin, hgone⟩
    rw [hpart hin] at hgone
    exact Bool.false_ne_true hgone
  rw [barWrite, run_bind, run_look, run_onlyIf, if_pos hr, run_bind, hw, if_neg (by simp [hoff, hdec]), hat]
  simp only [if_neg hdead, if_pos hst]

/-- A write by a register's name that a PF makes and that stands: once the fabric is awake it is the register's write. -/
theorem run_writeNamed {d w : Dev} {f : FnId} {n : RegName} {unit idx : Nat} {row : RegRow} (hr : reaches d f = true) (hw : Runs wakeFabric d () w)
    (hpf : isPf f = true) (hrow : n.row = some row) (hst : writeStands d f row unit idx = true) (v : Nat) (k : Unit → Prog) :
    Prog.run (writeNamed f n unit idx v k) d = Prog.run (regWrite f row unit idx v k) w := by
  rw [writeNamed, run_bind, run_look, run_onlyIf, if_pos hr, run_bind, hw, if_neg (by simp [hpf]), hrow, run_onSome_some, if_pos hst]

/-- An expert-only write to a shared block stands when a PF with the expert control level makes it (R7). -/
theorem writeStands_shared {d : Dev} {f : FnId} {row : RegRow} {unit idx : Nat} (hn : row.name ≠ .PWR_BUDGET) (hp : fieldPart row unit idx = none)
    (hpf : isPf f = true) (hx : hasFeat d f 16 = true) : writeStands d f row unit idx = true := by
  simp [writeStands, hn, hp, hpf, hx]

/-! The registers whose writes the rows of the table name (R423, R509, R147). -/

/-- HIF_WRING_CTRL in the register map (R447). -/
def wringCtrl : RegRow := ⟨.fn, 0x110, 0x40, 8, .HIF_WRING_CTRL, 0x11F, 0x200, 0x0, 0x6, false, false⟩

/-- TOP_AUDIT_CTRL in the register map (R518). -/
def auditCtrl : RegRow := ⟨.top, 0x30, 0x4, 1, .TOP_AUDIT_CTRL, 0x0, 0x0, 0x0, 0x0, true, false⟩

/-- VEC_FTAB_LOAD in the register map (R147). -/
def ftabLoad : RegRow := ⟨.core, 0x7C, 0x4, 1, .VEC_FTAB_LOAD, 0x0, 0x0, 0x0, 0x0, true, false⟩

theorem row_auditCtrl : RegName.row .TOP_AUDIT_CTRL = some auditCtrl := by decide +kernel

theorem row_ftabLoad : RegName.row .VEC_FTAB_LOAD = some ftabLoad := by decide +kernel

/-- Neither register has a cnt_clear. -/
theorem not_counterControl {n : RegName} (h : n = .HIF_WRING_CTRL ∨ n = .VEC_FTAB_LOAD) : (ctrMap.any fun r => r.ctl == some n) = false := by
  obtain rfl | rfl := h <;> decide +kernel

/-- A write of HIF_WRING_CTRL (R423): the enable and size fields from the value, a ring error cleared by a 1, and what a change of enable brings. -/
theorem run_regWrite_wringCtrl (f : FnId) (unit v : Nat) (r : RingId) (k : Unit → Prog) (d : Dev) :
    Prog.run (regWrite f wringCtrl unit r.val v k) d = Prog.run ((do
      setReg .HIF_WRING_CTRL unit r.val
        (((regOf d .HIF_WRING_CTRL unit r.val &&& 0xFFFFFEE0) ||| (v &&& 0x11F)) &&& (0xFFFFFFFF - (v &&& 0x200)))
      ringEnabled f r (regOf d .HIF_WRING_CTRL unit r.val)) k) d := by
  have hctl := not_counterControl (n := .HIF_WRING_CTRL) (.inl rfl)
  have hring : (Fin.ofNat 8 r.val : RingId) = r := Fin.ofNat_val_eq_self r
  simp only [regWrite, wringCtrl, run_bind, run_look, hctl, Bool.and_false, hring, written, Nat.and_zero, Nat.or_zero]
  rfl

/-- A write of TOP_AUDIT_CTRL.snap (R509). -/
theorem run_regWrite_auditCtrl (f : FnId) (k : Unit → Prog) (d : Dev) :
    Prog.run (regWrite f auditCtrl 0 0 1 k) d = Prog.run (auditSnap k) d := rfl

/-- A write of VEC_FTAB_LOAD (R147). -/
theorem run_regWrite_ftabLoad (f : FnId) (c : CoreId) (v : Nat) (k : Unit → Prog) (d : Dev) :
    Prog.run (regWrite f ftabLoad c.val 0 v k) d = Prog.run (ftabGo c v (bitsOf (regOf d .CORE_PART_SEL c.val) 3 0) k) d := by
  have hctl := not_counterControl (n := .VEC_FTAB_LOAD) (.inr rfl)
  have hcore : (Fin.ofNat 800 c.val : CoreId) = c := Fin.ofNat_val_eq_self c
  simp only [regWrite, ftabLoad, run_bind, run_look, hctl, Bool.and_false, hcore]
  rfl

/-- The rings' copies of HIF_WRING_CTRL stand 0x40 apart on a function's page (R447). -/
theorem regAt_wringCtrl (r : RingId) : regAt .fn (0x110 + 0x40 * r.val) = some (wringCtrl, r.val) := by
  revert r
  decide +kernel

/-- A function's own page names its work rings' control registers, whatever the module holds (R423). -/
theorem barAt_wringCtrl (d : Dev) (f : FnId) (r : RingId) : barAt d f (0x3000110 + 0x40 * r.val) = .reg wringCtrl f.val r.val := by
  have hlt := r.isLt
  have hblock : barBlock f (0x3000110 + 0x40 * r.val) = some (.fn, f.val, 0x110 + 0x40 * r.val) := by
    rw [barBlock, if_neg (by omega), if_neg (by omega), if_neg (by omega), if_pos (by omega)]
    simp only [Option.some.injEq, Prod.mk.injEq, true_and]
    omega
  simp only [barAt, hblock, regAt_wringCtrl]
  rw [if_neg (by omega), if_neg (by omega), if_neg (by omega)]
  rfl

section
variable {s : State} {f : FnId} {d : Dev} (hr : reaches s.dev f = true) (hw : Runs wakeFabric s.dev () d)
include hr hw

/-- REGISTER_WRITE of a register that stands (R3). -/
theorem registerWrite_answers (off : Nat) (v : Word) (row : RegRow) (unit idx : Nat) (hoff : off % 4 = 0) (hdec : writeDecodes s.dev f off = true)
    (hat : barAt s.dev f off = .reg row unit idx) (hpart : row.blk.inPart = true → (partOf s.dev (Fin.ofNat 16 unit)).alive = true)
    (hst : writeStands s.dev f row unit idx = true) :
    Answers (.registerWrite f off 4 v) s (runAct (regWrite f row unit idx v.toNat) d) :=
  answers_of_runAct rfl (awake_of_reaches hr) (run_barWrite hr hw hoff hdec hat hpart hst _ _)

/-- COUNTER_CLEAR of a block's control register that stands: the register's write with bit 1 set (R118). -/
theorem counterClear_answers (off : Nat) (row : RegRow) (unit idx : Nat) (hoff : off % 4 = 0) (hdec : writeDecodes s.dev f off = true)
    (hat : barAt s.dev f off = .reg row unit idx) (hpart : row.blk.inPart = true → (partOf s.dev (Fin.ofNat 16 unit)).alive = true)
    (hst : writeStands s.dev f row unit idx = true) (hctl : (ctrMap.any fun r => r.ctl == some row.name) = true) :
    Answers (.counterClear f off) s (runAct (regWrite f row unit idx (regOf s.dev row.name unit idx ||| 2)) d) := by
  refine answers_of_runAct (m := doCounterClear f off) rfl (awake_of_reaches hr) ?_
  rw [runAct_def, doCounterClear, run_bind, run_look, hat]
  simp only [run_onlyIf, hctl, if_true]
  exact run_barWrite hr hw hoff hdec hat hpart hst _ _

/-- WORK_RING_ENABLE (R423): the write of a function's own HIF_WRING_CTRL, and what a change of its enable brings. -/
theorem workRingEnable_answers (r : RingId) (v : Word) (hdec : writeDecodes s.dev f (0x3000110 + 0x40 * r.val) = true) :
    Answers (.workRingEnable f r v) s (runAct (do
      setReg .HIF_WRING_CTRL f.val r.val
        ((((regOf d .HIF_WRING_CTRL f.val r.val &&& 0xFFFFFEE0) ||| (v.toNat &&& 0x11F)) &&& (0xFFFFFFFF - (v.toNat &&& 0x200))))
      ringEnabled f r (regOf d .HIF_WRING_CTRL f.val r.val)) d) := by
  refine answers_of_runAct (m := doRingEnable f r v.toNat) rfl (awake_of_reaches hr) ?_
  have hst : writeStands s.dev f wringCtrl f.val r.val = true := rfl
  have halive : wringCtrl.blk.inPart = true → (partOf s.dev (Fin.ofNat 16 f.val)).alive = true := fun h => absurd h (by decide)
  rw [runAct_def, doRingEnable, run_barWrite hr hw (by omega) hdec (barAt_wringCtrl _ f r) halive hst]
  exact run_regWrite_wringCtrl ..

/-- TOP_AUDIT_SNAP by a PF with the expert control level (R509, R510). -/
theorem topAuditSnap_answers (hpf : isPf f = true) (hx : hasFeat s.dev f 16 = true) (bad : List Nat) :
    Answers (.topAuditSnap ⟨f, bad⟩) s (runAct (do
      emit .auditSnap
      orReg .TOP_AUDIT_STATUS 0 0 0x10000
      each (bad.filter (· ≤ 10)) auditBad) d) := by
  refine answers_of_runAct (m := doAuditSnap f bad) rfl (awake_of_reaches hr) ?_
  have hst : writeStands s.dev f auditCtrl 0 0 = true := writeStands_shared (by decide) rfl hpf hx
  rw [runAct_def, doAuditSnap, run_bind, run_look, run_bind, run_writeNamed hr hw hpf row_auditCtrl hst, run_regWrite_auditCtrl, hr, hpf]
  rfl

/-- FUNCTION_TABLE_LOAD with go set, by a PF with the expert control level (R147). -/
theorem functionTableLoad_answers (hpf : isPf f = true) (hx : hasFeat s.dev f 16 = true) (c : CoreId) (v : Word) (hgo : bitOf v.toNat 31 = true) :
    Answers (.functionTableLoad f c v) s (runAct (ftabGo c v.toNat (bitsOf (regOf d .CORE_PART_SEL c.val) 3 0)) d) := by
  refine answers_of_runAct rfl (awake_of_reaches hr) ?_
  have hst : writeStands s.dev f ftabLoad c.val 0 = true := writeStands_shared (by decide) rfl hpf hx
  rw [runAct_def, run_onlyIf, if_pos hgo, run_writeNamed hr hw hpf row_ftabLoad hst, run_regWrite_ftabLoad]
  rfl

end

/-- Settles O43: each write decodes and stands, and comes to the register's write. -/
theorem registerAccesses : Obligations.RegisterAccesses := fun _ _ _ hr hw =>
  ⟨registerWrite_answers hr hw, counterClear_answers hr hw, workRingEnable_answers hr hw,
    fun hpf hx => ⟨topAuditSnap_answers hr hw hpf hx, functionTableLoad_answers hr hw hpf hx⟩⟩

/-! Retirement. -/

/-- Settles O46: with power and SUP, a core that is not retired is retired. -/
theorem coreRetires : Obligations.CoreRetires := by
  intro s c d ha hsup hret hit haborted
  refine answers_of_runAct (m := doRetire c) rfl ha ?_
  rw [runAct_def, doRetire, guarded, run_bind, run_look, run_onlyIf, if_pos ha, run_bind, run_look, run_onlyIf, hsup, hret]
  exact haborted _

end Sys2Proof.Proofs

/-! SUPPORT. How a step opens for a partition (R14, R15), which task a die scheduler places (R395), and when the update task of a slice and the consumer or the
twin of a barrel group go to their queues (R210, R252). -/

namespace Sys2Proof.Proofs

open Sys2Proof.Machine Sys2Proof.Safety Sys2Proof.Laws

/-- Entries that are all HELD or SPILLED are settled, and none of them is ABSENT. -/
theorem settled_of_kept {es : List Ent} (h : ∀ e ∈ es, e.st = .held ∨ e.st = .spilled) :
    (es.all fun e => e.st == .held || e.st == .spilled || e.st == .absent) = true ∧ (es.filter fun e => e.st == .absent) = [] := by
  rw [List.all_eq_true, List.filter_eq_nil_iff]
  refine ⟨fun e he => ?_, fun e he => ?_⟩
  · obtain hst | hst := h e he <;> simp [hst]
  · obtain hst | hst := h e he <;> simp [hst]

/-! The step builder and the die schedulers. -/

section
variable {s : State} (ha : awake s.dev = true)
include ha

/-- Work of the step builder, a die scheduler or the escapement engine whose own state reads well is done. -/
theorem engineState_answers {i : Instr} {unit : Nat} {work : Act Unit} (he : exec i s = after (engineState false unit work) s) :
    Answers i s (runAct work s.dev) :=
  answers_of_runAct (m := work) he ha rfl

/-- Where its own state fails its re-read, a module error rises in place of the work (R500, R511). -/
theorem engineState_bad_answers {i : Instr} {unit : Nat} {work : Act Unit} (he : exec i s = after (engineState true unit work) s) :
    Answers i s (runAct (moduleError 3 unit) s.dev) :=
  answers_of_runAct (m := moduleError 3 unit) he ha rfl

/-- TASK_PLACEMENT by a die scheduler that finds a ready task whose core is its own (R395). -/
theorem taskPlacement_answers {die : DieId} {c : Cand} {w : Place}
    (hfind : ((candidates s.dev).findSome? fun c => (whereTo s.dev c.p c.t).bind fun w => if dieOf w.core = die then some (c, w) else none) = some (c, w)) :
    Answers (.taskPlacement ⟨die, false⟩) s (runAct (placeTask c.p c.t w) s.dev) := by
  have hplace : runAct (doPlacement die) s.dev = runAct (placeTask c.p c.t w) s.dev := by
    rw [runAct_def, doPlacement, run_bind, run_look, hfind]
    rfl
  rw [← hplace]
  exact engineState_answers ha rfl

section
variable {p : PartId} (hrun : (partOf s.dev p).running = true) (hnone : (partOf s.dev p).step = none) (hheld : (partOf s.dev p).held = false)
  (hfatal : fatal s.dev = false)
include hrun hnone hheld hfatal

/-- STEP_OPEN for a partition that may open a step: what opens it, by the partition's kind, and then the step builder (R15). -/
theorem stepOpen_answers {opens : Act Unit}
    (hopens : (if (partOf s.dev p).serving then openServing p else onSome (partOf s.dev p).begin? (openTraining p)) = opens) :
    Answers (.stepOpen ⟨p, false⟩) s (runAct (do
      opens
      builder p) s.dev) := by
  have hopen : runAct (doStepOpen p) s.dev = runAct (do
      opens
      builder p) s.dev := by
    rw [runAct_def, doStepOpen, run_bind, run_look, run_onlyIf, if_pos (by simp [hrun, hnone, hheld, hfatal]), ← hopens]
    split <;> rfl
  rw [← hopen]
  exact engineState_answers ha rfl

/-- A training step opens from its STEP_BEGIN (R408). -/
theorem stepOpen_training_answers {b : Begin} (hkind : (partOf s.dev p).serving = false) (hbegin : (partOf s.dev p).begin? = some b) :
    Answers (.stepOpen ⟨p, false⟩) s (runAct (do
      openTraining p b
      builder p) s.dev) :=
  stepOpen_answers ha hrun hnone hheld hfatal (by rw [hkind, hbegin]; rfl)

/-- A serving step opens from the items that wait (R410). -/
theorem stepOpen_serving_answers (hkind : (partOf s.dev p).serving = true) :
    Answers (.stepOpen ⟨p, false⟩) s (runAct (do
      openServing p
      builder p) s.dev) :=
  stepOpen_answers ha hrun hnone hheld hfatal (by rw [hkind]; rfl)

end

/-! Update tasks and barrel groups, in an open step. -/

section
variable {p : PartId} (hstep : (partOf s.dev p).step.isSome = true)
include hstep

/-- UPDATE_TASK_PLACEMENT of a FULL slice whose task waits, or failed once before, with its dependencies done (R252, R270). -/
theorem updateTaskPlacement_answers {i : Nat} {x : Slice} {t : Task} (hslice : (escOf s.dev p).slices[i]? = some x)
    (htask : taskOf s.dev p x.task = some t) (hfull : x.st = .full) (hst : t.st = .waiting ∨ t.st = .failed ∧ t.endst = none) (hmore : t.more = 0)
    (hdeps : depsDone s.dev p t = true) :
    Answers (.updateTaskPlacement p i) s (runAct (do
      updTask p t.tid fun y => { y with
        crit := drained s.dev p || blockBegun s.dev p t.due
        core := none
        image := none
        slice := some i }
      enlist p [t.tid]) s.dev) := by
  have hready : (t.st == .waiting || (t.st == .failed && t.endst.isNone)) = true := by
    obtain hwait | ⟨hfailed, hend⟩ := hst
    · simp [hwait]
    · simp [hfailed, hend]
  refine answers_of_runAct (m := doUpdatePlacement p i) rfl ha ?_
  rw [runAct_def, doUpdatePlacement, run_bind, run_look, hslice, run_onSome_some, htask, run_onSome_some, run_onlyIf,
    if_pos (by simp [hfull, hstep, hready, hmore, hdeps])]
  rfl

section
variable {g : Word} (hactive : (barrelOf s.dev p).active = true)
include hactive

/-- BARREL_GROUP_PLACEMENT of a group with one consumer, none of whose entries is ABSENT: the consumer, waiting with its dependencies done, goes to its
queue (R210). -/
theorem barrelGroupPlacement_consumer_answers {cons : Nat} {t : Task} (hcons : ((groupEnts s.dev p g.toNat).map (·.consumer)).dedup = [cons])
    (htask : taskOf s.dev p cons = some t) (hst : t.st = .waiting) (hmore : t.more = 0) (hdeps : depsDone s.dev p t = true)
    (hkept : ((barrelOf s.dev p).ents.all fun e => e.consumer != cons || e.st == .held || e.st == .spilled) = true) :
    Answers (.barrelGroupPlacement p g) s (runAct (enlist p [cons]) s.dev) := by
  have hmine : ∀ e ∈ (barrelOf s.dev p).ents.filter (fun e => e.consumer == cons), e.st = .held ∨ e.st = .spilled := by
    intro e he
    obtain ⟨hmem, hc⟩ := List.mem_filter.1 he
    simpa [or_assoc, beq_iff_eq.1 hc] using List.all_eq_true.1 hkept e hmem
  obtain ⟨hsettled, hlost⟩ := settled_of_kept hmine
  refine answers_of_runAct (m := doGroupPlacement p g.toNat) rfl ha ?_
  rw [runAct_def, doGroupPlacement, run_bind, run_look, run_onlyIf, if_pos (by simp [hactive, hstep]), hcons, run_each_cons, run_onlyIf,
    if_pos (by simp [htask, hst, hsettled])]
  rw [hlost, htask, List.map_nil, List.dedup_nil, List.isEmpty_nil, if_pos rfl, run_onSome_some, run_onlyIf, if_pos (by simp [hst, hmore, hdeps])]
  rfl

/-- BARREL_GROUP_PLACEMENT of a group of one entry, ABSENT, whose consumer has no other and has not been fetched: the entry's twin, waiting with its
dependencies done, goes to its queue and is counted (R210). -/
theorem barrelGroupPlacement_twin_answers {cons : Nat} {e : Ent} {w : Task} (hgroup : groupEnts s.dev p g.toNat = [e]) (hcons : e.consumer = cons)
    (honly : ((barrelOf s.dev p).ents.filter fun y => y.consumer == cons) = [e]) (habsent : e.st = .absent) (htask : taskOf s.dev p cons = none)
    (htwin : taskOf s.dev p e.twin = some w) (hst : w.st = .waiting) (hmore : w.more = 0) (hdeps : depsDone s.dev p w = true) :
    Answers (.barrelGroupPlacement p g) s (runAct (do
      updTask p e.twin fun y => { y with crit := true }
      enlist p [e.twin]
      count .BARL_TWIN_COUNT p.val 1) s.dev) := by
  have hdedup : ((groupEnts s.dev p g.toNat).map (·.consumer)).dedup = [cons] := by simp [hgroup, hcons]
  have hlost : ([e].filter fun e => e.st == .absent) = [e] := by simp [habsent]
  have htwins : ([e].filter fun y => [e.group].contains y.group) = [e] := by simp
  refine answers_of_runAct (m := doGroupPlacement p g.toNat) rfl ha ?_
  rw [runAct_def, doGroupPlacement, run_bind, run_look, run_onlyIf, if_pos (by simp [hactive, hstep]), hdedup, run_each_cons, run_onlyIf, honly,
    if_pos (by simp [htask, habsent])]
  simp only [hlost, List.map_cons, List.map_nil, List.dedup_cons_of_notMem List.not_mem_nil, List.dedup_nil, htwins]
  rw [if_neg (by simp), run_each_cons, htwin, run_onSome_some, run_onlyIf, if_pos (by simp [hst, hmore, hdeps])]
  rfl

end
end
end

/-- Settles O30: a step opens by the partition's kind, a die scheduler's search finds its task, and the conditions for an update task, a consumer and a twin
are the premises. -/
theorem stepsOpenAndTasksPlace : Obligations.StepsOpenAndTasksPlace := by
  refine ⟨fun s ha => ⟨?training, ?serving, ?placement, ?badBuilder, ?badScheduler⟩, fun s p ha hstep => ⟨?update, ?consumer, ?twin⟩⟩
  case training => exact fun _ _ hrun hnone hheld hfatal => stepOpen_training_answers ha hrun hnone hheld hfatal
  case serving => exact fun _ => stepOpen_serving_answers ha
  case placement => exact fun _ _ _ => taskPlacement_answers ha
  case badBuilder => exact fun p => engineState_bad_answers ha (work := doStepOpen p) rfl
  case badScheduler => exact fun die => engineState_bad_answers ha (work := doPlacement die) rfl
  case update => exact fun _ _ _ => updateTaskPlacement_answers ha hstep
  case consumer => exact fun _ _ _ hactive => barrelGroupPlacement_consumer_answers ha hstep hactive
  case twin => exact fun _ _ _ _ hactive => barrelGroupPlacement_twin_answers ha hstep hactive

end Sys2Proof.Proofs

/-! SUPPORT. What reading and writing an element do at the edges of a format, by its kind: subnormals, overflow, infinities and zeros (R35, R37, R39, R40). -/

namespace Sys2Proof.Proofs

open Sys2Proof.Machine Sys2Proof.Safety Sys2Proof.Laws

/-! The formats by their kind (R22). -/

theorem kind_of_narrow : ∀ f ∈ [Fmt.f4, .f6, .f8a], f.row.kind = .narrow := by decide

theorem kind_of_wide : ∀ f ∈ [Fmt.f8b, .f16w, .f16, .f32], f.row.kind = .wide := by decide

theorem kind_of_int : ∀ f ∈ [Fmt.i4, .i8, .i32], f.row.kind = .int := by decide

theorem minNonzero_le_maxFinite (f : Fmt) : f.minNonzero ≤ f.maxFinite := by
  cases f <;> decide +kernel

section
variable {f : Fmt}

/-! Reading. -/

/-- A wide code with exponent 0 reads as zero of its sign, with flush when its mantissa is not 0 (R35). -/
theorem decodeElem_wide_subnormal (hkind : f.row.kind = .wide) {code : Nat} (hexp : (code >>> f.row.mbits) % 2 ^ f.row.ebits = 0) :
    decodeElem f code = (.zero (bitOf code (f.width - 1)), { flush := code % 2 ^ f.row.mbits != 0 }) := by
  simp only [decodeElem, hkind, hexp, if_true, Fmt.width]

/-- Code 0 of a narrow format reads as +0 (R40). -/
theorem decodeElem_narrow_zero (hkind : f.row.kind = .narrow) : decodeElem f 0 = (.zero false, {}) := by
  simp [decodeElem, hkind, bitOf]

/-! Writing. -/

section
variable (mode r : Nat) (sw : Bool)

/-- A rounded magnitude beyond the largest finite one is at least the smallest normal one, and so it overflows and does not flush: to infinity in a wide
format that does not saturate and does not truncate, else to the largest finite magnitude (R36, R37). -/
theorem encodeElem_num_overflow (hfloat : f.row.kind = .narrow ∨ f.row.kind = .wide) {q : Rat} (hover : f.maxFinite < rounded f mode r q) :
    encodeElem f mode sw r (.num q) =
      (f.signOf (decide (q < 0)) + (if f.row.kind = .wide ∧ sw = false ∧ mode ≠ 1 then f.infCode else f.maxCode), { overflow := true }) := by
  have hkept : ¬ rounded f mode r q < f.minNonzero := not_lt.2 ((minNonzero_le_maxFinite f).trans hover.le)
  rw [rounded] at hover hkept
  obtain hkind | hkind := hfloat
  · simp [encodeElem, hkind, hkept, hover]
  · simp only [encodeElem, hkind, if_neg hkept, if_pos hover, true_and]
    split <;> rfl

/-- An infinity in a narrow format is the largest finite magnitude of its sign (R37). -/
theorem encodeElem_narrow_inf (hkind : f.row.kind = .narrow) (neg : Bool) :
    encodeElem f mode sw r (.inf neg) = (f.signOf neg + f.maxCode, { overflow := true }) := by
  simp only [encodeElem, hkind]

/-- An infinity in a wide format stays one (R37). -/
theorem encodeElem_wide_inf (hkind : f.row.kind = .wide) (neg : Bool) : encodeElem f mode sw r (.inf neg) = (f.signOf neg + f.infCode, {}) := by
  simp only [encodeElem, hkind]

/-- An infinity in an integer format is the range limit of its sign (R39). -/
theorem encodeElem_int_inf (hkind : f.row.kind = .int) (neg : Bool) :
    encodeElem f mode sw r (.inf neg) = (if neg then 2 ^ (f.width - 1) else 2 ^ (f.width - 1) - 1, { invalid := true }) := by
  simp only [encodeElem, hkind]

/-- A zero in a narrow format has no sign (R40). -/
theorem encodeElem_narrow_zero (hkind : f.row.kind = .narrow) (neg : Bool) : encodeElem f mode sw r (.zero neg) = (0, {}) := by
  simp only [encodeElem, hkind]

/-- A zero in a wide format keeps its sign (R40). -/
theorem encodeElem_wide_zero (hkind : f.row.kind = .wide) (neg : Bool) : encodeElem f mode sw r (.zero neg) = (f.signOf neg, {}) := by
  simp only [encodeElem, hkind]

/-- A number beyond an integer format's range limit of its sign saturates there (R37, R42). -/
theorem encodeElem_int_saturates (hkind : f.row.kind = .int) {q : Rat}
    (hover : (if decide (q < 0) then 2 ^ (f.width - 1) else 2 ^ (f.width - 1) - 1) < roundMag mode r (ratAbs q)) :
    encodeElem f mode sw r (.num q) =
      (if decide (q < 0) then 2 ^ (f.width - 1) else 2 ^ (f.width - 1) - 1, { overflow := true, intSat := true }) := by
  simp only [encodeElem, hkind, if_pos hover]
  split <;> rfl

end
end

/-- Settles O14: each format by its kind. -/
theorem numberEdges : Obligations.NumberEdges := by
  refine ⟨fun f hf code => decodeElem_wide_subnormal (kind_of_wide f hf), fun mode r sw => ⟨fun f hf => ?narrow, fun f hf => ?wide, fun f hf => ?int⟩⟩
  case narrow =>
    have hkind := kind_of_narrow f hf
    refine ⟨fun q hover => ?_, encodeElem_narrow_inf mode r sw hkind, encodeElem_narrow_zero mode r sw hkind true, decodeElem_narrow_zero hkind⟩
    simp [encodeElem_num_overflow mode r sw (.inl hkind) hover, hkind]
  case wide =>
    have hkind := kind_of_wide f hf
    refine ⟨fun q hover => ?_, encodeElem_wide_inf mode r sw hkind, encodeElem_wide_zero mode r sw hkind false⟩
    simp only [encodeElem_num_overflow mode r sw (.inr hkind) hover, hkind, true_and]
  case int =>
    have hkind := kind_of_int f hf
    refine ⟨fun q hover => ?_, encodeElem_int_inf mode r sw hkind⟩
    rw [encodeElem_int_saturates mode r sw hkind hover]
    exact ⟨rfl, rfl⟩

end Sys2Proof.Proofs

/-! SUPPORT. What the release of a histogram bank writes (R49, R143), and that the bank is free then (R50). -/

namespace Sys2Proof.Proofs

open Sys2Proof.Machine Sys2Proof.Safety Sys2Proof.Laws

/-- The revision of a governor entry (R143): the permitted bits of an entry that can be read and has governed set. -/
def reviseEntry (p : PartId) (gov : Nat) : Nat × Nat → Act Unit
  | (i, v) => do
    let d ← look
    onSome ((← vaBytes (envOf d p) p (gov + 4 * i) 4)) fun old =>
      onlyIf (bitOf (fieldAt old 0 4) 15) do
        let _ ← vaWrite (envOf d p) p { inner := true } (gov + 4 * i)
          (leBytes 4 (putBits (putBits (fieldAt old 0 4) 14 12 (bitsOf v 14 12)) 7 0 (bitsOf v 7 0))) []
        pure ()

/-- The base written into the record of a tag and bank (R49, R50). -/
def writeBase (p : PartId) (bank hist : Nat) : Nat × Nat → Act Unit
  | (i, v) => do
    let d ← look
    let _ ← vaWrite (envOf d p) p { inner := true } (hist + 384 * i + 192 * bank + 0x8C) (leBytes 1 v) []
    pure ()

/-- What firmware writes before it releases pending bank `b` in module `d` (R50, R143). -/
def bankWrites (d : Dev) (p : PartId) (bank b : Nat) (revs bases : List (Nat × Nat)) : Act Unit :=
  onlyIf (b / 2 == 0 && !(partOf d p).expert) do
    let gov := regOf d .UPD_GOV_HI p.val * 2 ^ 32 + regOf d .UPD_GOV_LO p.val
    let hist := tableVa d p .UPD_HIST_LO .UPD_HIST_HI
    onlyIf (gov != 0) (each revs (reviseEntry p gov))
    onlyIf (hist != 0) (each bases (writeBase p bank hist))

/-- The module in which partition `p` has bank `b` free again and the step builder has gone on (R50, R392). -/
def bankFreed (p : PartId) (b : Nat) (d : Dev) : Dev :=
  runAct (builder p) { d with runs := tabPut d.runs p { runOf d p with banks := (runOf d p).banks.erase b } }

/-- The release of a pending bank: firmware's writes, and then the bank is free. -/
theorem runAct_doBankRelease {d d' : Dev} {p : PartId} {bank b : Nat} {revs bases : List (Nat × Nat)}
    (hpending : ((runOf d p).banks.find? fun x => x % 2 == bank) = some b) (hwrites : Runs (bankWrites d p bank b revs bases) d () d') :
    runAct (doBankRelease p bank revs bases) d = bankFreed p b d' := by
  rw [runAct_def, doBankRelease, run_bind, run_look, hpending]
  exact hwrites _

section
variable {d d' : Dev} {p : PartId} {i v : Nat}

/-- A governed entry that can be read and written is revised. -/
theorem runs_reviseEntry {gov : Nat} {old : List Byte} {e : Dev} (hread : Runs (vaBytes (envOf d p) p (gov + 4 * i) 4) d (some old) e)
    (hgoverned : bitOf (fieldAt old 0 4) 15 = true)
    (hwrite : Runs (vaWrite (envOf d p) p { inner := true } (gov + 4 * i)
      (leBytes 4 (putBits (putBits (fieldAt old 0 4) 14 12 (bitsOf v 14 12)) 7 0 (bitsOf v 7 0))) []) e (.ok ()) d') :
    Runs (reviseEntry p gov (i, v)) d () d' := by
  intro k
  rw [reviseEntry, run_bind, run_look, run_bind, hread, run_onSome_some, run_onlyIf, if_pos hgoverned, run_bind, hwrite, run_pure]

/-- A base whose record can be written is written. -/
theorem runs_writeBase {bank hist : Nat}
    (hwrite : Runs (vaWrite (envOf d p) p { inner := true } (hist + 384 * i + 192 * bank + 0x8C) (leBytes 1 v) []) d (.ok ()) d') :
    Runs (writeBase p bank hist (i, v)) d () d' := by
  intro k
  rw [writeBase, run_bind, run_look, run_bind, hwrite, run_pure]

/-- Without revisions and bases firmware writes nothing. -/
theorem runs_bankWrites_nil (bank b : Nat) : Runs (bankWrites d p bank b [] []) d () d := by
  intro k
  simp [bankWrites]

section
variable {bank b : Nat} (hclosed : b / 2 = 0) (hbasic : (partOf d p).expert = false)
include hclosed hbasic

/-- One revision, of a basic partition's normally closed step with a governor area. -/
theorem runs_bankWrites_revision (hgov : regOf d .UPD_GOV_HI p.val * 2 ^ 32 + regOf d .UPD_GOV_LO p.val ≠ 0)
    (hrevise : Runs (reviseEntry p (regOf d .UPD_GOV_HI p.val * 2 ^ 32 + regOf d .UPD_GOV_LO p.val) (i, v)) d () d') :
    Runs (bankWrites d p bank b [(i, v)] []) d () d' := by
  intro k
  simp only [bankWrites, hclosed, hbasic, bne_iff_ne.2 hgov, run_onlyIf, run_bind, run_each_cons, run_each_nil, hrevise _, ite_self]
  rfl

/-- One base, of a basic partition's normally closed step with a histogram area. -/
theorem runs_bankWrites_base (hhist : tableVa d p .UPD_HIST_LO .UPD_HIST_HI ≠ 0)
    (hbase : Runs (writeBase p bank (tableVa d p .UPD_HIST_LO .UPD_HIST_HI) (i, v)) d () d') :
    Runs (bankWrites d p bank b [] [(i, v)]) d () d' := by
  intro k
  simp only [bankWrites, hclosed, hbasic, bne_iff_ne.2 hhist, run_onlyIf, run_bind, run_each_cons, run_each_nil, hbase _, ite_self]
  rfl

end
end

/-- Settles O31: nothing, a revision or a base is written, and then the bank is free. -/
theorem histogramBankReleases : Obligations.HistogramBankReleases := by
  intro s p bank b ha hpending
  refine ⟨?plain, fun hclosed hbasic => ⟨?revision, ?base⟩⟩
  case plain => exact answers_of_runAct rfl ha (runAct_doBankRelease hpending (runs_bankWrites_nil _ _))
  case revision =>
    intro i v old d d' hgov hread hgoverned hwrite
    exact answers_of_runAct rfl ha (runAct_doBankRelease hpending
      (runs_bankWrites_revision hclosed hbasic hgov (runs_reviseEntry hread hgoverned hwrite)))
  case base =>
    intro i v d' hhist hwrite
    exact answers_of_runAct rfl ha (runAct_doBankRelease hpending (runs_bankWrites_base hclosed hbasic hhist (runs_writeBase hwrite)))

end Sys2Proof.Proofs

/-! SUPPORT. Counters: what a count changes and what it leaves, the reads of a counter's halves (R81), and the register that enables and clears the counters of
an array or an exchange engine (R78, R387). -/

namespace Sys2Proof.Proofs

open Sys2Proof.Machine Sys2Proof.Safety Sys2Proof.Laws

/-! Counting. -/

section
variable (d : Dev) (c : CtrName) (u n i : Nat)

/-- Every counter is 64 bits wide. -/
theorem ctrOf_lt : ctrOf d c u i < 2 ^ 64 := BitVec.isLt _

/-- A count changes the counters alone. -/
theorem counted_frame : counted d c u n i = { d with ctrs := (counted d c u n i).ctrs } := by
  unfold counted
  split <;> rfl

/-- A count leaves every other counter. -/
theorem ctrOf_counted_ne {c' : CtrName} {u' i' : Nat} (h : (⟨c', u', i'⟩ : CtrKey) ≠ ⟨c, u, i⟩) : ctrOf (counted d c u n i) c' u' i' = ctrOf d c' u' i' := by
  unfold counted
  split
  · simp only [ctrOf, tabGet_put_ne _ _ _ h]
  · rfl

variable {d c u}

/-- A counter that does not count stays as it is. -/
theorem counted_of_not_counting (h : counting d c u = false) : counted d c u n i = d := by simp [counted, h]

/-- A counter that counts saturates. -/
theorem ctrOf_counted_of_counting (h : counting d c u = true) : ctrOf (counted d c u n i) c u i = min (ctrOf d c u i + n) (2 ^ 64 - 1) := by
  by_cases hn : n = 0
  · have := ctrOf_lt d c u i
    simp only [counted, hn, bne_self_eq_false, Bool.and_false, Bool.false_eq_true, if_false]
    omega
  · simp only [counted, h, bne_iff_ne.2 hn, Bool.and_self, if_true, ctrOf, tabGet_put_same, toNat_satAdd64]

end

/-! Reads of a counter's halves. -/

section
variable {s : State} {f : FnId} {d : Dev} {off v : Nat}

/-- A host's aligned read: once the fabric is awake the value goes out (R81, R421). -/
theorem counterLowRead_answers {e : Dev} (hr : reaches s.dev f = true) (hw : Runs wakeFabric s.dev () d) (hoff : off % 4 = 0)
    (hread : Runs (barRead f off) d v e) : Answers (.counterLowRead f off) s { e with out := e.out ++ [.regRead f off v] } := by
  refine answers_of_runAct (m := doBarRead f off) rfl (awake_of_reaches hr) ?_
  rw [runAct_def, doBarRead, run_bind, run_look, run_onlyIf, if_pos hr, run_bind, hw, if_neg (by simp [hoff]), run_bind, hread, run_emit]
  rfl

variable (hdec : barDecodes d f off = true)
include hdec

/-- The low word latches the high one. -/
theorem runs_barRead_low (hat : counterAt d f off = some (v, false)) :
    Runs (barRead f off) d (v % 2 ^ 32) { d with latches := tabPut d.latches f (off, toWord (v / 2 ^ 32)) } := by
  intro k
  rw [barRead, run_bind, run_look, if_neg (by simp [hdec]), hat]
  rfl

/-- The high word of the counter that the function's latch holds is the latched one. -/
theorem runs_barRead_latched (hat : counterAt d f off = some (v, true)) {w : Word} (hlatch : tabFind d.latches f = some (off - 4, w)) (hlow : 4 ≤ off) :
    Runs (barRead f off) d w.toNat d := by
  intro k
  rw [barRead, run_bind, run_look, if_neg (by simp [hdec]), hat]
  simp only [hlatch, Nat.sub_add_cancel hlow, if_true, run_pure]

/-- The high word of a counter that the function's latch does not hold is the live one. -/
theorem runs_barRead_live (hat : counterAt d f off = some (v, true)) (hlatch : ∀ low w, tabFind d.latches f = some (low, w) → low + 4 ≠ off) :
    Runs (barRead f off) d (v / 2 ^ 32) d := by
  intro k
  rw [barRead, run_bind, run_look, if_neg (by simp [hdec]), hat]
  cases hf : tabFind d.latches f with
  | none => rfl
  | some held =>
    obtain ⟨low, w⟩ := held
    simp only [if_neg (hlatch low w hf), run_pure]

end

/-- Settles O12: a low-word read latches, and a high-word read looks at what the latch holds. -/
theorem counterReads : Obligations.CounterReads := by
  refine ⟨fun s f d off v hr hw hoff hdec => ⟨fun hat => ?low, fun hat => ⟨fun w hlatch hlow => ?latched, fun hlatch => ?live⟩⟩,
    fun n _ c => ⟨rfl, fun d => ⟨ctrOf_lt d n c.val 0, fun k hcounts => ctrOf_counted_of_counting k 0 hcounts⟩⟩⟩
  case low => exact counterLowRead_answers hr hw hoff (runs_barRead_low hdec hat)
  case latched => exact counterLowRead_answers hr hw hoff (runs_barRead_latched hdec hat hlatch hlow)
  case live => exact counterLowRead_answers hr hw hoff (runs_barRead_live hdec hat hlatch)

/-! The counters that a control register clears. -/

/-- A table of counters with those of some entries zeroed. -/
def zeroed (ts : List (CtrKey × DWord)) (t : Tab CtrKey DWord) : Tab CtrKey DWord := ts.foldl (fun t c => tabPut t c.1 0#64) t

/-- Each entry's counter set to zero, one after the other. -/
theorem run_each_zero (ts : List (CtrKey × DWord)) (k : Unit → Prog) (d : Dev) :
    Prog.run (each ts (fun c => emit (.ctr c.1 0#64)) k) d = Prog.run (k ()) { d with ctrs := zeroed ts d.ctrs } := by
  induction ts generalizing d with
  | nil => rfl
  | cons c ts ih => rw [run_each_cons, run_emit, ih]; rfl

/-- A counter with an entry among those zeroed reads zero. -/
theorem tabGet_zeroed_mem {ts : List (CtrKey × DWord)} {key : CtrKey} {t : Tab CtrKey DWord} (h : key ∈ ts.map (·.1) ∨ tabGet t key 0#64 = 0#64) :
    tabGet (zeroed ts t) key 0#64 = 0#64 := by
  induction ts generalizing t with
  | nil => simpa [zeroed] using h
  | cons c ts ih =>
    refine ih ?_
    by_cases hc : key = c.1
    · exact .inr (by rw [hc, tabGet_put_same])
    · rw [tabGet_put_ne _ _ _ hc]
      simpa [hc] using h

/-- Of a table whose entries that `mine` picks are zeroed, a counter that `mine` picks reads zero, listed or not. -/
theorem tabGet_zeroed_filter (t : Tab CtrKey DWord) {mine : CtrKey → Bool} {key : CtrKey} (h : mine key = true) :
    tabGet (zeroed (t.filter fun c => mine c.1) t) key 0#64 = 0#64 := by
  refine tabGet_zeroed_mem ?_
  cases hf : tabFind t key with
  | none => exact .inr (by rw [tabGet, hf]; rfl)
  | some v => exact .inl (List.mem_map.2 ⟨(key, v), List.mem_filter.2 ⟨tabFind_mem hf, h⟩, rfl⟩)

/-- The counters that control register `n` of a unit clears, as cnt_clear picks them (R78, R361). -/
def clearedBy (n : RegName) (unit : Nat) (k : CtrKey) : Bool :=
  (k.name.row.bind (·.ctl)) == some n && !k.name.isGauge && (if n = .TYL_ENG_CTRL then k.unit / 4 == unit else k.unit == unit)

/-- cnt_clear of a block other than the barrel zeroes the counters it picks and changes nothing else. -/
theorem run_clearCounters {n : RegName} (hn : n ≠ .BARL_CTRL) (unit : Nat) (k : Unit → Prog) (d : Dev) :
    Prog.run (clearCounters n unit k) d = Prog.run (k ()) { d with ctrs := zeroed (d.ctrs.filter fun c => clearedBy n unit c.1) d.ctrs } := by
  simp only [clearCounters, run_bind, run_look, beq_eq_false_iff_ne.2 hn]
  exact run_each_zero ..

/-! A register of cnt_enable and cnt_clear alone. -/

/-- The bits of a register whose bit 0 is its only writable one: bit 0 from the value, the others as they were (R3). -/
theorem written_bit0 {row : RegRow} (hrw : row.rw = 1) (hw1c : row.w1c = 0) (hw1s : row.w1s = 0) {old : Nat} (hold : old < 2 ^ 32) (v : Nat) :
    written row old v = 2 * (old / 2) + v % 2 := by
  have hkept : old &&& 0xFFFFFFFE = 2 * (old / 2) := by
    have hhalf : (old &&& 0xFFFFFFFE) / 2 = old / 2 := by
      rw [Nat.and_div_two]
      exact (Nat.and_two_pow_sub_one_eq_mod (old / 2) 31).trans (Nat.mod_eq_of_lt (by omega))
    have heven : (old &&& 0xFFFFFFFE) % 2 = 0 := by simp [Nat.and_mod_two_pow (n := 1)]
    omega
  have hsum : 2 * (old / 2) ||| v % 2 = 2 * (old / 2) + v % 2 := (Nat.two_pow_add_eq_or_of_lt (i := 1) (Nat.mod_lt v (by omega)) (old / 2)).symm
  rw [written, hrw, hw1c, hw1s, Nat.and_zero, Nat.or_zero, Nat.and_one_is_mod, hkept, hsum]
  exact (Nat.and_two_pow_sub_one_eq_mod _ 32).trans (Nat.mod_eq_of_lt (by omega))

/-- Bit 0 of a number put together from its half and a bit is that bit; the others are the half's. -/
theorem bitOf_bit0 (old v i : Nat) : bitOf (2 * (old / 2) + v % 2) i = if i = 0 then bitOf v 0 else bitOf old i := by
  cases i with
  | zero => simp [bitOf, Nat.add_mod]
  | succ i =>
    have hhalf : (2 * (old / 2) + v % 2) / 2 = old / 2 := by omega
    simp [bitOf, Nat.shiftRight_succ_inside, hhalf]

/-- A register just set reads the low 32 bits of the value. -/
theorem regOf_put (d : Dev) (n : RegName) (u i v : Nat) : regOf { d with regs := tabPut d.regs ⟨n, u, i⟩ (toWord v) } n u i = v % 2 ^ 32 := by
  simp only [regOf, tabGet_put_same, toWord, BitVec.toNat_ofNat]

/-- ARR_CTRL in the register map (R78). -/
def arrCtrl : RegRow := ⟨.core, 0x50, 0x4, 1, .ARR_CTRL, 0x1, 0x0, 0x0, 0x1, true, false⟩

/-- XCH_CTRL in the register map (R387). -/
def xchCtrl : RegRow := ⟨.die, 0x0, 0x4, 1, .XCH_CTRL, 0x1, 0x0, 0x0, 0x1, true, false⟩

theorem row_arrCtrl : RegName.row .ARR_CTRL = some arrCtrl := by decide +kernel

theorem row_xchCtrl : RegName.row .XCH_CTRL = some xchCtrl := by decide +kernel

/-- The module after a write of `v` to a counter control register whose bits become `new`: the register is set, and with cnt_clear written 1 its counters are
cleared, at once or, while its domain is not ON, once it is (R577). -/
def controlWritten (ctl : RegName) (u new v : Nat) (d : Dev) : Dev :=
  let w : Dev := { d with regs := tabPut d.regs ⟨ctl, u, 0⟩ (toWord new) }
  if bitOf v 1 then
    if blockOn d ctl u then { w with ctrs := zeroed (d.ctrs.filter fun c => clearedBy ctl u c.1) d.ctrs }
    else { w with fw := { w.fw with late := w.fw.late ++ [.clear ctl u] } }
  else w

/-- A write of ARR_CTRL or XCH_CTRL. -/
theorem runAct_regWrite_counterControl {row : RegRow} (h : row = arrCtrl ∨ row = xchCtrl) (f : FnId) (u v : Nat) (d : Dev) :
    runAct (regWrite f row u 0 v) d = controlWritten row.name u (written row (regOf d row.name u) v) v d := by
  have hctl : (ctrMap.any fun r => r.ctl == some row.name) = true := by obtain rfl | rfl := h <;> decide +kernel
  have hbarl : row.name ≠ .BARL_CTRL := by obtain rfl | rfl := h <;> decide
  have hset : ∀ k : Unit → Prog, Prog.run (regWrite f row u 0 v k) d = Prog.run ((do
      setReg row.name u 0 (written row (regOf d row.name u) v)
      onlyIf (bitOf v 1 && ctrMap.any fun r => r.ctl == some row.name)
        (if blockOn d row.name u then clearCounters row.name u else updFw fun x => { x with late := x.late ++ [Late.clear row.name u] })) k) d := by
    obtain rfl | rfl := h <;> exact fun _ => rfl
  rw [runAct_def, hset, run_bind, run_setReg, run_onlyIf, hctl, Bool.and_true, controlWritten]
  by_cases hclear : bitOf v 1 = true
  · by_cases hon : blockOn d row.name u = true
    · simp only [hclear, hon, if_true, run_clearCounters hbarl, run_done]
    · simp only [hclear, hon, if_true]
      rfl
  · simp only [hclear]
    rfl

section
variable (ctl : RegName) (u new v : Nat) (d : Dev)

theorem regOf_controlWritten : regOf (controlWritten ctl u new v d) ctl u = new % 2 ^ 32 := by
  rw [← regOf_put d ctl u 0 new, controlWritten]
  split
  · split <;> rfl
  · rfl

variable {ctl u new v d} {n : CtrName}

theorem ctrOf_controlWritten_clear (hclear : bitOf v 1 = true) (hon : blockOn d ctl u = true) (hn : clearedBy ctl u ⟨n, u, 0⟩ = true) :
    ctrOf (controlWritten ctl u new v d) n u = 0 := by
  simp only [controlWritten, hclear, hon, if_true, ctrOf]
  rw [tabGet_zeroed_filter d.ctrs hn]
  rfl

theorem ctrOf_controlWritten_keep (hkeep : bitOf v 1 = false) : ctrOf (controlWritten ctl u new v d) n u = ctrOf d n u := by
  simp only [controlWritten, hkeep, Bool.false_eq_true, if_false]
  rfl

end

/-- Whether counter `n` is governed by control register `ctl` of its own core or die, and is no gauge. -/
def governed (ctl : RegName) (n : CtrName) : Bool :=
  !n.isGauge && n.row.any fun r => r.ctl == some ctl && (r.blk == .core || r.blk == .die)

section
variable {ctl : RegName} {n : CtrName} (h : governed ctl n = true) (u : Nat)
include h

/-- A governed counter counts as its control register's bit 0 says. -/
theorem counting_of_governed (d : Dev) : counting d n u = bitOf (regOf d ctl u) 0 := by
  simp only [governed, Bool.and_eq_true, Option.any_eq_true, Bool.or_eq_true, beq_iff_eq] at h
  obtain ⟨-, r, hrow, hctl, hblk | hblk⟩ := h <;> simp [counting, hrow, hctl, hblk]

/-- A governed counter is one of those that its control register clears. -/
theorem clearedBy_of_governed (hctl : ctl ≠ .TYL_ENG_CTRL) : clearedBy ctl u ⟨n, u, 0⟩ = true := by
  simp only [governed, Bool.and_eq_true, Option.any_eq_true, beq_iff_eq] at h
  obtain ⟨hgauge, r, hrow, hr, -⟩ := h
  simp [clearedBy, hrow, hr, hgauge, hctl]

end

/-- Each of the two registers' blocks takes a write at once, the core's while its domain is ON (R478, R577). -/
theorem blockOn_counterControl {row : RegRow} (h : row = arrCtrl ∨ row = xchCtrl) {d : Dev} {u : Nat} (hdom : row.name = .ARR_CTRL → domOf d (u / 25) = .on) :
    blockOn d row.name u = true := by
  obtain rfl | rfl := h
  · simp [blockOn, RegName.domain, show arrCtrl.name.row = some arrCtrl from row_arrCtrl, show arrCtrl.blk = .core from rfl, hdom rfl]
  · simp [blockOn, RegName.domain, show xchCtrl.name.row = some xchCtrl from row_xchCtrl, show xchCtrl.blk = .die from rfl]

/-- A write of ARR_CTRL or XCH_CTRL leaves bit 0 of the value over what the other bits were (R78, R387). -/
theorem regOf_counterControl_write {row : RegRow} (h : row = arrCtrl ∨ row = xchCtrl) (f : FnId) (u v : Nat) (d : Dev) :
    regOf (runAct (regWrite f row u 0 v) d) row.name u = 2 * (regOf d row.name u / 2) + v % 2 := by
  have hold : regOf d row.name u < 2 ^ 32 := BitVec.isLt _
  have hbits : written row (regOf d row.name u) v = 2 * (regOf d row.name u / 2) + v % 2 := by
    obtain rfl | rfl := h <;> exact written_bit0 rfl rfl rfl hold v
  rw [runAct_regWrite_counterControl h, regOf_controlWritten, hbits, Nat.mod_eq_of_lt (by omega)]

/-- Settles O11: each of the two registers has one writable bit, which its counters obey, and a bit that clears them. -/
theorem counterControls : Obligations.CounterControls := by
  intro ctl names hmem u
  obtain ⟨row, h, rfl, hrow, hnames⟩ : ∃ row : RegRow, (row = arrCtrl ∨ row = xchCtrl) ∧ row.name = ctl ∧ ctl.row = some row ∧
      names.all (governed ctl) = true := by
    simp only [List.mem_cons, List.not_mem_nil, or_false, Prod.mk.injEq] at hmem
    obtain ⟨rfl, rfl⟩ | ⟨rfl, rfl⟩ := hmem
    · exact ⟨arrCtrl, .inl rfl, rfl, row_arrCtrl, by decide +kernel⟩
    · exact ⟨xchCtrl, .inr rfl, rfl, row_xchCtrl, by decide +kernel⟩
  refine ⟨by obtain rfl | rfl := h <;> rfl, fun row' d f v hrow' => ?_⟩
  obtain rfl : row = row' := Option.some.inj (hrow.symm.trans hrow')
  intro e
  have hnew : regOf e row.name u = 2 * (regOf d row.name u / 2) + v % 2 := regOf_counterControl_write h f u v d
  have he : e = controlWritten row.name u (written row (regOf d row.name u) v) v d := runAct_regWrite_counterControl h f u v d
  have henable : bitOf (regOf e row.name u) 0 = bitOf v 0 := by rw [hnew, bitOf_bit0, if_pos rfl]
  have hctl : row.name ≠ .TYL_ENG_CTRL := by obtain rfl | rfl := h <;> decide
  refine ⟨fun i => by rw [hnew, bitOf_bit0], fun hlow => by omega, by obtain rfl | rfl := h <;> rfl, fun n hmem => ?_⟩
  have hn : governed row.name n = true := List.all_eq_true.1 hnames n hmem
  refine ⟨fun hclear hdom => ?clear, fun hkeep => ?keep, fun k => ⟨fun hoff => ?off, fun hon => ?on⟩⟩
  case clear => rw [he, ctrOf_controlWritten_clear hclear (blockOn_counterControl h hdom) (clearedBy_of_governed hn u hctl)]
  case keep => rw [he, ctrOf_controlWritten_keep hkeep]
  case off => exact counted_of_not_counting k 0 (by rw [counting_of_governed hn, henable, hoff])
  case on => exact ctrOf_counted_of_counting k 0 (by rw [counting_of_governed hn, henable, hon])

end Sys2Proof.Proofs

/-! SUPPORT. What the shared operations leave unchanged: the going on of a module at rest, the issue of a command, and an answer on an admin ring (R86, R90,
R432, R434). -/

namespace Sys2Proof.Proofs

open Sys2Proof.Machine Sys2Proof.Safety Sys2Proof.Laws

/-- A module without power, or with nothing in hand, stays as it is. -/
theorem settle_at_rest {d : Dev} (h : awake d = false ∨ goesOn d = false) : settle d = d := by
  rw [settle, if_neg]
  obtain h | h := h <;> simp [h]

/-- The first command of a task changes the task and its step at most. -/
theorem taskIssued_frame (p : PartId) (tid : Nat) (d : Dev) :
    runAct (taskIssued p tid) d = { d with tasks := (runAct (taskIssued p tid) d).tasks, parts := (runAct (taskIssued p tid) d).parts } := by
  rw [runAct_def, taskIssued, run_bind, run_look]
  cases taskOf d p tid with
  | none => rfl
  | some t =>
    rw [run_onSome_some, run_onlyIf]
    split
    · rw [run_bind, run_emit]
      cases (partOf d p).step <;> rfl
    · rfl

section
variable (d : Dev) (c : CoreId) (k : SlotId) (len : Nat) (again busy : Bool)

/-- Slot `k` of core `c` behind the command it issues. -/
def slotBehind : Slot := { advance (slotOf d c k) len again with
  seq := (slotOf d c k).seq + 1
  busy := if busy then (slotOf d c k).busy ++ [(slotOf d c k).seq] else (slotOf d c k).busy }

/-- The issue of a command: the slot stands behind it, the issue counts, and the task has begun. -/
theorem issued_eq : issued d c k len again busy =
    runAct (taskIssued (slotOf d c k).part (slotOf d c k).tid) (counted (withSlot d c k (slotBehind d c k len again busy)) .CORE_ISSUE_COUNT c.val 1) := by
  simp only [issued, runAct_def, run_bind, run_emit, run_count]
  rfl

/-- The slots after the issue of a command. -/
theorem issued_slots : (issued d c k len again busy).slots = tabPut d.slots (c, k) (slotBehind d c k len again busy) := by
  rw [issued_eq, taskIssued_frame, counted_frame]
  rfl

/-- The issue of a command changes slots, counters, tasks and partitions alone. -/
theorem issued_frame : issued d c k len again busy = { d with
    slots := (issued d c k len again busy).slots
    ctrs := (issued d c k len again busy).ctrs
    tasks := (issued d c k len again busy).tasks
    parts := (issued d c k len again busy).parts } := by
  rw [issued_eq, taskIssued_frame, counted_frame]
  rfl

end

/-- The module in which the command at the head of function `f`'s admin ring is taken (R432). -/
def headTaken (d : Dev) (f : FnId) : Dev := { d with fns := tabPut d.fns f { fnOf d f with aDone := ((fnOf d f).aDone + 1) % 2 ^ 32 } }

theorem fnOf_headTaken (d : Dev) (f : FnId) : fnOf (headTaken d f) f = { fnOf d f with aDone := ((fnOf d f).aDone + 1) % 2 ^ 32 } := tabGet_put_same ..

theorem adminFull_headTaken (d : Dev) (f : FnId) : adminFull (headTaken d f) f = adminFull d f := by
  rw [adminFull, fnOf_headTaken]
  rfl

/-- An answer on the admin ring of an active function with room (R432, R434): the function has one command more done and one entry more written, the entry
stands in its place, and vector 0 is raised. -/
theorem runAct_adminAnswer {d : Dev} {f : FnId} (hactive : (fnOf d f).st = .active) (hroom : adminFull d f = false) (entry : List Byte) (st r : Nat) :
    runAct (adminAnswer f entry st r) d = { d with
      fns := tabPut (headTaken d f).fns f { fnOf (headTaken d f) f with aWritten := ((fnOf d f).aWritten + 1) % 2 ^ 32 }
      mems := tabPut d.mems (.admin f) (memPutN (memOf d (.admin f)) (0x4000 + 16 * ((fnOf d f).aWritten % 256))
        (withPhase (adminBytes (cmdTag entry) st 0 0 r) ((fnOf d f).aWritten / 256 % 2 == 0)))
      out := d.out ++ [.msix f 0] } := by
  have htaken : ∀ k : Unit → Prog, Prog.run (adminTaken f k) d = Prog.run (k ()) (headTaken d f) := fun _ => rfl
  rw [runAct_def, adminAnswer, run_bind, htaken, adminPost, run_bind, run_look, adminFull_headTaken, hroom, fnOf_headTaken]
  simp only [hactive, ne_eq, not_true_eq_false, false_and, Bool.false_eq_true, if_false, run_bind, run_emit, run_onlyIf]
  rfl

/-- Settles O8: each shared operation as its own lemmas say it. -/
theorem sharedOperationsFrame : Obligations.SharedOperationsFrame := by
  refine fun d => ⟨settle_at_rest, fun c u n i => ⟨counted_frame d c u n i, fun c' u' i' h => ctrOf_counted_ne d c u n i h⟩,
    fun c k len again busy => ⟨issued_frame d c k len again busy, fun c' k' h => ?others, ?own⟩, fun f entry st r hactive hroom => ?answer⟩
  case others => simp only [slotOf, issued_slots, tabGet_put_ne _ _ _ h]
  case own => simp only [slotOf, issued_slots, tabGet_put_same, slotBehind]
  case answer =>
    rw [runAct_adminAnswer hactive hroom]
    refine ⟨?_, fun g hg => ?_, rfl⟩
    · rw [fnOf_headTaken]
      exact tabGet_put_same ..
    · simp only [fnOf, headTaken, tabGet_put_ne _ _ _ hg]

end Sys2Proof.Proofs

/-! SUPPORT. The array and the queues of a core's engines and of the exchange engine: what a command that issues comes to (R66, R89, R126, R134, R259, R366), and
how a shadow load and a PASS end (R62, R65, R70). -/

namespace Sys2Proof.Proofs

open Sys2Proof.Machine Sys2Proof.Safety Sys2Proof.Laws

/-- Settles O13: the sixteen codes, one by one. -/
theorem formatCodes : Obligations.FormatCodes := by
  unfold Obligations.FormatCodes
  decide

section
variable {s : State} {c : CoreId} {k : SlotId} {op : Op} {len w : Nat} {again : Bool} {env : IslandEnv} {i : Instr} (ha : awake s.dev = true)
  {d : Dev} (hd : issued s.dev c k len again true = d)
include ha hd

section
variable (ht : Takes s.dev c k op len w again)
include ht

/-- A command for the array whose operands can pair enters the array's queue (R66, R89). -/
theorem arrIssue_answers (he : exec i s = after (arrIssue op env c k) s) (hpair : pairingBad (arrOf d c) k w = false) :
    Answers i s { d with arrs := tabPut d.arrs c { arrOf d c with q := (arrOf d c).q ++ [⟨k, (slotOf s.dev c k).seq, w, env, 0, []⟩] } } := by
  refine issue_answers ha ht he (beq_self_eq_true op) ?_
  rw [hd, runAct_def, run_bind, run_look, hpair]
  rfl

/-- A command for the array whose operands cannot pair is refused as it issues (R44). -/
theorem arrIssue_refused_answers (he : exec i s = after (arrIssue op env c k) s) (hpair : pairingBad (arrOf d c) k w = true) :
    Answers i s (runAct (arrFault c k 1) d) := by
  refine issue_answers ha ht he (beq_self_eq_true op) ?_
  rw [hd, runAct_def, run_bind, run_look, hpair]
  rfl

/-- A command that a row of the vector engine names enters its queue (R89, R126). -/
theorem vecIssue_answers {want : Op → Nat → Bool} (he : exec i s = after (vecIssue want env c k) s) (hwant : want op w = true) :
    Answers i s { d with vecs := tabPut d.vecs c { vecOf d c with q := (vecOf d c).q ++ [⟨k, (slotOf s.dev c k).seq, w, env, 0, []⟩] } } := by
  subst hd
  exact issue_answers ha ht he hwant rfl

end

/-- A LATHE whose operation is one of its row's enters the lathe's queue (R89, R134). -/
theorem latheIssue_answers (ht : Takes s.dev c k .lathe len w again) {ops : List Nat} (he : exec i s = after (latheIssue ops env c k) s)
    (hop : bitsOf w 11 8 ∈ ops) :
    Answers i s { d with lathes := tabPut d.lathes c { latheOf d c with q := (latheOf d c).q ++ [⟨k, (slotOf s.dev c k).seq, w, env, 0, []⟩] } } := by
  subst hd
  exact issue_answers ha ht he (by simpa using hop) rfl

/-- An exchange command whose mode is one of its row's enters the queue of its die's engine, which takes what it can (R89, R366). -/
theorem xchIssue_answers {combine : Bool} (ht : Takes s.dev c k (if combine then .xcombine else .xdispatch) len w again) {modes : List Nat}
    (he : exec i s = after (xchIssue combine modes c k) s) (hmode : bitsOf w 9 8 ∈ modes) :
    Answers i s (runAct (do
      setXch (dieOf c) { xchOf d (dieOf c) with
        q := (xchOf d (dieOf c)).q ++ [⟨c, k, (slotOf s.dev c k).part, (slotOf s.dev c k).tid, (slotOf s.dev c k).seq, w⟩] }
      kickXch (dieOf c) ((xchOf d (dieOf c)).q.length + 1)) d) := by
  subst hd
  exact issue_answers ha ht he (by simpa using hmode) rfl

end

/-- The operations from 8 up are those of the row of CHUCK_STORE (R134, R140). -/
theorem latheOp_mem_of_le {w : Nat} (h : 8 ≤ bitsOf w 11 8) : bitsOf w 11 8 ∈ [8, 9, 10, 11, 12, 13, 14, 15] := by
  have hlt : bitsOf w 11 8 < 16 := Nat.mod_lt _ (by decide)
  simp only [List.mem_cons, List.not_mem_nil, or_false]
  omega

/-- The modes of XCOMBINE but 0 are those of the row of the unit mode (R383, R386). -/
theorem xcombineMode_mem_of_ne {w : Nat} (h : bitsOf w 9 8 ≠ 0) : bitsOf w 9 8 ∈ [1, 2, 3] := by
  have hlt : bitsOf w 9 8 < 4 := Nat.mod_lt _ (by decide)
  simp only [List.mem_cons, List.not_mem_nil, or_false]
  omega

/-- Settles O17: the row of each command is one of the four engines' issue operations, and names what the command's bits say. -/
theorem engineCommandsQueue : Obligations.EngineCommandsQueue := by
  refine ⟨fun s c k len w again env ha => ⟨?sload, ?pass, ?sloadBad, ?passBad⟩, fun s c k len w again env ha => ⟨?vop, ?forward, ?derivative, ?update⟩,
    fun s c k len w again env ha ht => ?lathe, fun s c k len w again ha => ⟨fun ht => ?dispatch, fun ht => ⟨fun h => ?gate, fun h => ?unit⟩⟩⟩
  case sload | pass => exact fun ht => arrIssue_answers ha rfl ht rfl
  case sloadBad | passBad => exact fun ht => arrIssue_refused_answers ha rfl ht rfl
  case vop | update => exact fun ht => vecIssue_answers ha rfl ht rfl rfl
  case forward | derivative => exact fun ht h => vecIssue_answers ha rfl ht rfl (by simp [h])
  case lathe =>
    refine ⟨?_, ?_, ?_, ?_, ?_, ?_, ?_, ?_, fun h => latheIssue_answers ha rfl ht rfl (latheOp_mem_of_le h)⟩
    all_goals exact fun h => latheIssue_answers ha rfl ht rfl (List.mem_singleton.2 h)
  case dispatch =>
    refine ⟨?_, ?_, ?_, ?_⟩
    all_goals exact fun h => xchIssue_answers (combine := false) ha rfl ht rfl (List.mem_singleton.2 h)
  case gate => exact xchIssue_answers (combine := true) ha rfl ht rfl (List.mem_singleton.2 h)
  case unit => exact xchIssue_answers (combine := true) ha rfl ht rfl (xcombineMode_mem_of_ne h)

/-! The ends of a shadow load and of a PASS. -/

@[simp] theorem run_setArr (c : CoreId) (a : Arr) (k : Unit → Prog) (d : Dev) :
    Prog.run (setArr c a k) d = Prog.run (k ()) { d with arrs := tabPut d.arrs c a } := rfl

/-- The module in which the oldest pass of core `c`'s array, `p`, has left it to the passes `rest` and is counted with its cycles (R62, R65, R81). -/
def passLeft (d : Dev) (c : CoreId) (p : PassRun) (rest : List PassRun) : Dev :=
  let left : Dev := { d with arrs := tabPut d.arrs c { arrOf d c with
    passes := rest
    sh := if p.swap ∧ (arrOf d c).sh = .draining ∧ !(rest.any fun r => r.swap) then .empty else (arrOf d c).sh } }
  counted (counted left .ARR_PASS_COUNT c.val (if p.discard then 0 else 1)) .ARR_BUSY_CYCLES c.val (p.rows + (if rest.isEmpty then 256 else 0))

section
variable {s : State} {c : CoreId} (ha : awake s.dev = true)
include ha

/-- The last byte of a shadow load arrives: the shadow is FULL, and the reload counts or the load's SLOAD completes (R65, R70). -/
theorem shadowLoadComplete_answers {r : Run} {o : Operand} (hload : (arrOf s.dev c).load = some r) (hshadow : (arrOf s.dev c).shadow = some o)
    (hst : (arrOf s.dev c).sh = .loading) (hrows : o.rows.length = o.next) :
    Answers (.shadowLoadComplete c) s (runAct (if (arrOf s.dev c).reload then count .ARR_RELOAD_COUNT c.val 1
        else completeCmd (slotOf s.dev c r.q.slot).part (slotOf s.dev c r.q.slot).tid r.q.seq)
      { s.dev with arrs := tabPut s.dev.arrs c { arrOf s.dev c with
        sh := .full
        load := none } }) := by
  refine answers_of_runAct (m := doShadowDone c) rfl ha ?_
  rw [runAct_def, doShadowDone, run_bind, run_look, hload, hshadow]
  simp only [hst, hrows, and_self, if_true, run_bind, run_setArr]
  rw [← hshadow]
  rfl

variable {p : PassRun} {rest : List PassRun} (hpasses : (arrOf s.dev c).passes = p :: rest)
include hpasses

/-- While the oldest pass takes rows it does not complete. -/
theorem passComplete_feeding_answers (hfeeding : p.feeding = true) : Answers (.passComplete c) s s.dev := by
  refine answers_of_runAct (m := do doPassDone (envOf (← look)) c) rfl ha ?_
  rw [runAct_def, run_bind, run_look, doPassDone, run_bind, run_look, hpasses, List.head?_cons, run_onSome_some, run_onlyIf, hfeeding]
  rfl

/-- The oldest pass, its rows all in, once the array has reached the cycle of the last: while a row of it is not written nothing more happens (R164); else it
leaves the array and is counted, and its command completes or an abort that waited for it goes on (R62). -/
theorem passComplete_fed_answers (hfed : p.feeding = false) {b : Bool} {e : Dev} {p' : PassRun} {rest' : List PassRun}
    (hreach : Runs (reachCycle (envOf s.dev) c (((p.out.getLast?).map fun o => o.born + 256).getD 0)) s.dev b e) (hleft : (arrOf e c).passes = p' :: rest') :
    Answers (.passComplete c) s (if p'.out = [] then
      runAct (if p'.discard then abortDone c p'.slot else completeCmd p'.own.part p'.own.tid p'.seq) (passLeft e c p' rest') else e) := by
  refine answers_of_runAct (m := do doPassDone (envOf (← look)) c) rfl ha ?_
  rw [runAct_def, run_bind, run_look, doPassDone, run_bind, run_look, hpasses, List.head?_cons, run_onSome_some, run_onlyIf, hfed, Bool.not_false, if_pos rfl,
    run_bind, hreach, run_bind, run_look, hleft, List.head?_cons, run_onSome_some, run_onlyIf]
  have hlast : ((p' :: rest').length = 1) = (rest'.isEmpty = true) := by cases rest' <;> simp
  by_cases hout : p'.out = []
  · rw [if_pos (by simp [hout]), if_pos hout, run_bind, run_setArr, run_bind, run_count, run_bind, run_count]
    simp only [hlast]
    rfl
  · rw [if_neg (by simpa using hout), if_neg hout]
    rfl

end

/-- Settles O21: a load that has every row, and the oldest pass once the array has reached the cycle of its last row. -/
theorem arrayCompletions : Obligations.ArrayCompletions := by
  refine ⟨fun s c r o ha hload hshadow hst hrows => ?load, fun s c p rest ha hpasses => ⟨fun hfeeding => ?feeding, fun b e p' rest' hfed hreach hleft => ?fed⟩⟩
  case load =>
    have h := shadowLoadComplete_answers ha hload hshadow hst hrows
    refine ⟨fun hplain => ?_, fun hreload => ?_⟩
    · rwa [if_neg (by simp [hplain])] at h
    · rwa [if_pos hreload, runAct_def, run_count] at h
  case feeding => exact passComplete_feeding_answers ha hpasses hfeeding
  case fed =>
    have h := passComplete_fed_answers ha hpasses hfed hreach hleft
    refine ⟨fun hrows => by rwa [if_neg hrows] at h, fun hout => ?_⟩
    rw [if_pos hout] at h
    exact ⟨fun hkept => by rwa [if_neg (by simp [hkept])] at h, fun hdiscarded => by rwa [if_pos hdiscarded] at h⟩

end Sys2Proof.Proofs

/-! SUPPORT. Byte memories and scratchpad banks: what a read finds after a write (R95, R280), and which banks the bytes of an access lie in (R95). -/

namespace Sys2Proof.Proofs

open Sys2Proof.Machine Sys2Proof.Safety Sys2Proof.Laws

/-! Memories. -/

/-- A write puts its bytes into its own memory. -/
theorem memOf_write_same (d : Dev) (r : Region) (a : Nat) (bs : List Byte) :
    memOf (runAct (emit (.write r a bs)) d) r = memPutN (memOf d r) a bs := tabGet_put_same ..

/-- A write leaves every other memory. -/
theorem memOf_write_ne (d : Dev) {r r' : Region} (a : Nat) (bs : List Byte) (h : r' ≠ r) :
    memOf (runAct (emit (.write r a bs)) d) r' = memOf d r' := tabGet_put_ne _ _ _ h

/-- Settles O10: a write puts its bytes into one memory, which is in canonical form. -/
theorem memoryReadsBack : Obligations.MemoryReadsBack := by
  intro d r a bs hd
  have hwf : Memory.wf (memOf d r) = true := memsSound_get hd r
  refine ⟨memsSound_put hd r (memPutN_wf a bs hwf), fun i hi => ?written, fun r' x hx => ?other⟩
  case written => rw [memOf_write_same, memGet_putN a bs _ hwf, if_pos (by omega), Nat.add_sub_cancel_left, List.getD_eq_getElem _ _ hi]
  case other =>
    by_cases hr : r' = r
    · subst hr
      have hout : ¬ (a ≤ x ∧ x < a + bs.length) := by
        obtain hne | hbelow | habove := hx
        · exact absurd rfl hne
        · omega
        · omega
      rw [memOf_write_same, memGet_putN a bs _ hwf, if_neg hout]
    · rw [memOf_write_ne d a bs hr]

/-! Banks. -/

/-- The bank of a byte is its 64-byte word's number modulo 32. -/
theorem bank_eq_word_mod (x : Nat) : bitsOf x 10 6 = x / 64 % 32 := by
  simp only [bitsOf, Nat.shiftRight_eq_div_pow, Nat.reducePow, Nat.reduceAdd, Nat.reduceSub]

/-- An access touches the banks of its bytes: word `j` of it has a byte of the access, and a byte's bank is first reached among the first 32 words. -/
theorem mem_banksOf (a n b : Nat) : b ∈ banksOf a n ↔ ∃ i, i < n ∧ bitsOf (a + i) 10 6 = b := by
  rw [banksOf]
  split
  case isTrue hn => simp [hn]
  case isFalse hn =>
    simp only [List.mem_map, List.mem_range, bank_eq_word_mod]
    constructor
    · rintro ⟨j, hj, rfl⟩
      exact ⟨64 * (a / 64 + j) - a, by omega, by congr 1; omega⟩
    · rintro ⟨i, hi, rfl⟩
      exact ⟨((a + i) / 64 - a / 64) % 32, by omega, by omega⟩

/-- Settles O15: a byte's bank is its word's number modulo 32. -/
theorem banksTouched : Obligations.BanksTouched := by
  refine ⟨mem_banksOf, fun a => ?_⟩
  rw [bank_eq_word_mod, bank_eq_word_mod]
  omega

end Sys2Proof.Proofs

/-! SUPPORT. The commands that the issue stage carries out itself (R86, R88), and what becomes of a slot outside it: the end of its task (R90), its command
fetcher (R86) and the image of a pre-empted task (R91). -/

namespace Sys2Proof.Proofs

open Sys2Proof.Machine Sys2Proof.Safety Sys2Proof.Laws

/-- A conditional whose condition fails runs its second branch. -/
theorem run_else {α : Type} {c : Prop} [Decidable c] {m n : Act α} (h : ¬ c) (k : α → Prog) (d : Dev) :
    Prog.run ((if c then m else n) k) d = Prog.run (n k) d := by rw [run_ite, if_neg h]

/-! The issue stage. -/

section
variable {s : State} {c : CoreId} {k : SlotId} {len w : Nat} {again : Bool} (ha : awake s.dev = true) {d : Dev}
  (hd : issued s.dev c k len again false = d)
include ha hd

/-- A NOP only issues (R86). -/
theorem nop_answers (ht : Takes s.dev c k .nop len w again) : Answers (.nop c k) s d := by
  refine answers_of_runAct (m := doNop c k) rfl ha ?_
  have ⟨htakes, hcmd⟩ := ht
  rw [runAct_def, doNop, run_bind, run_look, decide_eq_true htakes, hcmd, ← hd]
  exact run_issue (want := fun op _ => op == .nop) ht rfl _

/-- END sends its slot to ENDING (R88, R90). -/
theorem endCmd_answers (ht : Takes s.dev c k .end_ len w again) :
    Answers (.endCmd c k) s (withSlot d c k { slotOf d c k with st := .ending, wait := none }) := by
  subst hd
  exact issue_answers ha ht rfl rfl rfl

/-- WAIT stops its slot while the counter is below the threshold (R88). -/
theorem wait_answers (ht : Takes s.dev c k .wait len w again) :
    Answers (.wait c k) s (if evOf d c (slotOf s.dev c k).part (bitsOf w 44 40) < bitsOf w 63 48 then
      withSlot d c k { slotOf d c k with st := .waiting, wait := some (.counter (bitsOf w 44 40) (bitsOf w 63 48)) } else d) := by
  refine issue_answers ha ht rfl rfl ?_
  rw [hd, runAct_def, run_bind, run_look, run_onlyIf]
  simp only [decide_eq_true_eq]
  rfl

/-- FENCE stops its slot while an earlier command is in flight (R88). -/
theorem fence_answers (ht : Takes s.dev c k .fence len w again) :
    Answers (.fence c k) s (if (slotOf d c k).idle = true then d else
      withSlot d c k { slotOf d c k with st := .waiting, wait := some .fence }) := by
  refine issue_answers ha ht rfl rfl ?_
  rw [hd, runAct_def, run_bind, run_look, run_onlyIf]
  cases (slotOf d c k).idle <;> rfl

/-- SIGNAL, to add or to set, is noted in its slot and applied when the slot has gone that far (R88). -/
theorem signal_answers {set : Bool} {i : Instr} (he : exec i s = after (doSignal set c k) s) (ht : Takes s.dev c k .signal len w again)
    (hmode : bitsOf w 47 45 = b2n set) :
    Answers i s (runAct (slotProgress c k) (withSlot d c k { slotOf d c k with
      sigs := (slotOf d c k).sigs ++ [⟨(slotOf s.dev c k).seq, bitsOf w 44 40, set, bitsOf w 63 48⟩] })) := by
  subst hd
  exact issue_answers ha ht he (by simp [hmode]) rfl

end

/-- Settles O16: each command as it issues, WAIT and FENCE by their condition. -/
theorem issueStageCommands : Obligations.IssueStageCommands := by
  refine ⟨fun s c k len w again ha => ⟨nop_answers ha rfl, endCmd_answers ha rfl, ?below, ?reached, ?busy, ?idle⟩,
    fun s c k len w again ha ht => ⟨signal_answers (set := false) ha rfl rfl ht, signal_answers (set := true) ha rfl rfl ht⟩⟩
  case below => exact fun ht hbelow => by simpa only [if_pos hbelow] using wait_answers ha rfl ht
  case reached => exact fun ht hreached => by simpa only [if_neg (not_lt.2 hreached)] using wait_answers ha rfl ht
  case busy => exact fun ht hbusy => by simpa only [hbusy, Bool.false_eq_true, if_false] using fence_answers ha rfl ht
  case idle => exact fun ht hidle => by simpa only [if_pos hidle] using fence_answers ha rfl ht

/-! The end of a task. -/

/-- The module in which what slot `k` held is discarded and the slot is FREE, its epoch kept (R90, R93). -/
def slotFreed (d : Dev) (c : CoreId) (k : SlotId) : Dev :=
  { d with
    arrs := tabPut d.arrs c (arrDiscard (arrOf d c) k (slotOf d c k).part (slotOf d c k).tid)
    vecs := tabPut d.vecs c (engDiscard (vecOf d c) k)
    lathes := tabPut d.lathes c (engDiscard (latheOf d c) k)
    strmqs := (if (strmQ d c).any fun q => q.slot == k then tabPut d.strmqs c ((strmQ d c).filter fun q => q.slot ≠ k) else d.strmqs)
    slots := tabPut d.slots (c, k) { Slot.empty with epoch := (slotOf d c k).epoch } }

theorem run_freeSlot (c : CoreId) (k : SlotId) (g : Unit → Prog) (d : Dev) : Prog.run (freeSlot c k g) d = Prog.run (g ()) (slotFreed d c k) := by
  simp only [freeSlot, discardSlot, run_bind, run_look, run_emit, run_onlyIf, slotFreed]
  split <;> rfl

/-- Whether a drain of slot `k`'s task that ends with it is left on core `c` (R173). -/
def drainLeft (d : Dev) (c : CoreId) (k : SlotId) : Bool :=
  d.streams.any fun y =>
    y.1.1 == c && y.2.part == (slotOf d c k).part && y.2.tid == (slotOf d c k).tid && y.2.desc.drain && !y.2.desc.persist

/-- TASK_END_COMPLETE of an ENDING slot with nothing in flight: nothing while a drain is left, else the slot is freed and its task ends (R90, R173). -/
theorem taskEndComplete_answers {s : State} {c : CoreId} {k : SlotId} (ha : awake s.dev = true) (hst : (slotOf s.dev c k).st = .ending)
    (hidle : (slotOf s.dev c k).idle = true) :
    Answers (.taskEndComplete c k) s (if drainLeft s.dev c k then s.dev else
      runAct (endTask (slotOf s.dev c k).part (slotOf s.dev c k).tid 0 0) (slotFreed s.dev c k)) := by
  refine answers_of_runAct (m := doTaskEnd c k) rfl ha ?_
  rw [runAct_def, doTaskEnd, run_bind, run_look, run_onlyIf, hst, hidle, run_bind, run_freeSlot]
  unfold drainLeft
  cases s.dev.streams.any _ <;> rfl

/-- Settles O20: by whether a drain of the task is left. -/
theorem taskEndCompletes : Obligations.TaskEndCompletes := by
  intro s c k ha x hst hidle
  have h := taskEndComplete_answers ha hst hidle
  refine ⟨fun hnone => ?_, fun hleft => by rwa [if_pos (show drainLeft s.dev c k = true from hleft)] at h⟩
  have hdrains : drainLeft s.dev c k = false := by rwa [drainLeft, List.any_eq_not_all_not, Bool.not_eq_false']
  rwa [if_neg (by simp [hdrains])] at h

/-! The command fetcher. -/

/-- Where in slot `x`'s list the bytes begin that its buffer lacks. -/
def refillAt (x : Slot) : Nat := x.pos + x.buf.length

/-- How many bytes of its list slot `x`'s buffer takes: up to 2 KiB in all (R86). -/
def refillLen (x : Slot) : Nat := min (2048 - x.buf.length) (x.bytes - refillAt x)

/-- The read of the command fetcher for slot `k` (R86). -/
def refillRead (d : Dev) (c : CoreId) (k : SlotId) : Act (Except (Nat × Nat) (List Byte × List Nat)) :=
  let x := slotOf d c k
  vaRead (envOf d x.part) x.part { die := some (c.val / 50) } (x.list + 64 + refillAt x) (refillLen x)

/-- Slot `x` of core `c` with the bytes `bs` of its list, those from `at_` up, in its buffer, and what it waited for looked at again (R86, R90). -/
def refilled (d : Dev) (c : CoreId) (x : Slot) (at_ : Nat) (bs : List Byte) (bad : List Nat) : Slot :=
  let y := { x with
    buf := x.buf ++ bs
    bad := (x.bad.filter fun w => decide (x.pos ≤ 8 * w)) ++ bad.map (· + at_ / 8) }
  match x.st, x.wait with
  | .placed, none => { y with st := .ready }
  | .placed, some w => if waitMet d c x w then { y with
      st := .ready
      wait := none } else { y with st := .waiting }
  | .waiting, some .buffer => { y with
      st := .ready
      wait := none }
  | _, _ => y

section
variable {s : State} {c : CoreId} {k : SlotId} (ha : awake s.dev = true)
  (hlive : (slotOf s.dev c k).st = .placed ∨ (slotOf s.dev c k).st = .ready ∨ (slotOf s.dev c k).st = .waiting) (hon : domOf s.dev (c.val / 25) = .on)
  (hwants : refillLen (slotOf s.dev c k) ≠ 0 ∨ (slotOf s.dev c k).st = .placed)
include ha hlive hon hwants

/-- The fetcher of a live slot in a domain that is ON, with bytes to fetch or a slot to start, reads. -/
theorem commandBufferRefill_reads {d : Dev} (h : runAct (do
      match ← refillRead s.dev c k with
      | .error (code, addr) => do
        strmFault c k 0 3 code addr
        abortSlot c k 0x15 code
      | .ok (bs, bad) => do
        let d ← look
        emit (.slot c k (refilled d c (slotOf d c k) (refillAt (slotOf s.dev c k)) bs bad))) s.dev = d) :
    Answers (.commandBufferRefill c k) s d := by
  have hreads : ¬ ((!(((slotOf s.dev c k).st == .placed || (slotOf s.dev c k).st == .ready || (slotOf s.dev c k).st == .waiting) &&
      domOf s.dev (c.val / 25) == .on) || (refillLen (slotOf s.dev c k) == 0 && (slotOf s.dev c k).st != .placed)) = true) := by
    have hst : ((slotOf s.dev c k).st == .placed || (slotOf s.dev c k).st == .ready || (slotOf s.dev c k).st == .waiting) = true := by
      simpa [or_assoc] using hlive
    have hfetch : (refillLen (slotOf s.dev c k) == 0 && (slotOf s.dev c k).st != .placed) = false := by
      obtain hbytes | hplaced := hwants
      · simp [hbytes]
      · simp [hplaced]
    rw [hst, hon, hfetch]
    decide
  refine answers_of_runAct (m := do doRefill (envOf (← look)) c k) rfl ha ?_
  rw [← h, runAct_def, run_bind, run_look, doRefill, run_bind, run_look]
  exact run_else hreads _ _

variable {e : Dev}

/-- The bytes that the fetcher reads stand in the slot's buffer (R86). -/
theorem commandBufferRefill_lands {bs : List Byte} {bad : List Nat} (hread : Runs (refillRead s.dev c k) s.dev (.ok (bs, bad)) e) :
    Answers (.commandBufferRefill c k) s (withSlot e c k (refilled e c (slotOf e c k) (refillAt (slotOf s.dev c k)) bs bad)) := by
  refine commandBufferRefill_reads ha hlive hon hwants ?_
  rw [runAct_def, run_bind, hread]
  rfl

/-- A read of the fetcher that fails aborts the slot's task (R90). -/
theorem commandBufferRefill_faults {code a : Nat} (hread : Runs (refillRead s.dev c k) s.dev (.error (code, a)) e) :
    Answers (.commandBufferRefill c k) s (runAct (do
      strmFault c k 0 3 code a
      abortSlot c k 0x15 code) e) := by
  refine commandBufferRefill_reads ha hlive hon hwants ?_
  rw [runAct_def, run_bind, hread]
  rfl

end

/-- Settles O26: by what the fetcher's read answers. -/
theorem commandBufferRefills : Obligations.CommandBufferRefills := fun _ _ _ _ ha hlive hon hwants =>
  ⟨fun _ _ => commandBufferRefill_lands ha hlive hon hwants, fun _ _ => commandBufferRefill_faults ha hlive hon hwants⟩

/-! The image of a pre-empted task. -/

/-- A grant of an audit class grows its grants (R508). -/
theorem run_grant {n : Nat} (hn : n ≠ 0) (cls : Nat) (k : Unit → Prog) (d : Dev) :
    Prog.run (grant cls n k) d = Prog.run (k ()) { d with grants := tabPut d.grants cls (satAdd64 (tabGet d.grants cls 0#64) n) } := by
  rw [grant, run_onlyIf, if_pos (by simpa using hn), run_emit, apply_grant]

/-- The commands of slot `k` that run on core `c`'s vector engine and lathe (R139). -/
def slotRuns (d : Dev) (c : CoreId) (k : SlotId) : List Run :=
  [(vecOf d c).run, (latheOf d c).run].filterMap fun r => r.bind fun y => if y.q.slot = k then some y else none

/-- A context region of partition `y` that holds no image (R401). -/
def freeRegion (y : Part) : Nat := (y.ctx.find? fun r => !y.ctxUsed.contains r).getD 0

/-- The state image of slot `k`'s task (R91, R401). -/
def slotImage (d : Dev) (c : CoreId) (k : SlotId) : Image :=
  ⟨c, { slotOf d c k with resume := (slotRuns d c k).map fun r => { r.q with row := r.row } }, memOf d (.vreg c k), tabGet (arrOf d c).recs k ⟨none, none⟩,
    freeRegion (partOf d (slotOf d c k).part)⟩

/-- The module in which slot `k`'s task `t` is suspended with its image, and the slot has given up the core (R91, R401). -/
def imageSaved (d : Dev) (c : CoreId) (k : SlotId) (t : Task) : Dev :=
  let x := slotOf d c k
  let y := partOf d x.part
  { d with
    grants := tabPut d.grants 9 (satAdd64 (tabGet d.grants 9 0#64) 1)
    parts := tabPut d.parts x.part { y with ctxUsed := y.ctxUsed ++ [freeRegion y] }
    arrs := tabPut d.arrs c { arrOf d c with
      recs := tabDel (arrOf d c).recs k
      active := if (arrOf d c).active.map (·.slot) = some k then none else (arrOf d c).active }
    vecs := tabPut d.vecs c ⟨(vecOf d c).q, if ((vecOf d c).run.map (·.q.slot)) = some k then none else (vecOf d c).run⟩
    lathes := tabPut d.lathes c ⟨(latheOf d c).q, if ((latheOf d c).run.map (·.q.slot)) = some k then none else (latheOf d c).run⟩
    mems := tabDel d.mems (.vreg c k)
    bad := tabDel d.bad (.vreg c k)
    slots := tabPut d.slots (c, k) { Slot.empty with epoch := x.epoch }
    tasks := tabPut d.tasks (x.part, x.tid) { t with
      st := .suspended
      core := none
      image := some (slotImage d c k) } }

/-- The module with the longest pre-emption of partition `p` kept, after one of `cycles`. -/
def preemptMax (d : Dev) (p : PartId) (cycles : Nat) : Dev :=
  if decide (ctrOf d .SCHED_PREEMPT_MAX p.val < cycles) && counting d .SCHED_PREEMPT_MAX p.val then
    { d with ctrs := tabPut d.ctrs ⟨.SCHED_PREEMPT_MAX, p.val, 0⟩ (BitVec.ofNat 64 cycles) } else d

/-- Whether a counter counts lies in the registers alone. -/
theorem counting_congr {d e : Dev} (h : e.regs = d.regs) (n : CtrName) (u : Nat) : counting e n u = counting d n u := by
  simp only [counting, regOf, h]

/-- The longest pre-emption, judged in a module with the same registers and counters. -/
theorem run_preemptMax {d e : Dev} (hregs : e.regs = d.regs) (hctrs : e.ctrs = d.ctrs) (p : PartId) (cycles : Nat) (k : Unit → Prog) :
    Prog.run (onlyIf (decide (ctrOf d .SCHED_PREEMPT_MAX p.val < cycles) && counting d .SCHED_PREEMPT_MAX p.val)
      (gauge .SCHED_PREEMPT_MAX p.val cycles) k) e = Prog.run (k ()) (preemptMax e p cycles) := by
  rw [run_onlyIf, run_gauge, preemptMax, counting_congr hregs, ctrOf, ctrOf, hctrs]
  split <;> rfl

/-- STATE_IMAGE_SAVED of a SAVING slot none of whose commands stands inside a row, and whose PASS has fed (R73, R91, R401). -/
theorem stateImageSaved_answers {s : State} {c : CoreId} {k : SlotId} {t : Task} (ha : awake s.dev = true) (hst : (slotOf s.dev c k).st = .saving)
    (hrows : ((slotRuns s.dev c k).all fun r => r.stall.isNone) = true) (hfed : ((arrOf s.dev c).run.map fun r => r.q.slot) ≠ some k)
    (htask : taskOf s.dev (slotOf s.dev c k).part (slotOf s.dev c k).tid = some t) (cycles : Nat) :
    Answers (.stateImageSaved c k cycles) s (preemptMax (imageSaved s.dev c k t) (slotOf s.dev c k).part cycles) := by
  have hmoving : (slotRuns s.dev c k).any (fun r => r.stall.isSome) = false := by
    rw [List.any_eq_false]
    intro r hr
    simpa using List.all_eq_true.1 hrows r hr
  have hsaves : ¬ ((slotOf s.dev c k).st ≠ .saving ∨ (slotRuns s.dev c k).any (fun r => r.stall.isSome) = true ∨
      ((arrOf s.dev c).run.map fun r => r.q.slot) = some k) := by
    simp [hst, hmoving, hfed]
  refine answers_of_runAct (m := doSaved c k cycles) rfl ha ?_
  rw [runAct_def, doSaved, run_bind, run_look]
  refine (run_else hsaves _ _).trans ?_
  simp only [htask, run_bind, run_grant Nat.one_ne_zero, run_emit, run_onSome_some, apply_part, apply_arr, apply_vec, apply_lathe, apply_drop, apply_slot,
    apply_task_some]
  exact run_preemptMax (d := s.dev) (e := imageSaved s.dev c k t) rfl rfl _ _ _

/-- Settles O27: the slot's image is saved, and the longest pre-emption kept. The image is a structure and the piles are not written: that is the model's
choice (log entry 113), where R401 puts it into the context area. -/
theorem stateImageSaves : Obligations.StateImageSaves :=
  fun _ _ _ cycles _ ha hst hrows hfed htask => stateImageSaved_answers ha hst hrows hfed htask cycles

end Sys2Proof.Proofs

/-! SUPPORT. Where firmware places a scratchpad window (R105, R112), and what the admin commands of allocations and windows answer once they have their
turn (R284, R311, R435). -/

namespace Sys2Proof.Proofs

open Sys2Proof.Machine Sys2Proof.Safety Sys2Proof.Laws

/-! Choices of firmware. -/

/-- Among candidates of which one fits, firmware finds one that fits, and has drawn one free value (log entry 2). -/
theorem runs_pick {α : Type} {ok : α → Bool} {xs : List α} (h : xs.any ok = true) (d : Dev) :
    ∃ x ∈ xs, ok x = true ∧ Runs (pick ok xs) d (some x) { d with freeAt := d.freeAt + 1 } := by
  let start := if xs.isEmpty then 0 else Config.freeValue d.freeAt % xs.length
  have hturn : ∀ x, x ∈ xs.drop start ++ xs.take start ↔ x ∈ xs := fun x => by
    rw [List.mem_append, or_comm, ← List.mem_append, List.take_append_drop]
  obtain ⟨y, hy, hok⟩ := List.any_eq_true.1 h
  cases hfind : (xs.drop start ++ xs.take start).find? ok with
  | none => exact absurd hok (List.find?_eq_none.1 hfind y ((hturn y).2 hy))
  | some x => exact ⟨x, (hturn x).1 (List.mem_of_find?_eq_some hfind), List.find?_some hfind, fun k => congrArg (fun o => Prog.run (k o) _) hfind⟩

/-- Where a core and a base fit, firmware finds a place, and has drawn two free values. -/
theorem runs_choosePlace {d : Dev} {n : Nat} {bases : List Nat} {cores : List CoreId} {ok : CoreId → Bool}
    (h : (cores.any fun c => ok c && coreFits d n bases false c) = true) :
    ∃ c ∈ cores, ∃ b ∈ bases, ok c = true ∧ slotsFit d c b n false = true ∧
      Runs (choosePlace n bases cores ok) d (some (c, b)) { d with freeAt := d.freeAt + 2 } := by
  obtain ⟨c, hc, hfits, hcore⟩ := runs_pick h d
  obtain ⟨hok, hbases⟩ := Bool.and_eq_true_iff.1 hfits
  obtain ⟨b, hb, hslots, hbase⟩ := runs_pick hbases { d with freeAt := d.freeAt + 1 }
  refine ⟨c, hc, b, hb, hok, hslots, fun k => ?_⟩
  rw [choosePlace, run_bind, run_look, run_bind, hcore, run_bind, hbase]
  rfl

/-- Slots that can be granted at once can be granted to one that may wait. -/
theorem slotsFit_waits {d : Dev} {c : CoreId} {base n : Nat} (h : slotsFit d c base n false = true) : slotsFit d c base n true = true := by
  simp only [slotsFit, Bool.and_eq_true, decide_eq_true_eq, List.all_eq_true, Bool.not_eq_true', List.any_eq_false, Bool.false_and, Bool.not_false,
    Bool.and_true, Bool.true_and, Bool.true_or] at h ⊢
  obtain ⟨hroom, hfree⟩ := h
  exact ⟨hroom, fun i hi w hw => fun hheld => (hfree i hi).1 w hw hheld.1⟩

theorem coreFits_waits {d : Dev} {n : Nat} {bases : List Nat} {c : CoreId} (h : coreFits d n bases false c = true) : coreFits d n bases true c = true := by
  obtain ⟨b, hb, hfits⟩ := List.any_eq_true.1 h
  exact List.any_eq_true.2 ⟨b, hb, slotsFit_waits hfits⟩

/-- A core that fits at once is a core that fits a grant that may wait, whatever else is asked of it. -/
theorem any_coreFits_waits {d : Dev} {n : Nat} {bases : List Nat} {cores : List CoreId} {ok : CoreId → Bool}
    (h : (cores.any fun c => ok c && coreFits d n bases false c) = true) : (cores.any fun c => ok c && coreFits d n bases true c) = true := by
  obtain ⟨c, hc, hfits⟩ := List.any_eq_true.1 h
  obtain ⟨hok, hbases⟩ := Bool.and_eq_true_iff.1 hfits
  exact List.any_eq_true.2 ⟨c, hc, Bool.and_eq_true_iff.2 ⟨hok, coreFits_waits hbases⟩⟩

/-- The greatest identifier, as `freshId` finds it, is at least what it starts from and each window's. -/
theorem le_foldl_max_id (ws : List Window) :
    ∀ m : Nat, m ≤ ws.foldl (fun m w => max m w.id) m ∧ ∀ w ∈ ws, w.id ≤ ws.foldl (fun m w => max m w.id) m := by
  induction ws with
  | nil => simp
  | cons v ws ih =>
    intro m
    obtain ⟨hm, hws⟩ := ih (max m v.id)
    refine ⟨(le_max_left _ _).trans hm, fun w hw => ?_⟩
    obtain rfl | hw := List.mem_cons.1 hw
    · exact (le_max_right _ _).trans hm
    · exact hws w hw

/-- A fresh identifier is no window's. -/
theorem ne_freshId {d : Dev} {w : Window} (hw : w ∈ d.wins) (n : Nat) : w.id ≠ freshId d n := by
  unfold freshId
  split
  case isTrue hn =>
    obtain ⟨-, hall⟩ := hn
    simpa using List.all_eq_true.1 hall w hw
  case isFalse => exact Nat.ne_of_lt (Nat.lt_succ_of_le ((le_foldl_max_id d.wins 0).2 w hw))

/-! Admin commands of memory and windows. -/

/-- An admin command that has its turn, and whose body comes to an action from module `d'` and then leaves its completion for later, is taken (R434). -/
theorem admin_later_answers {s : State} {f : FnId} {host e b : List Byte} {d d' : Dev} (h : AdminTurn s.dev f host e b d) {i : Instr} {mine : List Byte → Bool}
    {body : FnId → PartId → Nat → List Byte → Act Reply} (he : exec i s = after (adminCmd f mine host body) s) (hm : mine e = true) (m : Act Unit)
    (hb : ∀ k, Prog.run (body f (Fin.ofNat 16 (cmdPart e)) (cmdTag e) b k) d = Prog.run (m fun _ => k .later) d') :
    Answers i s (runAct (do
      m
      adminTaken f) d') := by
  rw [Answers, admin_run h he hm, hb]
  rfl

/-! ALLOC (R311–R316, R601). -/

/-- The hint word in ALLOC's block. -/
def allocHint (b : List Byte) : Nat := fieldAt b 0 4

/-- The tier-2 or tier-3 target in ALLOC's block. -/
def allocTarget (b : List Byte) : Nat := fieldAt b 4 2

/-- The size in ALLOC's block. -/
def allocBytes (b : List Byte) : Nat := fieldAt b 8 8

/-- The address that ALLOC's block asks for, 0 for any. -/
def allocWant (b : List Byte) : Nat := fieldAt b 0x10 8

/-- What ALLOC comes to once its address and its offset are chosen: `pools` bounds the pool frames that the pool list then names (R311, R312). -/
def allocAt (p : PartId) (b : List Byte) (pools va off : Nat) : Act Reply := do
  let st0 ← (if hintComp (allocHint b) then fwPages p 2 0 (min 8 (ceilDiv (8 * pools) 65536)) else pure 0)
  let st ← (if st0 = 0 then grantAlloc p va (allocBytes b) (allocHint b) (allocTarget b) off 0 else pure st0)
  if st ≠ 0 then refuse st
  else do
    onlyIf (hintComp (allocHint b)) (writePoolList p)
    reply va

/-- How many pool frames a partition's pool list may come to name with ALLOC's, and 8 more (R312). -/
def allocPools (d : Dev) (p : PartId) (b : List Byte) : Nat :=
  ((partOf d p).allocs.flatMap fun (a : Alloc) => a.pool).length + poolFrames (bitsOf (allocHint b) 23 20) (allocBytes b / hintPage (allocHint b)) + 8

/-- ALLOC's block asks for whole pages that a hint in range allows, within the partition's addresses, on piles that are up (R310, R311). -/
structure AllocAsked (d : Dev) (p : PartId) (b : List Byte) : Prop where
  hint : hintOk (allocHint b) = true
  bytes : allocBytes b ≠ 0
  pages : allocBytes b % hintPage (allocHint b) = 0
  align : allocWant b % hintPage (allocHint b) = 0
  space : allocWant b + allocBytes b ≤ 2 ^ 48
  piles : allocWaits d p (allocHint b) = false

section
variable {f : FnId} {d : Dev} {p : PartId} {b : List Byte} (hask : AllocAsked d p b)
include hask

/-- Such a block is in range, with a target that its tier has. -/
theorem AllocAsked.inRange (htarget : allocTarget b ≤ 4095) (hlocal : hintTier (allocHint b) = 1 → allocTarget b = 0) :
    ¬ ((!hintOk (allocHint b)) = true ∨ allocBytes b = 0 ∨ allocBytes b % hintPage (allocHint b) ≠ 0 ∨ allocWant b % hintPage (allocHint b) ≠ 0 ∨
      2 ^ 48 < allocWant b + allocBytes b ∨ (hintTier (allocHint b) = 1 ∧ allocTarget b ≠ 0) ∨ 4095 < allocTarget b) := by
  rintro (h | h | h | h | h | ⟨htier, h⟩ | h)
  · rw [hask.hint] at h
    exact Bool.false_ne_true h
  · exact hask.bytes h
  · exact h hask.pages
  · exact h hask.align
  · exact absurd hask.space (not_le.2 h)
  · exact h (hlocal htier)
  · exact absurd htarget (not_le.2 h)

/-- ALLOC of what a hint allows, whose target record fits its tier, with an address that is free and an offset. -/
theorem run_doAlloc {r : Option (List Byte)} {va off : Nat} {d1 d2 d3 : Dev} (htarget : allocTarget b ≤ 4095)
    (hlocal : hintTier (allocHint b) = 1 → allocTarget b = 0) (hfeature : hintTier (allocHint b) = 3 → hasFeat d f 22 = true)
    (hrecord : Runs (if hintTier (allocHint b) = 1 then pure none else liveRecord p (allocTarget b)) d r d1)
    (hfits : hintTier (allocHint b) ≠ 1 → (r.map (recordFits d1 p (hintTier (allocHint b)))).getD false = true)
    (hfree : allocWant b ≠ 0 → vaFree d1 p (allocWant b) (allocBytes b) = true)
    (hva : Runs (if allocWant b = 0 then chooseVa p (allocBytes b) (hintPage (allocHint b)) else pure (some (allocWant b))) d1 (some va) d2)
    (hoff : Runs (if hintTier (allocHint b) = 1 then pure (some 0) else chooseOff p (allocTarget b) (allocBytes b) (allocHint b)) d2 (some off) d3)
    (tag : Nat) (k : Reply → Prog) :
    Prog.run (doAlloc f p tag b k) d = Prog.run (allocAt p b (allocPools d1 p b) va off k) d3 := by
  have hoffered : ¬ (hintTier (allocHint b) = 3 ∧ (!hasFeat d f 22) = true) := by
    rintro ⟨htier, hnone⟩
    rw [hfeature htier] at hnone
    exact Bool.false_ne_true hnone
  have hvalid : ¬ (hintTier (allocHint b) ≠ 1 ∧ (!((r.map (recordFits d1 p (hintTier (allocHint b)))).getD false)) = true) := by
    rintro ⟨htier, hbad⟩
    rw [hfits htier] at hbad
    exact Bool.false_ne_true hbad
  have hroom : ¬ (allocWant b ≠ 0 ∧ (!vaFree d1 p (allocWant b) (allocBytes b)) = true) := by
    rintro ⟨hwant, hheld⟩
    rw [hfree hwant] at hheld
    exact Bool.false_ne_true hheld
  rw [doAlloc, run_bind, run_look]
  refine (run_else (hask.inRange htarget hlocal) _ _).trans ?_
  refine (run_else hoffered _ _).trans ?_
  refine (run_else (Bool.not_eq_true _ ▸ hask.piles) _ _).trans ?_
  refine (hrecord _).trans ?_
  refine (run_else hvalid _ _).trans ?_
  refine (run_else hroom _ _).trans ?_
  refine (hva _).trans ?_
  exact hoff _

end

section
variable {s : State} {f : FnId} {e b : List Byte} {d : Dev} {p : PartId} (h : AdminTurn s.dev f [] e b d) (hp : Fin.ofNat 16 (cmdPart e) = p)
include h hp

section
variable (hop : cmdOp e = 7) (hask : AllocAsked d p b)
include hop hask

/-- ALLOC in the piles, not compressed, at a given address that is free: granted and answered (R311). -/
theorem alloc_plain_answers (htier : hintTier (allocHint b) = 1) (hcomp : hintComp (allocHint b) = false) (htarget : allocTarget b = 0)
    (hwant : allocWant b ≠ 0) (hfree : vaFree d p (allocWant b) (allocBytes b) = true) :
    Answers (.alloc f) s (runAct (do
      let st ← grantAlloc p (allocWant b) (allocBytes b) (allocHint b) 0 0 0
      adminAnswer f e st (if st = 0 then allocWant b else 0)) d) := by
  subst hp
  have hat := run_doAlloc (f := f) hask (d1 := d) (d2 := d) (d3 := d) (r := none) (va := allocWant b) (off := 0) (by omega) (fun _ => htarget)
    (fun hother => by omega) (by rw [if_pos htier]; exact runs_pure _ _) (fun hother => absurd htier hother) (fun _ => hfree)
    (by rw [if_neg hwant]; exact runs_pure _ _) (by rw [if_pos htier]; exact runs_pure _ _)
  rw [Answers, admin_run (body := doAlloc) h rfl (by simp [isOp, hop]), hat, allocAt, hcomp, htarget]
  congr 3
  refine congrArg (Prog.run · d) (congrArg (grantAlloc _ _ _ _ 0 0 0) (funext fun st => ?_))
  by_cases hst : st = 0
  · subst hst
    rfl
  · refine (congrFun (if_pos hst) _).trans ?_
    beta_reduce
    rw [if_neg hst]
    rfl

/-- ALLOC granted (R311–R316): the pool list is written for a compressed one, and the address answered. -/
theorem alloc_granted_answers {r : Option (List Byte)} {va off : Nat} {d1 d2 d3 d4 d5 : Dev} (htarget : allocTarget b ≤ 4095)
    (hlocal : hintTier (allocHint b) = 1 → allocTarget b = 0) (hfeature : hintTier (allocHint b) = 3 → hasFeat d f 22 = true)
    (hrecord : Runs (if hintTier (allocHint b) = 1 then pure none else liveRecord p (allocTarget b)) d r d1)
    (hfits : hintTier (allocHint b) ≠ 1 → (r.map (recordFits d1 p (hintTier (allocHint b)))).getD false = true)
    (hfree : allocWant b ≠ 0 → vaFree d1 p (allocWant b) (allocBytes b) = true)
    (hva : Runs (if allocWant b = 0 then chooseVa p (allocBytes b) (hintPage (allocHint b)) else pure (some (allocWant b)))
      d1 (some va) d2)
    (hoff : Runs (if hintTier (allocHint b) = 1 then pure (some 0)
      else chooseOff p (allocTarget b) (allocBytes b) (allocHint b)) d2 (some off) d3)
    (hpages : Runs (if hintComp (allocHint b) then fwPages p 2 0
      (min 8 (ceilDiv (8 * allocPools d1 p b) 65536)) else pure 0) d3 0 d4)
    (hgrant : Runs (grantAlloc p va (allocBytes b) (allocHint b) (allocTarget b) off 0) d4 0 d5) :
    Answers (.alloc f) s (runAct (do
      onlyIf (hintComp (allocHint b)) (writePoolList p)
      adminAnswer f e 0 va) d5) := by
  subst hp
  refine admin_answers (body := doAlloc) h rfl (by simp [isOp, hop]) _ fun k => ?_
  rw [run_doAlloc hask htarget hlocal hfeature hrecord hfits hfree hva hoff, allocAt, run_bind, hpages, if_pos rfl, run_bind, hgrant]
  rfl

end

/-- FREE of an allocation of the job that holds no ring in use (R301, R349). -/
theorem free_answers {a : Alloc} (hop : cmdOp e = 8)
    (ha : ((partOf d p).allocs.find? fun (a : Alloc) => a.owner == 0 && a.va == fieldAt b 0 8 && a.bytes != 0) = some a)
    (hrings : (d.chans.all fun ic => !(ic.2.part == p && ic.2.st != .free && meets ic.2.ring ic.2.ringBytes a.va a.bytes)) = true) :
    Answers (.free f) s (runAct (do
      freeAlloc p a
      adminAnswer f e 0 0) d) := by
  subst hp
  refine admin_answers (body := doFree) h rfl (by simp [isOp, hop]) _ fun k => ?_
  rw [doFree, run_bind, run_look, ha]
  refine (run_else ?_ _ _).trans rfl
  rw [List.any_eq_not_all_not, hrings]
  exact Bool.false_ne_true

/-- INVALIDATE of whole 64 KiB to which no access is in flight (R284). -/
theorem invalidate_answers (hop : cmdOp e = 9) (hva : fieldAt b 0 8 % 65536 = 0) (hbytes : fieldAt b 8 8 % 65536 = 0)
    (hquiet : rangeFlying d p (fieldAt b 0 8) (fieldAt b 8 8) = false) :
    Answers (.invalidate f) s (runAct (adminAnswer f e 0 0) d) := by
  subst hp
  refine admin_answers (body := doInvalidate) h rfl (by simp [isOp, hop]) (pure ()) fun k => ?_
  rw [doInvalidate, run_bind, run_look, if_neg (by omega), hquiet]
  rfl

/-- WINDOW_GRANT where a core and a base that it allows are free: a window with a fresh identifier there (R105). -/
theorem windowGrant_answers (hop : cmdOp e = 0xA) (hsome : fieldAt b 2 1 ≠ 0) (hmost : fieldAt b 2 1 ≤ 64)
    (hbase : fieldAt b 3 1 ≤ 63 ∨ fieldAt b 3 1 = 0xFF) (hrun : (partOf d p).running = true)
    (hfits : (coreList d p (fieldAt b 0 2)).any (coreFits d (fieldAt b 2 1) (baseList (fieldAt b 3 1)) false) = true) :
    ∃ c ∈ coreList d p (fieldAt b 0 2), ∃ at_ ∈ baseList (fieldAt b 3 1), ∃ id,
      slotsFit d c at_ (fieldAt b 2 1) false = true ∧ (∀ w ∈ d.wins, w.id ≠ id) ∧ Answers (.windowGrant f) s (runAct (do
        grant 3 (fieldAt b 2 1)
        wakeCore c
        adminAnswer f e 0 id) { d with
          freeAt := d.freeAt + 3
          wins := d.wins ++ [⟨id, p, c, at_, fieldAt b 2 1, false, .granted, 0, false, 0, 0, none, []⟩] }) := by
  subst hp
  obtain ⟨c, hc, at_, hat, -, hslots, hplace⟩ := runs_choosePlace (ok := fun _ => true) hfits
  have hallowed := any_coreFits_waits (ok := fun _ => true) hfits
  have hcores := List.isEmpty_eq_false_iff.2 (List.ne_nil_of_mem hc)
  refine ⟨c, hc, at_, hat, freshId d (Config.freeValue (d.freeAt + 2)), hslots, fun w hw => ne_freshId hw _,
    admin_answers (body := doWindowGrant) h rfl (by simp [isOp, hop]) (do
      grant 3 (fieldAt b 2 1)
      wakeCore c) fun k => ?_⟩
  simp only [Bool.true_and] at hallowed
  rw [doWindowGrant, run_bind, run_look]
  dsimp only
  rw [if_neg (by simp only [hcores, Bool.false_eq_true, and_false, or_false]; omega), hrun, hallowed]
  exact hplace _

/-- WINDOW_RELEASE of a window of the partition: it is to be released, and what can go on does (R105, R110). -/
theorem windowRelease_answers {w : Window} (hop : cmdOp e = 0xB) (hw : windowBy d p (fieldAt b 0 4) = some w) :
    Answers (.windowRelease f) s (runAct (do
      winProgress
      adminAnswer f e 0 0) { d with wins := d.wins.map fun x => if x = w then { x with release := true } else x }) := by
  subst hp
  refine admin_answers (body := doWindowRelease) h rfl (by simp [isOp, hop]) _ fun k => ?_
  rw [doWindowRelease, run_bind, run_look, hw]
  rfl

/-- EVICT of a granted window that holds no accumulator of an open step, to an area that fits it: the eviction starts (R108). -/
theorem evict_answers {w : Window} (hop : cmdOp e = 0xC) (hw : windowBy d p (fieldAt b 0 4) = some w) (hst : w.st = .granted)
    (hacc : ((partOf d p).step.isSome && holdsAccumulator d p w) = false)
    (harea : areaOk d p (fieldAt b 8 8) (w.size * 65536 + w.size * 4096) = true) :
    Answers (.evict f) s (runAct (do
      startEvict w (fieldAt b 8 8) (some (f, cmdTag e))
      adminTaken f) d) := by
  subst hp
  refine admin_later_answers (body := doEvict) h rfl (by simp [isOp, hop]) _ fun k => ?_
  rw [doEvict, run_bind, run_look, hw]
  dsimp only
  rw [if_neg (not_not_intro hst), hacc, harea]
  rfl

/-- RESTORE of an evicted window to a core and a base that it allows and that are free: the restore starts (R109). -/
theorem restore_answers {w : Window} (hop : cmdOp e = 0xD) (hw : windowBy d p (fieldAt b 0 4) = some w)
    (hbase : fieldAt b 6 1 ≤ 63 ∨ fieldAt b 6 1 = 0xFF)
    (hplaced : (partOf d p).expert = true ∨ fieldAt b 4 2 = 0xFFFF ∧ fieldAt b 6 1 = 0xFF) (hst : w.st = .evicted)
    (hfits : ((coreList d p (fieldAt b 4 2)).any fun c =>
      streamsMove d w c && coreFits d w.size (baseList (fieldAt b 6 1)) false c) = true) :
    ∃ c ∈ coreList d p (fieldAt b 4 2), ∃ at_ ∈ baseList (fieldAt b 6 1), streamsMove d w c = true ∧
      slotsFit d c at_ w.size false = true ∧ Answers (.restore f) s (runAct (do
        grant 3 w.size
        wakeCore c
        adminTaken f) { d with
          freeAt := d.freeAt + 2
          wins := d.wins.map fun x => if x = w then { x with
            st := .restoring
            newCore := c
            newBase := at_
            who := some (f, cmdTag e) } else x }) := by
  obtain ⟨c, hc, at_, hat, hmove, hslots, hplace⟩ := runs_choosePlace hfits
  have hallowed := any_coreFits_waits hfits
  have hcores := List.isEmpty_eq_false_iff.2 (List.ne_nil_of_mem hc)
  have hexpert : ¬ ((!(partOf d p).expert) = true ∧ (fieldAt b 4 2 ≠ 0xFFFF ∨ fieldAt b 6 1 ≠ 0xFF)) := by
    rintro ⟨hbasic, hchosen⟩
    obtain hx | ⟨hcore, hany⟩ := hplaced
    · rw [hx] at hbasic
      exact Bool.false_ne_true hbasic
    · omega
  subst hp
  refine ⟨c, hc, at_, hat, hmove, hslots, admin_later_answers (body := doRestore) h rfl (by simp [isOp, hop]) (do
      grant 3 w.size
      wakeCore c) fun k => ?_⟩
  rw [doRestore, run_bind, run_look, hw]
  dsimp only
  rw [if_neg (by simp only [hcores, Bool.false_eq_true, and_false, or_false]; omega), if_neg hexpert, if_neg (not_not_intro hst), hallowed]
  exact hplace _

end

/-- Settles O39: each command has its turn with a block that its checks let pass. -/
theorem adminMemoryCommands : Obligations.AdminMemoryCommands := by
  intro s f e b d h
  refine ⟨fun hop hhint hbytes hpages halign hspace hpiles => ⟨?plain, ?granted⟩, fun _ => free_answers h rfl, invalidate_answers h rfl,
    windowGrant_answers h rfl,
    fun w hw => ⟨fun hop => windowRelease_answers h rfl hop hw, fun hop => evict_answers h rfl hop hw, fun hop => restore_answers h rfl hop hw⟩⟩
  case plain => exact alloc_plain_answers h rfl hop ⟨hhint, hbytes, hpages, halign, hspace, hpiles⟩
  case granted =>
    intro r d1 va d2 off d3 d4 d5 htarget hlocal hfeature hrecord hfits hfree hva hoff
    exact alloc_granted_answers h rfl hop ⟨hhint, hbytes, hpages, halign, hspace, hpiles⟩ htarget hlocal hfeature hrecord hfits hfree hva hoff

end Sys2Proof.Proofs

/-! SUPPORT. How an eviction, a restore and a scrub of scratchpad slots complete (R108–R111). -/

namespace Sys2Proof.Proofs

open Sys2Proof.Machine Sys2Proof.Safety Sys2Proof.Laws

section
variable {s : State} (ha : awake s.dev = true)
include ha

/-- EVICTION_COMPLETE of an evicting window whose tasks are out, with nothing in flight for it, once its image is written: its streams leave, its slots go to the
scrub, and the command that waits for it is answered (R108, R183). -/
theorem evictionComplete_answers {id : Word} {w : Window} {d : Dev} (hw : (s.dev.wins.find? fun w => w.id == id.toNat && !w.arena && w.st == .evicting) = some w)
    (hout : (windowTasks s.dev w).all (fun t => t.core.isNone) = true) (hquiet : windowFlying s.dev w.core (w.base * 65536) (w.size * 65536) = false)
    (hsent : windowSends s.dev w = false)
    (hwrite : Runs (vaWrite (envOf s.dev w.part) w.part {} w.area (windowImage s.dev w).1 (windowImage s.dev w).2) s.dev (.ok ()) d) :
    Answers (.evictionComplete id) s (runAct (do
      let xs ← takeStreams w.core (w.base * 65536) (w.size * 65536)
      updWins fun ws => ws.map fun x => if x = w then { x with
        st := .evicted
        strms := xs
        who := none } else x
      startScrub w.core w.base w.size
      tellWindow w 0) d) := by
  refine answers_of_runAct (m := doEvictDone id.toNat) rfl ha ?_
  rw [runAct_def, doEvictDone, guarded, run_bind, run_look, run_onlyIf, if_pos ha, run_bind, run_look, hw, run_onSome_some, run_onlyIf, hout, hquiet, hsent]
  exact hwrite _

/-- RESTORE_COMPLETE of a restoring window whose new core is ON and has its streams free, once its image is read: the image is put back, the streams and the tasks
move, and the command that waits for it is answered (R109). -/
theorem restoreComplete_answers {id : Word} {w : Window} {d : Dev} {bs : List Byte} {bad : List Nat}
    (hw : (s.dev.wins.find? fun w => w.id == id.toNat && !w.arena && w.st == .restoring) = some w) (hon : domOf s.dev (w.newCore.val / 25) = .on)
    (hmove : streamsMove s.dev w w.newCore = true)
    (hread : Runs (vaRead (envOf s.dev w.part) w.part {} w.area (w.size * 65536 + w.size * 4096)) s.dev (.ok (bs, bad)) d) :
    Answers (.restoreComplete id) s (runAct (do
      putImage (.spad w.newCore) (w.newBase * 65536) (bs.take (w.size * 65536)) (bad.filter fun i => decide (i < w.size * 65536 / 8))
      putImage (.chuck w.newCore) (w.newBase * 4096) (bs.drop (w.size * 65536))
        ((bad.filter fun i => decide (w.size * 65536 / 8 ≤ i)).map (· - w.size * 65536 / 8))
      putStreams w.newCore (w.base * 65536) (w.newBase * 65536) w.strms
      moveTasks w
      updWins fun ws => ws.map fun x => if x = w then { x with
        st := .granted
        core := w.newCore
        base := w.newBase
        strms := []
        who := none } else x
      tellWindow w 0) d) := by
  refine answers_of_runAct (m := doRestoreDone id.toNat) rfl ha ?_
  rw [runAct_def, doRestoreDone, guarded, run_bind, run_look, run_onlyIf, if_pos ha, run_bind, run_look, hw, run_onSome_some, run_onlyIf, hon, hmove]
  exact hread _

/-- The scrub of slots `first` to `first + n - 1` of core `c` (R111): they and their chuck share are zero with fresh parity, the marks of what was
not initialised go, and the grants that return with them do. -/
def scrubSlots (d : Dev) (c : CoreId) (first n waits : Nat) : Act Unit := do
  count .CORE_FREEZE_BANK c.val waits
  emit (.zero (.spad c) (first * 65536) (n * 65536))
  clearBad (.spad c) (first * 65536) (n * 65536)
  emit (.zero (.chuck c) (first * 4096) (n * 4096))
  clearBad (.chuck c) (first * 4096) (n * 4096)
  onlyIf ((dbgOf d c.val).marks.any fun m => decide (first * 8192 ≤ m.1) && decide (m.1 < (first + n) * 8192))
    (updDbg c.val fun x => { x with marks := x.marks.filter fun m => !(decide (first * 8192 ≤ m.1) && decide (m.1 < (first + n) * 8192)) })
  emit (.scrubs c ((tabGet d.scrubs c []).filter fun x => !(decide (first ≤ x) && decide (x < first + n))))
  giveBack 3 ((tabGet d.scrubs c []).filter fun x => decide (first ≤ x) && decide (x < first + n)).length

/-- SCRUB_COMPLETE of slots that are all in the scrub, on a core that is ON (R111). -/
theorem scrubComplete_answers {c : CoreId} {first n : Nat} (hlisted : ((List.range n).all fun i => inScrub s.dev c (first + i)) = true)
    (hon : domOf s.dev (c.val / 25) = .on) (waits : Nat) :
    Answers (.scrubComplete c first ⟨n, waits⟩) s (runAct (scrubSlots s.dev c first n waits) s.dev) := by
  refine answers_of_runAct (m := doScrubDone c first n waits) rfl ha ?_
  rw [runAct_def, doScrubDone, guarded, run_bind, run_look, run_onlyIf, if_pos ha, run_bind, run_look]
  dsimp only
  rw [run_onlyIf, if_pos hlisted, if_neg (not_not_intro hon)]
  rfl

end

/-- Settles O41: each completion by its own lemma. -/
theorem windowCompletions : Obligations.WindowCompletions := fun _ ha =>
  ⟨fun _ _ _ => evictionComplete_answers ha, fun _ _ _ _ _ => restoreComplete_answers ha, fun _ _ _ waits hlisted hon =>
    scrubComplete_answers ha hlisted hon waits⟩

end Sys2Proof.Proofs

/-! SUPPORT. How a command of the vector engine, an UPDATE, a LATHE and a load of a function table end (R126–R131, R138, R147, R259). -/

namespace Sys2Proof.Proofs

open Sys2Proof.Machine Sys2Proof.Safety Sys2Proof.Laws

@[simp] theorem run_setVecRun (c : CoreId) (r : Option Run) (k : Unit → Prog) (d : Dev) :
    Prog.run (setVecRun c r k) d = Prog.run (k ()) { d with vecs := tabPut d.vecs c { vecOf d c with run := r } } := rfl

@[simp] theorem run_setLatheRun (c : CoreId) (r : Option Run) (k : Unit → Prog) (d : Dev) :
    Prog.run (setLatheRun c r k) d = Prog.run (k ()) { d with lathes := tabPut d.lathes c { latheOf d c with run := r } } := rfl

/-- What the end of a load from `va` of partition `p` makes of a function slot, by what was read there (R128, R130, R147). -/
def loadedTab (t : FTab) (va : Nat) (p : PartId) : Option (List Byte) → FTab
  | some img => if imageOk img then { t with
      valid := true
      image := img
      src := some (va, p)
      loading := none } else failedTab t
  | none => failedTab t

section
variable {s : State} {c : CoreId} (ha : awake s.dev = true)
include ha

section
variable {r : Run}

/-- The last step of the running VOP or FUNC: the vector engine stands free and the command finishes (R126). -/
theorem vectorCommandComplete_answers (hrun : (vecOf s.dev c).run = some r) (hop : r.q.cmd % 256 ≠ 0x84) (hdone : vecDone r = true) :
    Answers (.vectorCommandComplete c) s (runAct (finishCmd c r.q.slot r.q.seq (vopF r.q.cmd).ctr)
      { s.dev with vecs := tabPut s.dev.vecs c { vecOf s.dev c with run := none } }) := by
  refine answers_of_runAct (m := doVecDone c) rfl ha ?_
  rw [runAct_def, doVecDone, run_bind, run_look, hrun, run_onSome_some, run_onlyIf, bne_iff_ne.2 hop, hdone, Bool.and_self, if_pos rfl, run_bind, run_setVecRun]
  rfl

/-- The last step of the running UPDATE: the vector engine stands free and the command finishes (R259). -/
theorem updateComplete_answers (hrun : (vecOf s.dev c).run = some r) (hop : r.q.cmd % 256 = 0x84) (hdone : updDone r = true) :
    Answers (.updateComplete c) s (runAct (finishCmd c r.q.slot r.q.seq (if bitOf r.q.cmd 16 then some (bitsOf r.q.cmd 21 17) else none))
      { s.dev with vecs := tabPut s.dev.vecs c { vecOf s.dev c with run := none } }) := by
  refine answers_of_runAct (m := doUpdDone c) rfl ha ?_
  rw [runAct_def, doUpdDone, run_bind, run_look, hrun, run_onSome_some, run_onlyIf, beq_iff_eq.2 hop, hdone, Bool.and_self, if_pos rfl, run_bind, run_setVecRun]
  rfl

/-- The last row of the running LATHE: the lathe stands free and the command finishes (R138). -/
theorem latheCommandComplete_answers (hrun : (latheOf s.dev c).run = some r) (hdone : latheDone r = true) :
    Answers (.latheCommandComplete c) s (runAct (finishCmd c r.q.slot r.q.seq (latheF r.q.cmd).ctr)
      { s.dev with lathes := tabPut s.dev.lathes c { latheOf s.dev c with run := none } }) := by
  refine answers_of_runAct (m := doLatheDone c) rfl ha ?_
  rw [runAct_def, doLatheDone, run_bind, run_look, hrun, run_onSome_some, run_onlyIf, if_pos hdone, run_bind, run_setLatheRun]
  rfl

end

/-- The load of a function slot that no running command uses, on a core that is ON, ends: the slot is what the bytes read make of it (R128, R131, R147). -/
theorem functionTableLoadDone_answers {i : Fin 16} {va : Nat} {p : PartId} {r : Option (List Byte)} {e : Dev}
    (hload : (ftabOf s.dev c i.val).loading = some (va, p)) (hfree : tableFree s.dev c i.val = true) (hon : domOf s.dev (c.val / 25) = .on)
    (hread : Runs (vaBytes (envOf s.dev p) p va 6208) s.dev r e) :
    Answers (.functionTableLoadDone c i) s { e with ftabs := tabPut e.ftabs (c, i.val) (loadedTab (ftabOf s.dev c i.val) va p r) } := by
  refine answers_of_runAct (m := do doFtabDone (envOf (← look)) c i.val) rfl ha ?_
  rw [runAct_def, run_bind, run_look, doFtabDone, run_bind, run_look, hload, run_onSome_some, run_onlyIf, hfree, hon, if_pos (by rfl), run_bind, hread]
  cases r with
  | none => rfl
  | some img =>
    cases hok : imageOk img <;> simp only [loadedTab, hok] <;> rfl

end

/-- Settles O22: each end by its own lemma. -/
theorem engineCompletions : Obligations.EngineCompletions :=
  ⟨fun _ _ _ ha => ⟨vectorCommandComplete_answers ha, updateComplete_answers ha, latheCommandComplete_answers ha⟩,
    fun _ _ _ _ _ _ _ ha => functionTableLoadDone_answers ha⟩

end Sys2Proof.Proofs

/-! SUPPORT. The commands of the stream engine: how they enter its queue, and what the engine makes of one that it takes (R89, R153, R156–R158, R169–R172). -/

namespace Sys2Proof.Proofs

open Sys2Proof.Machine Sys2Proof.Safety Sys2Proof.Laws

/-- The lowest byte of a number made of bytes is the first of them. -/
theorem leNat_cons_mod (b : Byte) (bs : List Byte) : leNat (b :: bs) % 256 = b.toNat := by
  rw [leNat, Nat.add_mul_mod_self_left, Nat.mod_eq_of_lt b.isLt]

theorem cmdLen_pos (opcode : Nat) : 0 < cmdLen opcode := by
  unfold cmdLen
  positivity

/-- The lowest byte of a command at a slot's position is its operation's opcode (R86). -/
theorem opOf_of_nextCmd {x : Slot} {op : Op} {len w : Nat} {again : Bool} (h : nextCmd x = .cmd op len w again) : opOf (w % 256) = some op := by
  unfold nextCmd at h
  split at h
  case h_1 v rest hredo =>
    split at h <;> cases h
    assumption
  case h_2 hredo =>
    iterate 2 (split at h; · cases h)
    next b rest hbuf =>
      dsimp only at h
      iterate 2 (split at h; · cases h)
      next op' hop =>
        iterate 3 (split at h; · cases h)
        split at h <;> cases h
        obtain ⟨n, hn⟩ := Nat.exists_eq_add_one.2 (cmdLen_pos b.toNat)
        rw [hbuf, hn, List.take_succ_cons, leNat_cons_mod, hop]

theorem opOf_of_takes {d : Dev} {c : CoreId} {k : SlotId} {op : Op} {len w : Nat} {again : Bool} (h : Takes d c k op len w again) :
    opOf (w % 256) = some op := by
  obtain ⟨-, hcmd⟩ := h
  exact opOf_of_nextCmd hcmd

/-! The queue. -/

/-- Behind no other command of the queue, the engine takes a cancel and a SARM at once, and any other once its stream runs (R89, R169–R172). -/
theorem canTake_first {d : Dev} {c : CoreId} {w : Nat} (h : opOf (w % 256) = some .sarm ∨ isCancel w = true ∨ streamIdle d c w = true) :
    canTake d c [] w = true := by
  obtain hop | hcancel | hidle := h
  · simp [canTake, hop]
  · simp [canTake, hcancel]
  · simp [canTake, hidle]

/-- The engine takes the only command of its queue. -/
theorem run_kickStrm_only {d : Dev} {c : CoreId} {q : Queued} (htake : canTake d c [] q.cmd = true) (n : Nat) (g : Unit → Prog) :
    Prog.run (kickStrm c (n + 1) g) { d with strmqs := tabPut d.strmqs c [q] } = Prog.run ((do actStrm c q; kickStrm c n) g) (tookStrm d c q) := by
  have hq : strmQ { d with strmqs := tabPut d.strmqs c [q] } c = [q] := tabGet_put_same ..
  have hfirst : firstTaken { d with strmqs := tabPut d.strmqs c [q] } c [] [q] = some q := if_pos htake
  rw [kickStrm, run_bind, run_look, hq, hfirst, run_onSome_some, run_bind, List.erase_cons_head]
  rfl

section
variable {s : State} {c : CoreId} {k : SlotId} {op : Op} {len w : Nat} {again : Bool} {parity : List ParityHit} {i : Instr} (ha : awake s.dev = true)
  {d : Dev} (hd : issued s.dev c k len again true = d) (ht : Takes s.dev c k op len w again)
  {want : Op → Nat → Bool} (he : exec i s = after (strmIssue want parity c k) s) (hwant : want op w = true)
include ha hd ht he hwant

/-- A command of the stream engine enters its queue, and the engine takes what it can (R89). -/
theorem strmIssue_answers :
    Answers i s (runAct (kickStrm c 8) { d with strmqs := tabPut d.strmqs c (strmQ d c ++ [strmCmd s.dev c k w parity]) }) := by
  refine answers_of_runAct he ha ?_
  rw [runAct_def, strmIssue, run_bind, run_issue ht hwant, hd]
  rfl

/-- A command that enters an empty queue and need not wait is taken at once (R89). -/
theorem strmIssue_taken_answers (hempty : strmQ s.dev c = []) (htake : canTake d c [] w = true) :
    Answers i s (runAct (do actStrm c (strmCmd s.dev c k w parity); kickStrm c 7) (tookStrm d c (strmCmd s.dev c k w parity))) := by
  have hnone : strmQ d c = [] := by
    rw [← hd, strmQ, issued_frame]
    exact hempty
  have htaken : runAct (kickStrm c 8) { d with strmqs := tabPut d.strmqs c [strmCmd s.dev c k w parity] } =
      runAct (do actStrm c (strmCmd s.dev c k w parity); kickStrm c 7) (tookStrm d c (strmCmd s.dev c k w parity)) :=
    run_kickStrm_only (q := strmCmd s.dev c k w parity) htake 7 _
  simpa only [hnone, List.nil_append, htaken] using strmIssue_answers ha hd ht he hwant

end

/-! What the engine does with a command it has taken. -/

section
variable {d : Dev} {c : CoreId} {k : SlotId} {w : Nat} {parity : List ParityHit}

theorem actStrm_sarm (hop : opOf (w % 256) = some .sarm) :
    actStrm c (strmCmd d c k w parity) = actSarm c k parity w (slotOf d c k).seq := by rw [actStrm, strmCmd, hop]

theorem actStrm_srearm (hop : opOf (w % 256) = some .srearm) :
    actStrm c (strmCmd d c k w parity) = actSrearm c k w (slotOf d c k).seq := by rw [actStrm, strmCmd, hop]

theorem actStrm_sdisarm (hop : opOf (w % 256) = some .sdisarm) :
    actStrm c (strmCmd d c k w parity) = actSdisarm c k w (slotOf d c k).seq := by rw [actStrm, strmCmd, hop]

end

section
variable {d : Dev} {c : CoreId} {k : SlotId} {w seq : Nat} (g : Unit → Prog)

/-- A SARM with sound fields, whose descriptor is read and passes its checks, arms its stream (R153, R156). -/
theorem run_actSarm {parity : List ParityHit} {y : StreamDesc} {e : Dev}
    (hparity : Runs (portParity c parity ((slotOf d c k).phys (bitsOf w 85 64)) 64) d () e)
    (hfields : bitsOf w 127 86 = 0 ∧ bitsOf w 85 64 % 64 = 0 ∧ bitsOf w 63 22 = 0 ∧ bitsOf w 15 12 = 0)
    (hwindow : (slotOf d c k).inWindow (bitsOf w 85 64) 64 = true) (hsound : badIn e (.spad c) ((slotOf d c k).phys (bitsOf w 85 64)) 64 = [])
    (hcheck : sarmCheck e c (slotOf d c k) (streamNo w) (bytesOf e (.spad c) ((slotOf d c k).phys (bitsOf w 85 64)) 64) = .ok y) :
    Prog.run (actSarm c k parity w seq g) d = Prog.run ((do
      offMapStream c (slotOf d c k).maps.stream ((slotOf d c k).phys (bitsOf w 85 64)) 64
      grant 0 y.ccount
      setStream c (streamNo w) (armed e c (slotOf d c k) k w y)
      completeCmd (slotOf d c k).part (slotOf d c k).tid seq) g) e := by
  obtain ⟨hhigh, halign, hmid, hlow⟩ := hfields
  rw [actSarm, run_bind, run_look, run_bind, hparity, run_bind, run_look, run_else (by simp [hhigh, halign, hmid, hlow]), run_else (by simp [hwindow]),
    run_else (by simp [hsound]), hcheck]

/-- An SREARM with sound fields of a stream that it may re-arm: a drain releases its last chunks, and the stream is to be re-armed (R157, R169). -/
theorem run_actSrearm {y z : Stream} {e : Dev}
    (hfields : bitsOf w 127 112 = 0 ∧ bitsOf w 111 64 % 8 = 0 ∧ bitsOf w 63 22 = 0 ∧ bitsOf w 15 12 = 0)
    (hstate : streamStateBad d c (slotOf d c k) (streamNo w) = false) (hy : streamOf d c (streamNo w) = some y)
    (hrelease : Runs (onlyIf y.desc.drain (releaseUpTo c (streamNo w) y.desc.chunks ((slotOf d c k).part, (slotOf d c k).tid))) d () e)
    (hz : streamOf e c (streamNo w) = some z) :
    Prog.run (actSrearm c k w seq g) d = Prog.run ((do
      setStream c (streamNo w) { z with mode := .rearm (bitsOf w 111 64) (doneCtr w) (slotOf d c k).tid seq }
      streamProgress c (streamNo w)) g) e := by
  obtain ⟨hhigh, halign, hmid, hlow⟩ := hfields
  rw [actSrearm, run_bind, run_look, run_else (by simp [hhigh, halign, hmid, hlow]), run_else (by simp [hstate]), hy, run_onSome_some, run_bind, hrelease,
    run_bind, run_look, hz, run_onSome_some]

/-- An SDISARM with sound fields of a stream that it may disarm cancels or finishes it (R158, R171, R172). -/
theorem run_actSdisarm (hfields : bitsOf w 63 13 = 0) (hstate : streamStateBad d c (slotOf d c k) (streamNo w) = false) :
    Prog.run (actSdisarm c k w seq g) d = Prog.run ((if bitOf w 12 then cancelStream c (streamNo w) (some ((slotOf d c k).tid, seq))
      else finishStream c (streamNo w) (some ((slotOf d c k).tid, seq))) g) d := by
  rw [actSdisarm, run_bind, run_look, run_else (by simp [hfields]), run_else (by simp [hstate])]

end

/-- Settles O18: each command enters the engine's queue; one that the engine takes passes its checks. -/
theorem streamCommands : Obligations.StreamCommands := by
  intro s c k len w again ha st i q d x seq
  refine ⟨fun ht => strmIssue_answers ha rfl ht rfl rfl, fun ht hmode => strmIssue_answers ha rfl ht rfl (by simp [hmode]),
    fun ht hmode => strmIssue_answers ha rfl ht rfl (by simp [hmode]), fun parity ht => strmIssue_answers ha rfl ht rfl rfl,
    fun hempty => ⟨?sarm, ?srearm, fun ht hfields hstate => ⟨?finish, ?cancel⟩⟩⟩
  case sarm =>
    intro parity y e ht x hparity hhigh halign hmid hlow hwindow hsound hcheck
    have hop := opOf_of_takes ht
    have h := strmIssue_taken_answers (parity := parity) (i := .sarm c k parity) ha rfl ht rfl rfl hempty (canTake_first (.inl hop))
    rw [runAct_def, run_bind, actStrm_sarm hop] at h
    rwa [run_actSarm _ hparity ⟨hhigh, halign, hmid, hlow⟩ hwindow hsound hcheck] at h
  case srearm =>
    intro y z e ht hidle hhigh halign hmid hlow hstate hy hrelease hz
    have h := strmIssue_taken_answers (i := .srearm c k) ha rfl ht rfl rfl hempty (canTake_first (.inr (.inr hidle)))
    rw [runAct_def, run_bind, actStrm_srearm (opOf_of_takes ht)] at h
    rwa [run_actSrearm _ ⟨hhigh, halign, hmid, hlow⟩ hstate hy hrelease hz] at h
  case finish =>
    intro hmode hidle
    have h := strmIssue_taken_answers (i := .sdisarmFinish c k) ha rfl ht rfl (by simp [hmode]) hempty (canTake_first (.inr (.inr hidle)))
    rw [runAct_def, run_bind, actStrm_sdisarm (opOf_of_takes ht)] at h
    rwa [run_actSdisarm _ hfields hstate, run_else (by simp [hmode])] at h
  case cancel =>
    intro hmode
    have hop := opOf_of_takes ht
    have h := strmIssue_taken_answers (i := .sdisarmCancel c k) ha rfl ht rfl (by simp [hmode]) hempty
      (canTake_first (.inr (.inl (by simp [isCancel, hop, hmode]))))
    rw [runAct_def, run_bind, actStrm_sdisarm hop] at h
    rwa [run_actSdisarm _ hfields hstate, run_ite, if_pos hmode] at h

end Sys2Proof.Proofs

/-! SUPPORT. The chunks and pieces of streams: how a landing stream's next chunk goes out and its reads come back (R160, R161, R174, R176, R179, R202), how a drain's
next chunk and its writes go (R164, R166, R175, R200), and what ends a wait for a stream (R176, R180). -/

namespace Sys2Proof.Proofs

open Sys2Proof.Machine Sys2Proof.Safety Sys2Proof.Laws

/-- What the answer of a pile read comes to (R160, R174): the piece lands, or its chunk has a deferred fault. -/
def readAnswered (c : CoreId) (st : StreamId) (j : Nat) (q : Piece) : Except (Nat × Nat) (List Byte × List Nat) → Act Unit
  | .ok (bs, bad) => landPiece c st j q bs bad
  | .error (code, a) => faultPiece c st j q code a

/-- What the answer of a drain's write comes to (R164, R175): it is accepted, or dropped and the drain's task aborted. -/
def writeAnswered (c : CoreId) (st : StreamId) (j : Nat) (q : Piece) : Except (Nat × Nat) Unit → Act Unit
  | .ok _ => acceptPiece c st j q
  | .error (code, a) => do
    dropPiece c st j q.id
    drainFault c st j code a 0x15

/-- Whether a write of a drain goes to an entry that spills to a peer (R199, R204). -/
def spillsToPeer (d : Dev) (x : Stream) (q : Piece) : Bool :=
  ((entAt d x.part q.va).map fun ie => toSpill d x.part ie.2).getD false && bitsOf (latched d x.part .BARL_CTRL) 5 4 == 2

/-- Whether a write of a drain reads a poisoned word of its ring slot. -/
def sourceBad (d : Dev) (c : CoreId) (x : Stream) (j : Nat) (q : Piece) : Bool :=
  q.spans.any fun y => !(badIn d (.spad c) (x.desc.slotAt j + y.dst) y.len).isEmpty

/-- The task in whose name chunk `j` of a drain is written: of a stream that outlives its task, the one that released the chunk (R175). -/
def drainer (x : Stream) (j : Nat) : Nat := if x.desc.persist then (((chunkOf x j).bind (·.rel)).getD x.relBy).2 else x.tid

section
variable {s : State} {c : CoreId} {st : StreamId} (ha : awake s.dev = true)
include ha

/-- A command about a piece that is outstanding does with it what it does with any. -/
theorem answers_of_piece {i : Instr} {j id : Nat} {x : Stream} {ch : Chunk} {q : Piece} {d : Dev} {f : Dev → Stream × Chunk × Piece → Act Unit}
    (he : exec i s = after (do let d ← look; onSome (pieceOf d c st j id) (f d)) s) (hpiece : pieceOf s.dev c st j id = some (x, ch, q))
    (h : runAct (f s.dev (x, ch, q)) s.dev = d) : Answers i s d := by
  refine answers_of_runAct he ha ?_
  rw [runAct_def, run_bind, run_look, hpiece, run_onSome_some, ← h]
  rfl

/-- The next chunk of a landing stream that runs or is being re-armed, with a credit left and room for its watches, issues its reads (R161, R179). -/
theorem streamChunkFetch_answers {x : Stream} {qs : List Piece} {ws : List Nat} (hx : streamOf s.dev c st = some x) (hland : x.desc.drain = false)
    (hgoing : x.paused = false) (hmode : x.mode = .run ∨ ∃ base ctr tid seq, x.mode = .rearm base ctr tid seq) (hleft : x.next < x.desc.chunks)
    (hcredit : x.next + heldCredits s.dev c st < x.rel + x.desc.ccount) (hqs : piecesOf s.dev c x x.next = qs) (hws : watchesOf s.dev c x qs = ws)
    (hroom : (allPiles.all fun pl => decide (watchesOn s.dev pl +
      (ws.filter fun w => pileOfPa (if 2 ^ 40 ≤ w then w - 2 ^ 40 else w * 2048) == pl).length ≤ 8192)) = true) :
    Answers (.streamChunkFetch c st) s (runAct (do
      each qs (issueRead c st x.next)
      fillChunk c st x.next) { s.dev with streams := tabPut s.dev.streams (c, st) { x with
        next := x.next + 1
        chunks := x.chunks ++ [⟨x.next, .fetching, [], 0, 0, false, ws, [], none⟩] } }) := by
  subst hqs hws
  refine answers_of_runAct (m := doFetch c st) rfl ha ?_
  rw [runAct_def, doFetch, run_bind, run_look, hx, run_onSome_some, run_onlyIf, if_pos ?live, run_onlyIf, if_pos hroom]
  case live =>
    obtain hrun | ⟨base, ctr, tid, seq, hrearm⟩ := hmode
    · simp [hland, hgoing, hrun, hleft, hcredit]
    · simp [hland, hgoing, hrearm, hleft, hcredit]
  rfl

/-- The first released chunk of a drain that goes on is read through the stream port, and its writes go out (R164). -/
theorem drainChunkWrite_answers {parity : List ParityHit} {x : Stream} {ch : Chunk} (hx : streamOf s.dev c st = some x) (hdrain : x.desc.drain = true)
    (hgoing : x.paused = false) (hmode : ∀ ws, x.mode ≠ .cancel ws) (hch : (x.chunks.find? fun k => k.st == .released) = some ch) :
    Answers (.drainChunkWrite c st parity) s (runAct (do
      portParity c parity (x.desc.slotAt ch.j) (x.desc.chunkLen ch.j)
      offMapStream c x.map (x.desc.slotAt ch.j) (x.desc.chunkLen ch.j)
      issueWrites c st ch.j (piecesOf s.dev c x ch.j)) s.dev) := by
  refine answers_of_runAct (m := doDrain c st parity) rfl ha ?_
  rw [runAct_def, doDrain, run_bind, run_look, hx, run_onSome_some, run_onlyIf, if_pos ?live, hch, run_onSome_some]
  case live =>
    rw [hdrain, hgoing]
    cases hm : x.mode with
    | cancel ws => exact absurd hm (hmode ws)
    | run | rearm | finish => rfl
  rfl

section
variable {j id : Nat} {x : Stream} {ch : Chunk} {q : Piece} (hpiece : pieceOf s.dev c st j id = some (x, ch, q))
include hpiece

/-! The reads of a landing stream. -/

section
variable {ext : ExtData}

/-- A pile read brings what the piles hold, or faults its chunk (R160, R174). -/
theorem streamReadLanded_pile_answers (htier : q.tier = 1) {r : Except (Nat × Nat) (List Byte × List Nat)} {e : Dev}
    (hread : Runs (pileSpans (envOf s.dev x.part) x.part (streamAcc s.dev c x) q.spans) s.dev r e) :
    Answers (.streamReadLanded c st j id ext) s (runAct (readAnswered c st j q r) e) := by
  refine answers_of_piece ha rfl hpiece ?_
  simp only [htier]
  rw [runAct_def, run_bind, hread]
  cases r <;> rfl

/-- A read of a spilled entry goes to the spill area (R202). -/
theorem streamReadLanded_spilled_answers (htier : q.tier = 3) (hspilled : (spilledFrame s.dev x.part q.va).isSome = true) :
    Answers (.streamReadLanded c st j id ext) s (runAct (fetchSpilled c st j q) s.dev) := by
  refine answers_of_piece ha rfl hpiece ?_
  simp only [htier, if_pos hspilled]

/-- A read of an entry that the barrel holds brings what stands there (R160, R202). -/
theorem streamReadLanded_barrel_answers (htier : q.tier = 3) (hheld : (spilledFrame s.dev x.part q.va).isSome = false) {bs : List Byte} {bad : List Nat}
    (hread : barrelSpans s.dev x.part q.spans = .ok (some (bs, bad))) :
    Answers (.streamReadLanded c st j id ext) s (runAct (landPiece c st j q bs bad) s.dev) := by
  refine answers_of_piece ha rfl hpiece ?_
  simp only [htier, hheld, hread, Bool.false_eq_true, if_false]

/-- A frame of the spill area that the host brings lands (R202). -/
theorem streamReadLanded_frame_answers (htier : q.tier = 4) (hhost : q.tag = none) :
    Answers (.streamReadLanded c st j id ext) s (runAct (landFrame c st j q ext.bytes ext.poisoned) s.dev) := by
  refine answers_of_piece ha rfl hpiece ?_
  simp only [htier, hhost]

/-- A host read brings what the host sends, all of it poisoned when it comes so (R160, R176, R501). -/
theorem streamReadLanded_host_answers (htier : q.tier = 2) (hhost : q.tag = none) :
    Answers (.streamReadLanded c st j id ext) s
      (runAct (landPiece c st j q (padTo q.len 0#8 (ext.bytes.take q.len)) (if ext.poisoned then allWords q.va q.len else [])) s.dev) := by
  refine answers_of_piece ha rfl hpiece ?_
  simp only [htier, hhost]

end

/-- A read that goes off the module and is not answered in time faults its chunk (R176). -/
theorem sourceTimeout_answers (htier : q.tier = 2 ∨ q.tier = 4) (hland : x.desc.drain = false) :
    Answers (.sourceTimeout c st j id) s (runAct (faultPiece c st j q 0xB q.va) s.dev) := by
  refine answers_of_piece ha rfl hpiece ?_
  have hfar : ((q.tier == 2 || q.tier == 4) && !x.desc.drain) = true := by simpa [hland] using htier
  rw [runAct_def, run_onlyIf, if_pos hfar]
  rfl

/-! The writes of a drain. -/

section
variable (hdrain : x.desc.drain = true)
include hdrain

/-- The piles store a write's bytes, or refuse it (R164, R175). -/
theorem drainWriteAccepted_pile_answers (htier : q.tier = 1) {r : Except (Nat × Nat) Unit} {e : Dev}
    (hwrite : Runs (pilePuts (envOf s.dev x.part) x.part (streamAcc s.dev c x) c (x.desc.slotAt j) q.spans) s.dev r e) :
    Answers (.drainWriteAccepted c st j id) s (runAct (writeAnswered c st j q r) e) := by
  refine answers_of_piece ha rfl hpiece ?_
  rw [runAct_def, run_onlyIf, if_pos hdrain]
  simp only [htier]
  rw [run_bind, hwrite]
  cases r <;> rfl

/-- A write of poisoned words toward a spill to a peer is dropped and aborts the drain's task, as is deduced from R501 (log entry 43). -/
theorem drainWriteAccepted_poisoned_answers (htier : q.tier = 3) (hhurt : (spillsToPeer s.dev x q && sourceBad s.dev c x j q) = true) :
    Answers (.drainWriteAccepted c st j id) s (runAct (do
      dropPiece c st j q.id
      drainFault c st j 0 0 0x18) s.dev) := by
  refine answers_of_piece ha rfl hpiece ?_
  rw [runAct_def, run_onlyIf, if_pos hdrain]
  simp only [htier]
  exact (run_ite ..).trans (if_pos hhurt)

/-- The barrel stores a write's bytes in the name of the task that drains, while that is not over, or refuses it (R164, R175, R200). -/
theorem drainWriteAccepted_barrel_answers (htier : q.tier = 3) (hsound : (spillsToPeer s.dev x q && sourceBad s.dev c x j q) = false) {gone : Bool}
    (hgone : (taskOf s.dev x.part (drainer x j)).all Task.over = gone) {r : Except (Nat × Nat) Unit} {e : Dev}
    (hwrite : Runs (barrelPuts x.part c (x.desc.slotAt j) (lastWrite x j) (if gone then none else some (drainer x j)) gone q.spans) s.dev r e) :
    Answers (.drainWriteAccepted c st j id) s (runAct (writeAnswered c st j q r) e) := by
  subst hgone
  refine answers_of_piece ha rfl hpiece ?_
  rw [runAct_def, run_onlyIf, if_pos hdrain]
  simp only [htier]
  refine (run_else (by exact ne_true_of_eq_false hsound) _ _).trans ?_
  rw [run_bind]
  refine (hwrite _).trans ?_
  cases r <;> rfl

/-- A write to a host leaves the module, with its poison, and is accepted as it does (R164). -/
theorem drainWriteAccepted_host_answers (htier : q.tier = 2) (hhost : q.tag = none) {f : FnId} {a : Nat} (htarget : targetOf s.dev c x q.va = .host f a)
    {at_ : Nat} (hat : x.desc.slotAt j + ((q.spans.head?.map (·.dst)).getD 0) = at_) :
    Answers (.drainWriteAccepted c st j id) s (runAct (acceptPiece c st j q) { s.dev with
      out := s.dev.out ++ [.hostWrite f a (bytesOf s.dev (.spad c) at_ q.len) (!(relBad s.dev (.spad c) at_ q.len).isEmpty)] }) := by
  subst hat
  refine answers_of_piece ha rfl hpiece ?_
  rw [runAct_def, run_onlyIf, if_pos hdrain]
  simp only [htier, hhost, htarget]
  rfl

/-- A write to a peer is accepted once the peer has told that it arrived (R164). -/
theorem drainWriteAccepted_peer_answers (htier : q.tier = 2) {tag : Nat} (htag : q.tag = some tag)
    (harrived : ((chanBy s.dev q.tgt).map fun ic => ic.2.reqs.any fun r => r.tag == tag) = some false) :
    Answers (.drainWriteAccepted c st j id) s (runAct (acceptPiece c st j q) s.dev) := by
  refine answers_of_piece ha rfl hpiece ?_
  rw [runAct_def, run_onlyIf, if_pos hdrain]
  simp only [htier, htag, harrived]
  rfl

end

end

/-! The watchdog. -/

/-- The watchdog fires for the engine that has stood still for its limit: the frozen cycles and the fire count, and the engine's task aborts (R180). -/
theorem progressWatchdogFire_answers {held still limit : Nat} {w : ArrWait} (hw : standing s.dev c = some w)
    (hlimit : bitsOf (regOf s.dev .STRM_CTRL c.val) 31 16 = limit) (hon : limit ≠ 0) (hheld : limit * 1024 ≤ held)
    (hstill : movedSince s.dev c w.stall = false ∨ limit * 1024 ≤ still) :
    Answers (.progressWatchdogFire c ⟨held, still⟩) s (runAct (do
      strmFault c w.slot w.stall.stream.val 0 0xA 0
      abortTask w.part w.tid 0x15 0xA) (counted (counted s.dev .CORE_FREEZE_STREAM c.val held) .STRM_WDOG_FIRES c.val 1)) := by
  subst hlimit
  refine answers_of_runAct (m := doWatchdog c held still) rfl ha ?_
  rw [runAct_def, doWatchdog, run_bind, run_look, hw, run_onSome_some, run_onlyIf, if_pos (by simp [hon, hheld, hstill]), run_bind, run_count, run_bind,
    run_count]
  rfl

end

/-- Settles O23: the fetch of a chunk, and the return of a read by where it went. -/
theorem landings : Obligations.Landings := by
  refine ⟨fun s c st x ha hx hland hgoing hmode hleft hcredit => streamChunkFetch_answers ha hx hland hgoing hmode hleft hcredit rfl rfl,
    fun s c st j id ext x ch q ha hpiece => ⟨fun r e htier hread => ?pile, streamReadLanded_spilled_answers ha hpiece,
      fun bs bad htier hheld => streamReadLanded_barrel_answers ha hpiece htier hheld, streamReadLanded_frame_answers ha hpiece,
      streamReadLanded_host_answers ha hpiece⟩⟩
  have h := streamReadLanded_pile_answers (ext := ext) ha hpiece htier hread
  cases r <;> exact h

/-- Settles O24: the read of a released chunk, and the acceptance of a write by where it goes. That a poisoned write toward a spill to a peer aborts
with code 0x18 is deduced from R501 (log entry 43). -/
theorem drains : Obligations.Drains := by
  refine ⟨fun s c st parity x ch ha => drainChunkWrite_answers ha, fun s c st j id x ch q ha hpiece hdrain => ?writes⟩
  refine ⟨fun r e htier hwrite => ?pile, fun htier => ⟨drainWriteAccepted_poisoned_answers ha hpiece hdrain htier, fun r e hsound hwrite => ?barrel⟩,
    fun f a htier hhost htarget => drainWriteAccepted_host_answers ha hpiece hdrain htier hhost htarget rfl,
    fun tag htier htag => drainWriteAccepted_peer_answers ha hpiece hdrain htier htag⟩
  case pile =>
    have h := drainWriteAccepted_pile_answers ha hpiece hdrain htier hwrite
    cases r <;> exact h
  case barrel =>
    have h := drainWriteAccepted_barrel_answers ha hpiece hdrain htier hsound rfl hwrite
    cases r <;> exact h

/-- Settles O25: the two by their own lemmas. -/
theorem streamTimeouts : Obligations.StreamTimeouts := fun _ _ ha =>
  ⟨fun _ _ _ _ _ _ => sourceTimeout_answers ha, fun _ _ _ hw => progressWatchdogFire_answers ha hw rfl⟩

end Sys2Proof.Proofs

/-! SUPPORT. What becomes of a message of the exchange engines once it is taken, by where it goes (R377, R378, R382), and of a re-run request (R213). -/

namespace Sys2Proof.Proofs

open Sys2Proof.Machine Sys2Proof.Safety Sys2Proof.Laws

/-- A command whose action first runs to an answer goes on from there. -/
theorem answers_of_runs_bind {α : Type} {s : State} {i : Instr} {m : Act α} {f : α → Act Unit} {a : α} {e d : Dev} (he : exec i s = after (m >>= f) s)
    (ha : awake s.dev = true) (hm : Runs m s.dev a e) (h : runAct (f a) e = d) : Answers i s d :=
  answers_of_runAct he ha ((hm _).trans h)

/-- The module after a message by where it goes (R378): it waits in its ring slot, is dropped and counted, or lands. -/
def rxLeft (src : MsgSrc) (taken : Act Unit) (land : DieId → Nat → Nat → Act Unit) (d : Dev) : Rx → Dev
  | .wait => d
  | .drop die => runAct (do
      dropMsg src
      taken) (counted d .XCH_RX_DROP die 1)
  | .land die id i => runAct (do
      land die id i
      dropMsg src
      taken) d

section
variable {s : State} {p : PartId} {src : MsgSrc} {msg : List Byte} {e : Dev} (ha : awake s.dev = true) (hlen : 64 ≤ msg.length)
include ha hlen

section
variable (htake : Runs (takeMsg p [2, 3] src) s.dev (some msg) e) {rx : Rx}
include htake

/-- DISPATCH_MESSAGE_ARRIVAL of a DISPATCH message: the receives that are open say where it goes (R377, R378). -/
theorem dispatchMessageArrival_answers (hkind : fieldAt msg 0 1 = 0x10) (hrx : matchMsg e p (srcHandle e src) .receive msg = rx) :
    Answers (.dispatchMessageArrival p src) s (rxLeft src (fabricTaken p .dispatch msg src) (landDispatch · · · msg) e rx) := by
  refine answers_of_runs_bind rfl ha htake ?_
  dsimp only
  rw [runAct_def, run_bind, run_look, run_onlyIf, if_pos (by simp [hkind, hlen]), hrx]
  cases rx with
  | drop die => exact run_count ..
  | wait | land die id i => rfl

/-- RETURN_MESSAGE_ARRIVAL of a RETURN message: the dispatches that are open say where it goes (R378, R382). -/
theorem returnMessageArrival_answers (hkind : fieldAt msg 0 1 = 0x11) (hrx : matchMsg e p (srcHandle e src) .dispatch msg = rx) :
    Answers (.returnMessageArrival p src) s (rxLeft src (fabricTaken p .return msg src) (landReturn · · · msg) e rx) := by
  refine answers_of_runs_bind rfl ha htake ?_
  dsimp only
  rw [runAct_def, run_bind, run_look, run_onlyIf, if_pos (by simp [hkind, hlen]), hrx]
  cases rx with
  | drop die => exact run_count ..
  | wait | land die id i => rfl

end

/-- RERUN_REQ_ARRIVAL of a request of the open step: the barrel keeps it, and its ring slot is free (R213). -/
theorem rerunReqArrival_answers (htake : Runs (takeMsg p [3] src) s.dev (some msg) e) (hkind : fieldAt msg 0 1 = 0x14) (hstep : stepRule e p msg = none) :
    Answers (.rerunReqArrival p src) s (runAct (dropMsg src) { e with barrels := tabPut e.barrels p { barrelOf e p with
      reruns := (barrelOf e p).reruns ++ [⟨fieldAt msg 0x10 2, fieldAt msg 0x12 2, fieldAt msg 0x14 4, srcHandle e src⟩] } }) := by
  refine answers_of_runs_bind rfl ha htake ?_
  dsimp only
  rw [runAct_def, run_bind, run_look, run_onlyIf, if_pos (by simp [hkind, hlen]), hstep]
  rfl

end

/-- Settles O28: a DISPATCH and a RETURN by where their rounds send them, and a re-run request of the open step. -/
theorem exchangeMessagesArrive : Obligations.ExchangeMessagesArrive := by
  refine ⟨fun s p src msg e die id i ha htake hlen => ?messages, fun s p src msg e ha htake hkind hlen => rerunReqArrival_answers ha hlen htake hkind⟩
  have hdispatch {rx : Rx} := dispatchMessageArrival_answers ha hlen htake (rx := rx)
  have hreturn {rx : Rx} := returnMessageArrival_answers ha hlen htake (rx := rx)
  exact ⟨hdispatch, hdispatch, hdispatch, hreturn, hreturn, hreturn⟩

end Sys2Proof.Proofs

/-! SUPPORT. What a write to the barrel's aperture comes to, by the state of its entry (R199, R200, R207), a read (R202), and the loss of the spill target (R205). -/

namespace Sys2Proof.Proofs

open Sys2Proof.Machine Sys2Proof.Safety Sys2Proof.Laws

theorem ends_clearBad (r : Region) (a n : Nat) : Ends (clearBad r a n) := Ends.look.bind fun _ => (Ends.emit _).onlyIf

theorem run_addBad_nil (r : Region) (k : Unit → Prog) (d : Dev) : Prog.run (addBad r [] k) d = Prog.run (k ()) d := rfl

section
variable {d : Dev} {p : PartId} {va i : Nat} {bs : List Byte} {e : Ent} {close : Bool} {bad : List Nat} {who : Option Nat} {late : Bool}
  (hent : entAt d p va = some (i, e))
include hent

/-- A closed or freed entry takes no write, and a write past its end fails as well: nothing changes (R199, R201). -/
theorem barrelWrite_refused (hst : e.st = .held ∨ e.st = .spilled ∨ e.st = .freed) :
    ∃ code, Runs (barrelWrite p va bs bad close who late) d (.error code) d := by
  by_cases hfit : e.va + e.size < va + bs.length
  · refine ⟨6, fun k => ?_⟩
    rw [barrelWrite, run_bind, run_look, hent]
    exact (run_ite ..).trans (if_pos hfit)
  · refine ⟨7, fun k => ?_⟩
    rw [barrelWrite, run_bind, run_look, hent]
    exact (run_else hfit ..).trans ((run_ite ..).trans (if_pos hst))

section
variable (hkept : (barrelOf d p).ents[i]? = some e) (hfit : va + bs.length ≤ e.va + e.size) (g : Except Nat Unit → Prog)
include hkept hfit

/-- A write to an ABSENT entry is accepted, discarded and counted (R199, R207). -/
theorem run_barrelWrite_absent (hst : e.st = .absent) :
    Prog.run (barrelWrite p va bs bad close who late g) d =
      Prog.run (onlyIf close (closeEnt p i) fun _ => g (.ok ())) (counted d .BARL_ABSENT_BYTES p.val bs.length) := by
  rw [barrelWrite, run_bind, run_look, hent]
  dsimp only
  rw [run_else (Nat.not_lt.2 hfit), run_else (by simp [hst]), run_else (by simp [hst]), run_bind, run_onlyIf, if_neg (by simp [hst]), run_bind, run_look,
    hkept, run_bind, run_onSome_some, run_ite, if_pos hst, run_count]
  rfl

/-- A write to a WPOOL entry that is not encoded lossily stores its bytes, notes its segments, and compresses each into its frame (R200). -/
theorem run_barrelWrite_wpool (hst : e.st = .wpool) (hbytes : bs ≠ []) (hexact : entLossy d p e = false) :
    Prog.run (barrelWrite p va bs [] close who late g) d = Prog.run ((do
      emit (.write (.barrel p i) (va - e.va) bs)
      clearBad (.barrel p i) (va - e.va) bs.length
      setEnt p i (e.wrote (va - e.va) bs.length who)
      each ((List.range ((va - e.va + bs.length - 1) / 2048 - (va - e.va) / 2048 + 1)).map (· + (va - e.va) / 2048)) (poolSegment p i)
      onlyIf close (closeEnt p i)) fun _ => g (.ok ())) d := by
  have hsegs : (!bs.isEmpty && !entLossy d p e) = true := by simp [hbytes, hexact]
  rw [barrelWrite, run_bind, run_look, hent]
  dsimp only
  rw [run_else (Nat.not_lt.2 hfit), run_else (by simp [hst]), run_else (by simp [hst]), run_bind, run_onlyIf, if_neg (by simp [hst]), run_bind, run_look,
    hkept, run_bind, run_onSome_some, run_else (by simp [hst])]
  simp only [hst, hsegs, if_true, run_bind, run_emit, (ends_clearBad _ _ _).run, List.map_nil, run_addBad_nil]
  rfl

end

end

/-- Settles O32: a write by the state of its entry, a read that is allowed, and the loss of the target. -/
theorem barrelAccesses : Obligations.BarrelAccesses := by
  refine fun s p ha => ⟨fun va n bs hread => ?read, fun va bs i e close hent hkept hfit hst => ?absent,
    fun va bs i e close hent hkept hfit hst hbytes hexact => ?wpool, fun va bs i e close hent hst => ?closed, fun hactive hspills hlost hmode => ?timeout⟩
  case read =>
    refine answers_of_runAct (m := doApertureRead p va n) rfl ha ?_
    rw [runAct_def, doApertureRead, run_bind, run_look, hread]
    rfl
  case absent =>
    exact answers_of_runAct (m := doApertureWrite p va bs close) rfl ha (run_barrelWrite_absent hent hkept hfit _ hst)
  case wpool =>
    exact answers_of_runAct (m := doApertureWrite p va bs close) rfl ha (run_barrelWrite_wpool hent hkept hfit _ hst hbytes hexact)
  case closed =>
    obtain ⟨code, hrefused⟩ := barrelWrite_refused hent hst
    exact answers_of_runs_bind rfl ha hrefused rfl
  case timeout =>
    refine answers_of_runAct (m := doSpillTimeout p) rfl ha ?_
    rw [runAct_def, doSpillTimeout, run_bind, run_look, run_onlyIf, if_pos (by simp [hactive, hspills, hlost, hmode])]
    rfl

end Sys2Proof.Proofs

/-! SUPPORT. What a contribution comes to by how its owner sorts it (R246–R249), and the end of the zeroing of an accumulator (R246). -/

namespace Sys2Proof.Proofs

open Sys2Proof.Machine Sys2Proof.Safety Sys2Proof.Laws

/-- The contributor index of a contribution message (R247). -/
def contributor (msg : List Byte) : Nat := fieldAt msg 0x18 2

/-- Whether a message is the first of its contribution (R247). -/
def contribFirst (msg : List Byte) : Bool := bitOf (fieldAt msg 0x1B 1) 0

/-- Whether a message is the last of its contribution (R247). -/
def contribLast (msg : List Byte) : Bool := bitOf (fieldAt msg 0x1B 1) 1

/-- With its last message a contribution has ended: the slice counts it, and is FULL at the expected count (R246, R248). -/
def contribCounted (p : PartId) (i : Nat) (x : Slice) (msg : List Byte) : Act Unit := onlyIf (contribLast msg) do
  setSliceBit x 1 (contributor msg)
  setSlice p i { x with
    count := x.count + 1
    st := if x.count + 1 = x.expected then SliceSt.full else x.st }
  grant 6 1
  count .UPD_CONTRIB_COUNT p.val 1

/-- What a slice does with a message that it has taken, by its contributor's started and done bits in module `d` (R248). -/
def contribTaken (d : Dev) (p : PartId) (i : Nat) (x : Slice) (f : Fmt) (msg : List Byte) : Act Unit :=
  if (sliceBit d x 0 (contributor msg) && sliceBit d x 1 (contributor msg)) || (!contribFirst msg && !sliceBit d x 0 (contributor msg)) then
    count .UPD_CONTRIB_DUP p.val 1
  else if contribFirst msg && sliceBit d x 0 (contributor msg) then spoilSlice p i x
  else do
    onlyIf (contribFirst msg) (setSliceBit x 0 (contributor msg))
    if ← addContribution p x f (fieldAt msg 0x10 4) (fieldAt msg 0x14 4) (msg.drop 32) then contribCounted p i x msg
    else spoilSlice p i x

section
variable {p : PartId} {i : Nat} {x : Slice} {f : Fmt} {msg : List Byte} {e e' : Dev}

/-- A message of a contribution that has ended, and a later message of one that has not begun, is a duplicate (R248). -/
theorem runAct_contribTaken_duplicate (hdup : sliceBit e x 0 (contributor msg) = true ∧ sliceBit e x 1 (contributor msg) = true ∨
      contribFirst msg = false ∧ sliceBit e x 0 (contributor msg) = false) :
    runAct (contribTaken e p i x f msg) e' = counted e' .UPD_CONTRIB_DUP p.val 1 := by
  rw [runAct_def, contribTaken, run_ite, if_pos (by simpa using hdup)]
  exact run_count ..

/-- A second first message before its contribution has ended spoils the slice (R248). -/
theorem runAct_contribTaken_spoiled (hfirst : contribFirst msg = true) (hstarted : sliceBit e x 0 (contributor msg) = true)
    (hended : sliceBit e x 1 (contributor msg) = false) : runAct (contribTaken e p i x f msg) e' = runAct (spoilSlice p i x) e' := by
  rw [runAct_def, contribTaken, run_else (by simp [hfirst, hended]), run_ite, if_pos (by simp [hfirst, hstarted])]
  rfl

/-- The first message of a contribution that has not begun, or a later one of one that has, is added while it has not ended (R248, R251). -/
theorem runAct_contribTaken_added {e1 e2 : Dev} (hended : sliceBit e x 1 (contributor msg) = false)
    (hstarted : sliceBit e x 0 (contributor msg) = !contribFirst msg)
    (hbegin : Runs (onlyIf (contribFirst msg) (setSliceBit x 0 (contributor msg))) e' () e1)
    (hadd : Runs (addContribution p x f (fieldAt msg 0x10 4) (fieldAt msg 0x14 4) (msg.drop 32)) e1 true e2) :
    runAct (contribTaken e p i x f msg) e' = runAct (contribCounted p i x msg) e2 := by
  rw [runAct_def, contribTaken, run_else (by simp [hended, hstarted]), run_else (by simp [hstarted]), run_bind, hbegin, run_bind, hadd]
  rfl

end

section
variable {s : State} {p : PartId} (ha : awake s.dev = true)
include ha

section
variable {src : MsgSrc} {msg : List Byte} {e : Dev} (htake : Runs (takeMsg p [1] src) s.dev (some msg) e)
include htake

/-- A stale contribution is counted and leaves its ring slot (R249). -/
theorem contribution_stale_answers (hsort : sortContrib e p msg = .stale) :
    Answers (.contributionMessage p src) s (runAct (dropMsg src) (counted e .UPD_CONTRIB_STALE p.val 1)) := by
  refine answers_of_runs_bind rfl ha htake ?_
  dsimp only
  rw [runAct_def, run_bind, run_look, hsort]
  exact run_count ..

/-- A contribution of a step to come, or to an accumulator that is being zeroed, waits in its ring slot (R246, R249). -/
theorem contribution_wait_answers (hsort : sortContrib e p msg = .wait) : Answers (.contributionMessage p src) s e := by
  refine answers_of_runs_bind rfl ha htake ?_
  dsimp only
  rw [runAct_def, run_bind, run_look, hsort]
  rfl

/-- The first contribution to an IDLE slice starts the zeroing of its accumulator (R246). -/
theorem contribution_zero_answers {i : Nat} {x : Slice} (hsort : sortContrib e p msg = .zero i x) :
    Answers (.contributionMessage p src) s (runAct (setSlice p i { x with zeroing := true }) e) := by
  refine answers_of_runs_bind rfl ha htake ?_
  dsimp only
  rw [runAct_def, run_bind, run_look, hsort]
  rfl

/-- A message that its slice takes leaves its ring slot; its contributor's bits, as they stood before, say what it comes to (R248). -/
theorem contribution_taken_answers {i : Nat} {x : Slice} {f : Fmt} {e' d : Dev} (hsort : sortContrib e p msg = .take i x f)
    (hdrop : Runs (dropMsg src) e () e') (hd : runAct (contribTaken e p i x f msg) e' = d) : Answers (.contributionMessage p src) s d := by
  refine answers_of_runs_bind rfl ha htake ?_
  dsimp only
  rw [runAct_def, run_bind, run_look, hsort]
  exact (hdrop _).trans hd

end

/-- ACCUMULATOR_ZERO_DONE of an IDLE slice that is being zeroed, in an open step: its accumulator and bit maps are zero, and it accumulates (R246). -/
theorem accumulatorZeroDone_answers {i : Nat} {x : Slice} {c : CoreId} (hc : Fin.ofNat 800 x.core = c) (hslice : (escOf s.dev p).slices[i]? = some x)
    (hidle : x.st = .idle) (hzeroing : x.zeroing = true) (hstep : (partOf s.dev p).step.isSome = true) :
    Answers (.accumulatorZeroDone p i) s (runAct (do
      clearBad (.spad c) x.acc (4 * x.elems + 1024)
      setSlice p i { x with
        zeroing := false
        st := .accum })
      { s.dev with mems := tabPut s.dev.mems (.spad c) (memZero (memOf s.dev (.spad c)) x.acc (4 * x.elems + 1024)) }) := by
  subst hc
  refine answers_of_runAct (m := doZeroDone p i) rfl ha ?_
  rw [runAct_def, doZeroDone, run_bind, run_look, hslice, run_onSome_some, run_onlyIf, if_pos (by simp [hidle, hzeroing, hstep])]
  rfl

end

/-- Settles O29: each contribution by how it is sorted, one that is taken by its contributor's bits; and the end of a zeroing. -/
theorem contributionsArrive : Obligations.ContributionsArrive := by
  refine ⟨fun s p src msg e ha htake => ⟨?stale, ?wait, fun i x => ?zero, fun i x f e' hsort hdrop => ?duplicate, fun i x f e' hsort hdrop => ?spoiled,
    fun i x f e' e1 e2 hsort hdrop => ?added⟩, fun s p i x ha => accumulatorZeroDone_answers ha rfl⟩
  case stale => exact contribution_stale_answers ha htake
  case wait => exact contribution_wait_answers ha htake
  case zero => exact contribution_zero_answers ha htake
  case duplicate => exact fun hdup => contribution_taken_answers ha htake hsort hdrop (runAct_contribTaken_duplicate hdup)
  case spoiled =>
    exact fun hfirst hstarted hended =>
      contribution_taken_answers ha htake hsort hdrop (runAct_contribTaken_spoiled hfirst hstarted hended)
  case added =>
    exact fun hended hstarted hbegin hadd =>
      contribution_taken_answers ha htake hsort hdrop (runAct_contribTaken_added hended hstarted hbegin hadd)

end Sys2Proof.Proofs

/-! SUPPORT. How the escapement goes on once its partition is ready, what its timers do (R262–R269), and a message about the open step (R261, R267). -/

namespace Sys2Proof.Proofs

open Sys2Proof.Machine Sys2Proof.Safety Sys2Proof.Laws

section
variable {s : State} {p : PartId} (ha : awake s.dev = true)
include ha

/-! Readiness. -/

section
variable (hready : escReady s.dev p = true)
include hready

/-- ESCAPEMENT_READY at the leader, which has not made its token yet: it makes it, and flips when it is the sole participant, else sends GATHER to
position 1 (R262, R263). -/
theorem escapementReady_leader_answers (hself : (escOf s.dev p).self = 0) (htoken : (escOf s.dev p).token = false) :
    Answers (.escapementReady ⟨p, false⟩) s (runAct (do
      grant 5 1
      gauge .ESC_TOKENS_OUT p.val (ctrOf s.dev .ESC_TOKENS_OUT p.val + 1)
      if (escOf s.dev p).table.length ≤ 1 then flip p else escSend p 1 msgGather 0 (escOf s.dev p).step 1)
      { s.dev with escs := tabPut s.dev.escs p { escOf s.dev p with token := true } }) := by
  refine answers_of_runAct (m := doEscReady p) rfl ha ?_
  rw [runAct_def, doEscReady, run_bind, run_look, run_onlyIf, if_pos hready]
  rw [run_ite, if_pos hself, htoken]
  rfl

/-- ESCAPEMENT_READY at a follower that holds GATHER (R263). -/
theorem escapementReady_follower_answers {gen hops : Nat} (hself : (escOf s.dev p).self ≠ 0) (hhold : (escOf s.dev p).hold = some (gen, hops)) :
    Answers (.escapementReady ⟨p, false⟩) s (runAct (passGather p gen hops) s.dev) := by
  refine answers_of_runAct (m := doEscReady p) rfl ha ?_
  rw [runAct_def, doEscReady, run_bind, run_look, run_onlyIf, if_pos hready]
  rw [run_else hself, hhold]
  rfl

end

/-! Timers. -/

/-- STEP_TIMER_EXPIRY of an open training step before its commit point (R266). -/
theorem stepTimerExpiry_answers (hstep : (partOf s.dev p).step.isSome = true) (hkind : (partOf s.dev p).serving = false)
    (hst : (escOf s.dev p).st = .running ∨ (escOf s.dev p).st = .releasing) :
    Answers (.stepTimerExpiry p) s (runAct (abandonStep p) (counted s.dev .ESC_TIMEOUTS p.val 1)) := by
  refine answers_of_runAct (m := doStepTimer p) rfl ha ?_
  rw [runAct_def, doStepTimer, run_bind, run_look, run_onlyIf, if_pos (by simp [hstep, hkind, hst])]
  exact run_count ..

section
variable (hpassed : (escOf s.dev p).st = .passed)
include hpassed

/-- DOUBT_TIMER_EXPIRY at a follower that has passed GATHER and has not asked: it asks the leader (R266). -/
theorem doubtTimerExpiry_answers (hself : (escOf s.dev p).self ≠ 0) (hasked : (escOf s.dev p).asked = false) :
    Answers (.doubtTimerExpiry p) s (runAct (escSend p 0 msgQuery 0 (escOf s.dev p).step 0)
      (counted { s.dev with escs := tabPut s.dev.escs p { escOf s.dev p with asked := true } } .ESC_QUERIES p.val 1)) := by
  refine answers_of_runAct (m := doDoubtTimer p) rfl ha ?_
  rw [runAct_def, doDoubtTimer, run_bind, run_look, run_onlyIf, if_pos (by simp [hpassed, hself, hasked])]
  exact run_count ..

section
variable (hasked : (escOf s.dev p).asked = true) (hresolv : (escOf s.dev p).resolv = false)
include hasked hresolv

/-- QUERY_TIMEOUT at the deputy (R267). -/
theorem queryTimeout_deputy_answers (hself : (escOf s.dev p).self = 1) :
    Answers (.queryTimeout p) s (runAct (abandonStep p)
      { s.dev with regs := tabPut s.dev.regs ⟨.ESC_STATUS, p.val, 0⟩ (toWord (regOf s.dev .ESC_STATUS p.val ||| 0x40)) }) := by
  refine answers_of_runAct (m := doQueryTimeout p) rfl ha ?_
  rw [runAct_def, doQueryTimeout, run_bind, run_look, run_onlyIf, if_pos (by simp [hpassed, hasked, hresolv]), run_bind, run_orReg, run_ite, if_pos hself]
  rfl

/-- QUERY_TIMEOUT at a participant other than the deputy, which asks the deputy (R267). -/
theorem queryTimeout_other_answers (hself : (escOf s.dev p).self ≠ 1) {d : Dev}
    (hd : { s.dev with regs := tabPut s.dev.regs ⟨.ESC_STATUS, p.val, 0⟩ (toWord (regOf s.dev .ESC_STATUS p.val ||| 0x40)) } = d) :
    Answers (.queryTimeout p) s (runAct (escSend p 1 msgResolve 0 (escOf s.dev p).step 0)
      (counted { d with escs := tabPut d.escs p { escOf s.dev p with resolv := true } } .ESC_QUERIES p.val 1)) := by
  subst hd
  refine answers_of_runAct (m := doQueryTimeout p) rfl ha ?_
  rw [runAct_def, doQueryTimeout, run_bind, run_look, run_onlyIf, if_pos (by simp [hpassed, hasked, hresolv]), run_bind, run_orReg, run_else hself]
  exact run_count ..

end

/-- RESOLVE_TIMEOUT: neither leader nor deputy has answered (R268). -/
theorem resolveTimeout_answers (hresolv : (escOf s.dev p).resolv = true) :
    Answers (.resolveTimeout p) s (runAct (escTo p .inDoubt)
      { s.dev with regs := tabPut s.dev.regs ⟨.ESC_STATUS, p.val, 0⟩ (toWord (regOf s.dev .ESC_STATUS p.val ||| 0x80)) }) := by
  refine answers_of_runAct (m := doResolveTimeout p) rfl ha ?_
  rw [runAct_def, doResolveTimeout, run_bind, run_look, run_onlyIf, if_pos (by simp [hpassed, hresolv])]
  rfl

end

end

/-- Settles O33: readiness by the participant's position, and each timer by the state it finds. -/
theorem escapementReadyAndTimers : Obligations.EscapementReadyAndTimers := by
  refine ⟨fun s p ha hready => ⟨?leader, fun _ _ => ?follower, ?bad⟩,
    fun s p ha => ⟨?stepTimer, ?doubt, fun hpassed hasked hresolv => ⟨?deputy, ?other⟩, ?resolve⟩⟩
  case leader => exact escapementReady_leader_answers ha hready
  case follower => exact escapementReady_follower_answers ha hready
  case bad => exact engineState_bad_answers ha (work := doEscReady p) rfl
  case stepTimer => exact stepTimerExpiry_answers ha
  case doubt => exact doubtTimerExpiry_answers ha
  case deputy => exact queryTimeout_deputy_answers ha hpassed hasked hresolv
  case other => exact fun hself => queryTimeout_other_answers ha hpassed hasked hresolv hself rfl
  case resolve => exact resolveTimeout_answers ha

/-! Messages. -/

/-- The open step is not still to come. -/
theorem stepAhead_open {y : Part} {n : Nat} (h : y.step.map (·.num) = some n) : stepAhead y n = false := by
  obtain ⟨st, hst, rfl⟩ := Option.map_eq_some_iff.1 h
  simp [stepAhead, hst]

section
variable {s : State} {p : PartId} {src : MsgSrc} {msg : List Byte} {e : Dev} (ha : awake s.dev = true) (htake : Runs (takeMsg p [3] src) s.dev (some msg) e)
include ha htake

/-- A message of its row's type, of the partition's job and about its open step leaves its ring slot, and the escapement answers it (R261, R263, R265,
R267). -/
theorem escMessage_answers {i : Instr} {type : Nat} (he : exec i s = after (doEscMessage type p src) s) (hlen : msg.length = 64)
    (hrun : (partOf e p).running = true) (hjob : fieldAt msg 4 4 = (partOf e p).job) (hstep : (partOf e p).step.map (·.num) = some (fieldAt msg 8 8))
    (htype : fieldAt msg 0 1 = type) :
    Answers i s (runAct (do
      dropMsg src
      escCurrent p type (fieldAt msg 1 1) (fieldAt msg 2 2) (fieldAt msg 0x10 8) (fieldAt msg 0x18 2)) e) := by
  subst htype
  refine answers_of_runs_bind he ha htake ?_
  dsimp only
  rw [runAct_def, run_else (by simp), run_bind, run_look, run_else (by simp [hlen, hrun, hjob]), run_else (by simp [hstep]),
    run_else (by simp [stepAhead_open hstep]), if_pos hstep]
  rfl

/-- A GATHER of a wrong length only leaves its ring slot (R261). -/
theorem gatherReceived_wrongLength_answers (hlen : msg.length ≠ 64) (htype : fieldAt msg 0 1 = 1) :
    Answers (.gatherReceived p src) s (runAct (dropMsg src) e) := by
  refine answers_of_runs_bind rfl ha htake ?_
  dsimp only
  rw [runAct_def, run_else (by simp [htype, msgGather]), run_bind, run_look, run_ite, if_pos (.inl hlen)]
  rfl

end

/-- Settles O34: each row takes the messages of its own type. -/
theorem escapementMessages : Obligations.EscapementMessages := by
  refine fun s p src msg e ha htake => ⟨fun hlen hrun hjob hstep => ?current, gatherReceived_wrongLength_answers ha htake⟩
  have answers {i : Instr} {type : Nat} (he : exec i s = after (doEscMessage type p src) s) :=
    escMessage_answers ha htake he hlen hrun hjob hstep
  exact ⟨answers rfl, answers rfl, answers rfl, answers rfl, answers rfl, answers rfl⟩

end Sys2Proof.Proofs

/-! SUPPORT. What the admin commands of a job, its scheduling and its quotas answer once they have their turn (R272, R399–R407, R435–R440). -/

namespace Sys2Proof.Proofs

open Sys2Proof.Machine Sys2Proof.Safety Sys2Proof.Laws

/-! Fields of a block that only some bytes of may be other than zero (R601). -/

theorem leNat_zeros {bs : List Byte} (h : ∀ x ∈ bs, x = 0#8) : leNat bs = 0 := by
  induction bs with
  | nil => rfl
  | cons b bs ih =>
    obtain ⟨hb, hbs⟩ := List.forall_mem_cons.1 h
    simp [leNat, hb, ih hbs]

/-- A byte that none of the named fields covers is zero. -/
theorem eq_zero_of_fieldsOnly {bs : List Byte} {fs : List (Nat × Nat)} (h : fieldsOnly bs fs = true) {i : Nat} (hi : i < bs.length)
    (hout : ∀ f ∈ fs, ¬ (f.1 ≤ i ∧ i < f.1 + f.2)) : bs[i] = 0#8 := by
  have hmem : (i, bs[i]) ∈ (List.range bs.length).zip bs :=
    List.mem_iff_getElem.2 ⟨i, by simpa using hi, by simp⟩
  have hbyte := List.all_eq_true.1 h _ hmem
  obtain hzero | hnamed := Bool.or_eq_true_iff.1 hbyte
  · exact eq_of_beq hzero
  · obtain ⟨f, hf, hin⟩ := List.any_eq_true.1 hnamed
    exact absurd (by simpa using hin) (hout f hf)

/-- A field that none of the named fields meets is zero. -/
theorem fieldAt_eq_zero_of_fieldsOnly {bs : List Byte} {fs : List (Nat × Nat)} (h : fieldsOnly bs fs = true) {off size : Nat}
    (hout : ∀ i, off ≤ i → i < off + size → ∀ f ∈ fs, ¬ (f.1 ≤ i ∧ i < f.1 + f.2)) : fieldAt bs off size = 0 := by
  refine leNat_zeros fun x hx => ?_
  obtain ⟨j, hj, rfl⟩ := List.mem_iff_getElem.1 hx
  rw [List.length_take, List.length_drop] at hj
  rw [List.getElem_take, List.getElem_drop]
  exact eq_zero_of_fieldsOnly h (by omega) (hout _ (by omega) (by omega))

/-! Jobs, scheduling, suspension, alignment, orphans. -/

/-- What JOB_START does for a partition once its identifier is drawn (R227, R395, R435, R603). -/
def startJob (f : FnId) (p : PartId) (y : Part) (b : List Byte) (cores : List CoreId) (id : Nat) : Act Unit := do
  setField .ESC_CTRL p.val 0 31 4 (fieldAt b 4 2 * 2 ^ 16 + fieldAt b 6 2)
  onlyIf y.serving do
    setReg .SCHED_SERVE p.val 0 (fieldAt b 8 4)
    setReg .SCHED_SERVE_BASE p.val 0 (fieldAt b 12 4)
  grantArenas p y.arena cores
  updPart p fun y => { y with
    running := true
    job := id
    chunk := fieldAt b 0 4
    jobFn := f
    gone := false }
  onlyIf (!y.expert) (openAreas p)

/-- JOB_START's block asks for a chunk length and times in range, with a max_ctx where the partition serves and no serving parameters where it trains
(R227, R415, R601). -/
structure JobAsked (y : Part) (b : List Byte) : Prop where
  chunks : fieldAt b 0 4 % 2048 = 0
  least : 2048 ≤ fieldAt b 0 4
  most : fieldAt b 0 4 ≤ 65536
  seconds : fieldAt b 4 2 ≠ 0
  limit : fieldAt b 4 2 ≤ 4095
  millis : fieldAt b 6 2 ≠ 0
  serve : if y.serving then bitsOf (fieldAt b 8 4) 31 24 ≠ 0 else fieldAt b 8 4 = 0 ∧ fieldAt b 12 4 = 0

theorem JobAsked.inRange {y : Part} {b : List Byte} (h : JobAsked y b) :
    ¬ (fieldAt b 0 4 % 2048 ≠ 0 ∨ fieldAt b 0 4 < 2048 ∨ 65536 < fieldAt b 0 4 ∨ fieldAt b 4 2 = 0 ∨ 4095 < fieldAt b 4 2 ∨ fieldAt b 6 2 = 0 ∨
      (if y.serving then bitsOf (fieldAt b 8 4) 31 24 = 0 else fieldAt b 8 4 ≠ 0 ∨ fieldAt b 12 4 ≠ 0)) := by
  obtain ⟨hchunks, hleast, hmost, hsecs, hlimit, hms, hserve⟩ := h
  rintro (h | h | h | h | h | h | h)
  · exact h hchunks
  · omega
  · omega
  · exact hsecs h
  · omega
  · exact hms h
  · split at h
    case isTrue hs => exact (if_pos hs ▸ hserve) h
    case isFalse hs =>
      obtain ⟨hwindow, hbase⟩ := if_neg hs ▸ hserve
      omega

section
variable {s : State} {f : FnId} {e b : List Byte} {d : Dev} {p : PartId} (h : AdminTurn s.dev f [] e b d) (hp : Fin.ofNat 16 (cmdPart e) = p)
include h hp

/-- JOB_START of a partition that does not run, whose arena has a place on every core of its mask (R395, R435). -/
theorem jobStart_answers {cores : List CoreId} {id : Nat} {d1 : Dev} (hcores : (if (partOf d p).arena = 0 then [] else maskCores d p) = cores)
    (hop : cmdOp e = 5) (hidle : (partOf d p).running = false) (hask : JobAsked (partOf d p) b)
    (hroom : (cores.all fun c => !(basesFor d c (partOf d p).arena false).isEmpty && !(basesFor d c (partOf d p).arena true).isEmpty) = true)
    (hid : Runs draw d id d1) :
    Answers (.jobStart f) s (runAct (do
      startJob f p (partOf d p) b cores (id % 2 ^ 32)
      adminAnswer f e 0 (id % 2 ^ 32)) d1) := by
  subst hcores
  have hplace := List.all_eq_true.1 hroom
  simp only [Bool.and_eq_true, Bool.not_eq_true'] at hplace
  refine admin_answers (body := doJobStart) h rfl (by simp [isOp, hop]) _ fun k => ?_
  rw [hp, doJobStart, run_bind, run_look]
  refine (run_else (by simp [hidle]) _ _).trans ?_
  refine (run_else hask.inRange _ _).trans ?_
  refine (run_else ?never _ _).trans ((run_else ?later _ _).trans (hid _))
  case never => simpa using fun c hc => (hplace c hc).2
  case later => simpa using fun c hc => (hplace c hc).1

/-- JOB_END of a running job (R435). -/
theorem jobEnd_answers (hop : cmdOp e = 6) (hrun : (partOf d p).running = true) :
    Answers (.jobEnd f) s (runAct (do
      endJob p (some f) false
      adminAnswer f e 0 0) d) := by
  refine admin_answers (body := doJobEnd) h rfl (by simp [isOp, hop]) _ fun k => ?_
  rw [hp, doJobEnd, run_bind, run_look, run_else (by simp [hrun])]
  rfl

/-- SCHED_SET with fields in range: those that it names are written (R402). -/
theorem schedSet_answers (hop : cmdOp e = 0x11) (hvalid : fieldAt b 0 1 ≤ 3) (hprio : fieldAt b 1 1 ≤ 3) (hreserve : fieldAt b 2 1 ≤ 7) :
    Answers (.schedSet f) s (runAct (do
      onlyIf (bitOf (fieldAt b 0 1) 0) (setField .SCHED_PART_CTRL p.val 0 5 4 (fieldAt b 1 1))
      onlyIf (bitOf (fieldAt b 0 1) 1) (setField .SCHED_PART_CTRL p.val 0 10 8 (fieldAt b 2 1))
      adminAnswer f e 0 0) d) := by
  subst hp
  refine admin_answers (body := doSchedSet) h rfl (by simp [isOp, hop]) (do
    onlyIf (bitOf (fieldAt b 0 1) 0) (setField .SCHED_PART_CTRL _ 0 5 4 (fieldAt b 1 1))
    onlyIf (bitOf (fieldAt b 0 1) 1) (setField .SCHED_PART_CTRL _ 0 10 8 (fieldAt b 2 1))) fun k => ?_
  rw [doSchedSet]
  exact run_else (by omega) _ _

/-- SUSPEND: no task of the partition is placed, and every slot of it is pre-empted (R399). -/
theorem suspend_answers {d' : Dev} (hd : { d with parts := tabPut d.parts p { partOf d p with susp := true } } = d') (hop : cmdOp e = 0x12) :
    Answers (.suspend f) s (runAct (do
      each ((slotsInUse d').filter fun x => x.2.part == p) fun x => preemptSlot x.1.1 x.1.2 .command
      adminAnswer f e 0 0) d') := by
  subst hp hd
  exact admin_answers (body := doSuspend) h rfl (by simp [isOp, hop]) _ fun _ => rfl

/-- RESUME: the tasks of the partition are placed again (R401). -/
theorem resume_answers (hop : cmdOp e = 0x13) :
    Answers (.resume f) s (runAct (adminAnswer f e 0 0) { d with parts := tabPut d.parts p { partOf d p with susp := false } }) := by
  subst hp
  exact admin_answers (body := doResume) h rfl (by simp [isOp, hop]) (pure ()) fun _ => rfl

/-- GEN_ALIGN answers the alignment's status (R272). -/
theorem genAlign_answers {st : Nat} {d1 : Dev} (hop : cmdOp e = 0x14) (halign : Runs (alignEsc p (fieldAt b 0 8)) d st d1) :
    Answers (.genAlign f) s (runAct (adminAnswer f e st 0) d1) := by
  subst hp
  exact admin_answers (body := doGenAlign) h rfl (by simp [isOp, hop]) (pure ()) fun _ => halign _

/-- ORPHAN_SET with a policy and times in range (R439, R446). -/
theorem orphanSet_answers (hop : cmdOp e = 0x15) (hpolicy : fieldAt b 0 1 ≤ 1) (hhold : fieldAt b 2 2 ≠ 0) (hmost : fieldAt b 2 2 ≤ 3600)
    (hlive : fieldAt b 4 2 = 0 ∨ 100 ≤ fieldAt b 4 2 ∧ fieldAt b 4 2 ≤ 60000) :
    Answers (.orphanSet f) s (runAct (do
      setReg .HIF_ORPHAN p.val 0 (fieldAt b 0 1 * 4096 + fieldAt b 2 2)
      onlyIf (fieldAt b 4 2 != 0) (setReg .HIF_LIVE_CTRL f.val 0 (fieldAt b 4 2))
      adminAnswer f e 0 0) d) := by
  subst hp
  refine admin_answers (body := doOrphanSet) h rfl (by simp [isOp, hop]) (do
    setReg .HIF_ORPHAN _ 0 (fieldAt b 0 1 * 4096 + fieldAt b 2 2)
    onlyIf (fieldAt b 4 2 != 0) (setReg .HIF_LIVE_CTRL f.val 0 (fieldAt b 4 2))) fun k => ?_
  rw [doOrphanSet]
  exact run_else (by omega) _ _

/-- REATTACH by a function of a partition that is held, or by an orphaned one, before its end policy has begun (R440). -/
theorem reattach_answers (hop : cmdOp e = 0x16) (hgone : (partOf d p).gone = false) (hmine : (fnOf d f).part = some p)
    (hheld : (partOf d p).held = true ∨ (fnOf d f).st = .orphaned) :
    Answers (.reattach f) s (runAct (do
      reattach f p
      adminAnswer f e 0 0) d) := by
  refine admin_answers (body := doReattach) h rfl (by simp [isOp, hop]) _ fun k => ?_
  rw [hp, doReattach, run_bind, run_look]
  obtain hheld | horphaned := hheld
  · exact run_else (by simp [hgone, hmine, hheld]) _ _
  · exact run_else (by simp [hgone, hmine, horphaned]) _ _

end

/-! Quotas (R402, R405–R407, R413). -/

/-- The greatest value that QUOTA takes, by its code (R601). -/
def quotaLimit : Nat → Nat
  | 0 => 6400
  | 1 | 2 => 2 ^ 32 - 1
  | 6 => 0
  | _ => 65535

/-- What QUOTA writes, by its code (R405–R407, R413). -/
def quotaWritten (p : PartId) (b : List Byte) : Nat → Act Unit
  | 0 => setReg .SCHED_QUOTA_SLOTS p.val 0 (fieldAt b 8 8)
  | 1 => setReg .SCHED_QUOTA_PILE p.val 0 (fieldAt b 8 8)
  | 2 => setReg .SCHED_QUOTA_BARL p.val 0 (fieldAt b 8 8)
  | 3 => setReg .SCHED_QUOTA_CHAN p.val 0 (fieldAt b 8 8)
  | 4 => setReg .SCHED_QUOTA_LINK p.val 0 (fieldAt b 8 8)
  | 5 => setPower p (fieldAt b 8 8)
  | _ => setMask p (b.drop 16)

/-- The low half of a quota's register as it stands. -/
def quotaNow (d : Dev) (p : PartId) (n : RegName) : Nat := bitsOf (regOf d n p.val) 15 0

/-- Whether the partition's quotas fit in what the others leave, with the one that a code names at value `v` (R402). -/
def quotaFits (d : Dev) (p : PartId) (v code : Nat) : Bool :=
  quotasFit d p (if code = 0 then v else quotaNow d p .SCHED_QUOTA_SLOTS) (if code = 3 then v else quotaNow d p .SCHED_QUOTA_CHAN)
    (if code = 1 then v else regOf d .SCHED_QUOTA_PILE p.val)

/-- QUOTA's block has the form that its code asks for: a value in range in an inline block, or a core mask in a block of host memory (R601). -/
def QuotaForm (b : List Byte) (code : Nat) : Prop :=
  code ≤ 5 ∧ fieldAt b 8 8 ≤ quotaLimit code ∧ b.length = 56 ∨ code = 6 ∧ b.length = 116 ∧ fieldsOnly b [(0, 1), (16, 100)] = true

theorem QuotaForm.inRange {b : List Byte} {code : Nat} (h : QuotaForm b code) :
    ¬ (6 < code ∨ quotaLimit code < fieldAt b 8 8 ∨ (code = 6) ≠ (b.length ≠ 56) ∨
      code = 6 ∧ (b.length ≠ 116 ∨ (!fieldsOnly b [(0, 1), (16, 100)]) = true)) := by
  obtain ⟨hcode, hv, hlen⟩ | ⟨rfl, hlen, hfields⟩ := h
  · have hvalue : code ≠ 6 := by omega
    simp only [hvalue, hlen, ne_eq, not_true_eq_false, false_and, or_false]
    omega
  · have hzero : fieldAt b 8 8 = 0 := fieldAt_eq_zero_of_fieldsOnly hfields fun i hlo hhi =>
      List.forall_mem_cons.2 ⟨by dsimp only; omega, List.forall_mem_singleton.2 (by dsimp only; omega)⟩
    simp [hlen, hfields, hzero]

section
variable {s : State} {f : FnId} {host e b : List Byte} {d : Dev} {p : PartId} (h : AdminTurn s.dev f host e b d) (hop : cmdOp e = 0x10)
  (hp : Fin.ofNat 16 (cmdPart e) = p)
include h hop hp

/-- QUOTA in form, with contexts for the thread slots it reserves and quotas that fit: the limit or mask that its code names is written (R402,
R405–R407, R413). -/
theorem quota_answers {code : Nat} {m : Act Unit} (hm : quotaWritten p b code = m) (hcode : fieldAt b 0 1 = code) (hform : QuotaForm b code)
    (hctx : code = 0 → fieldAt b 8 8 ≤ (partOf d p).ctx.length) (hfits : quotaFits d p (fieldAt b 8 8) code = true) :
    Answers (.quota f host) s (runAct (do
      m
      adminAnswer f e 0 0) d) := by
  subst hcode hm
  refine admin_answers (body := doQuota) h rfl (by simp [isOp, hop]) _ fun k => ?_
  have hcontext : ¬ (fieldAt b 0 1 = 0 ∧ (partOf d p).ctx.length < fieldAt b 8 8) := by
    rintro ⟨hzero, hless⟩
    exact absurd (hctx hzero) (not_le.2 hless)
  have hfit : ¬ (!quotaFits d p (fieldAt b 8 8) (fieldAt b 0 1)) = true := by simp [hfits]
  rw [hp, doQuota, run_bind, run_look]
  refine (run_else hform.inRange _ _).trans ?_
  refine (run_else hcontext _ _).trans ?_
  refine (run_else hfit _ _).trans ?_
  rcases fieldAt b 0 1 with _ | _ | _ | _ | _ | _ | _ <;> rfl

end

/-- Settles O38: each command has its turn with a block that its checks let pass. -/
theorem adminJobCommands : Obligations.AdminJobCommands := by
  refine ⟨fun s f e b d h => ⟨?start, jobEnd_answers h rfl, schedSet_answers h rfl, suspend_answers h rfl rfl, resume_answers h rfl,
      fun _ _ => genAlign_answers h rfl, orphanSet_answers h rfl, reattach_answers h rfl⟩,
    fun s f host e b d h hop => ⟨fun hlen => ?limits, fun hlen hcode hfields => ?mask⟩⟩
  case start =>
    exact fun id d1 hop hidle hchunks hleast hmost hsecs hlimit hms hserve hroom hid =>
      jobStart_answers h rfl rfl hop hidle ⟨hchunks, hleast, hmost, hsecs, hlimit, hms, hserve⟩ hroom hid
  case limits =>
    have hform {code : Nat} (hcode : code ≤ 5) (hv : fieldAt b 8 8 ≤ quotaLimit code) : QuotaForm b code := .inl ⟨hcode, hv, hlen⟩
    refine ⟨fun hcode hv hctx => ?slots, fun hcode hv => ?pile, fun hcode hv => ?chan,
      fun hfits => ⟨fun hcode hv => ?barl, fun hcode hv => ?link, fun hcode hv => ?power⟩⟩
    case slots => exact quota_answers h hop rfl rfl hcode (hform (by omega) hv) fun _ => hctx
    case pile => exact quota_answers h hop rfl rfl hcode (hform (by omega) (Nat.le_sub_one_of_lt hv)) nofun
    case chan => exact quota_answers h hop rfl rfl hcode (hform (by omega) hv) nofun
    case barl => exact quota_answers h hop rfl rfl hcode (hform (by omega) (Nat.le_sub_one_of_lt hv)) nofun hfits
    case link => exact quota_answers h hop rfl rfl hcode (hform (by omega) hv) nofun hfits
    case power => exact quota_answers h hop rfl rfl hcode (hform (by omega) hv) nofun hfits
  case mask => exact quota_answers h hop rfl rfl hcode (.inr ⟨rfl, hlen, hfields⟩) nofun

end Sys2Proof.Proofs

/-! SUPPORT. Actions that end and keep some reading of the module: what signalling an error keeps (R502, R510, R511, R536), and what reading memory
does (R281–R297). -/

namespace Sys2Proof.Proofs

open Sys2Proof.Machine Sys2Proof.Safety Sys2Proof.Laws

/-- The piles, and the channels and escapements that a partition's accesses depend on (R242, R315). -/
def pilesAndEnv (d : Dev) := (d.piles, d.chans, d.escs)

theorem envOf_congr {d d' : Dev} (h : (pilesAndEnv d').2 = (pilesAndEnv d).2) (p : PartId) : envOf d' p = envOf d p := by
  obtain ⟨hchans, hescs⟩ := Prod.mk.inj h
  simp only [envOf, escOf, openChan, chanBy, chanOf, hchans, hescs]

section
variable {α β γ : Type} {g : Tab PileId Pile × Tab ChanIdx Chan × Tab PartId Esc → γ}

/-- An action that ends from every module and leaves a part `g` of the piles, channels and escapements as it was. -/
structure Keeps (g : Tab PileId Pile × Tab ChanIdx Chan × Tab PartId Esc → γ) (m : Act α) : Prop where
  runs : ∀ d, ∃ a d', Runs m d a d' ∧ g (pilesAndEnv d') = g (pilesAndEnv d)

theorem Keeps.ends {m : Act α} (h : Keeps g m) : Ends m := fun d =>
  let ⟨a, d', hm, _⟩ := h.runs d
  ⟨a, d', hm⟩

/-- Where an action is known to run to, what it keeps is as before. -/
theorem Keeps.of_runs {m : Act α} (h : Keeps g m) {d e : Dev} {a : α} (hm : Runs m d a e) : g (pilesAndEnv e) = g (pilesAndEnv d) := by
  obtain ⟨b, d', hm', hkept⟩ := h.runs d
  have : e = d' := (hm fun _ => .done).symm.trans (hm' _)
  rw [this, hkept]

theorem Keeps.pure (a : α) : Keeps g (Pure.pure a : Act α) := ⟨fun d => ⟨a, d, runs_pure a d, rfl⟩⟩

theorem Keeps.look : Keeps g Machine.look := ⟨fun d => ⟨d, d, runs_look d, rfl⟩⟩

theorem Keeps.emit {e : Eff} (h : ∀ d, g (pilesAndEnv (e.apply d)) = g (pilesAndEnv d)) : Keeps g (Machine.emit e) :=
  ⟨fun d => ⟨(), e.apply d, runs_emit e d, h d⟩⟩

theorem Keeps.bind {m : Act α} {f : α → Act β} (h : Keeps g m) (hf : ∀ a, Keeps g (f a)) : Keeps g (m >>= f) where
  runs d :=
    let ⟨a, _, hm, hkept⟩ := h.runs d
    let ⟨b, d'', hn, hkept'⟩ := (hf a).runs _
    ⟨b, d'', runs_bind hm hn, hkept'.trans hkept⟩

theorem Keeps.onlyIf {b : Bool} {m : Act Unit} (h : Keeps g m) : Keeps g (Machine.onlyIf b m) := by
  cases b
  · exact .pure _
  · exact h

theorem Keeps.ite {c : Prop} [Decidable c] {m n : Act α} (h : Keeps g m) (h' : Keeps g n) : Keeps g (if c then m else n) := by
  split
  · exact h
  · exact h'

theorem Keeps.each {f : α → Act Unit} (h : ∀ a, Keeps g (f a)) : ∀ xs : List α, Keeps g (Machine.each xs f)
  | [] => .pure _
  | x :: xs => (h x).bind fun _ => Keeps.each h xs

/-! Registers, counters, debug settings, poison and power. -/

theorem keeps_setReg (n : RegName) (u i v : Nat) : Keeps g (setReg n u i v) := .emit fun _ => rfl

theorem keeps_orReg (n : RegName) (u i v : Nat) : Keeps g (orReg n u i v) := .bind .look fun _ => keeps_setReg ..

theorem keeps_setField (n : RegName) (u i hi lo v : Nat) : Keeps g (setField n u i hi lo v) := .bind .look fun _ => keeps_setReg ..

theorem keeps_count (c : CtrName) (u n i : Nat) : Keeps g (count c u n i) := .bind .look fun _ => (Keeps.emit fun _ => rfl).onlyIf

theorem keeps_draw : Keeps g draw := .bind .look fun _ => .bind (.emit fun _ => rfl) fun _ => .pure _

theorem keeps_updDbg (block : Nat) (f : DbgBlk → DbgBlk) : Keeps g (updDbg block f) := .bind .look fun _ => .emit fun _ => rfl

theorem keeps_clearBad (r : Region) (a n : Nat) : Keeps g (clearBad r a n) := .bind .look fun _ => (Keeps.emit fun _ => rfl).onlyIf

theorem keeps_addBad (r : Region) (ws : List Nat) : Keeps g (addBad r ws) := .bind .look fun _ => (Keeps.emit fun _ => rfl).onlyIf

theorem keeps_clearMap (lo len : Nat) : Keeps g (clearMap lo len) := .bind .look fun _ => .emit fun _ => rfl

theorem keeps_wakePile (pl : PileId) : Keeps g (wakePile pl) := .bind .look fun _ => (Keeps.emit fun _ => rfl).onlyIf

/-! Strikes, the log, and errors. -/

theorem keeps_strikeDrive (sources : Nat) : Keeps g (strikeDrive sources) := .bind .look fun _ => (Keeps.emit fun _ => rfl).onlyIf

theorem keeps_raiseStrike (sources : Nat) : Keeps g (raiseStrike sources) :=
  .bind .look fun _ => .ite (.bind (keeps_setField ..) fun _ => (keeps_strikeDrive _).onlyIf)
    (.bind (keeps_setReg ..) fun _ => .bind (keeps_setField ..) fun _ => .bind (keeps_count ..) fun _ => .bind (keeps_strikeDrive _) fun _ =>
      .bind .look fun _ => .bind (.emit fun _ => rfl) fun _ => .ite (keeps_setReg ..) (keeps_count ..))

theorem keeps_logAppend (proc level point : Nat) (p : Option PartId) (payload : List Byte) : Keeps g (logAppend proc level point p payload) :=
  .bind .look fun _ => .bind
    (Keeps.onlyIf (.bind (.emit fun _ => rfl) fun _ => .bind (.emit fun _ => rfl) fun _ => keeps_count ..)) fun _ => (keeps_raiseStrike _).onlyIf

theorem keeps_logAt (level proc : Nat) (p : Option PartId) : Keeps g (logAt level proc p) := keeps_draw.bind fun _ => keeps_logAppend ..

theorem keeps_logAny (level : Nat) (p : Option PartId) : Keeps g (logAny level p) := keeps_draw.bind fun _ => keeps_logAt ..

theorem keeps_logPile (level : Nat) (p : Option PartId) : Keeps g (logPile level p) :=
  .bind .look fun _ => .ite (.emit fun _ => rfl) (keeps_logAt ..).onlyIf

theorem keeps_corrected : Keeps g corrected := .bind (keeps_orReg ..) fun _ => keeps_count ..

theorem keeps_moduleError (source unit : Nat) : Keeps g (moduleError source unit) :=
  .bind .look fun _ => .bind (keeps_setReg ..).onlyIf fun _ => .bind (keeps_orReg ..) fun _ => .bind (keeps_logAny ..) fun _ => keeps_raiseStrike _

theorem keeps_auditBad (cls : Nat) : Keeps g (auditBad cls) := .bind (keeps_orReg ..) fun _ => keeps_moduleError ..

theorem keeps_giveBack (cls n : Nat) : Keeps g (giveBack cls n) :=
  .bind .look fun _ => .ite (.pure _) (.ite (.emit fun d => by rw [apply_ret]; split <;> rfl) (keeps_auditBad _))

/-! Injected errors, and a segment whose words fail. -/

theorem keeps_injected (block n : Nat) : Keeps g (injected block n) := Keeps.onlyIf (.bind (keeps_updDbg ..) fun _ => keeps_count ..)

theorem keeps_injectSegment (p : PartId) (seg : Nat) (whole : Bool) : Keeps g (injectSegment p seg whole) :=
  .bind .look fun _ => .bind (keeps_updDbg ..).onlyIf fun _ => Keeps.onlyIf (.bind (keeps_updDbg ..) fun _ => keeps_injected ..)

theorem keeps_injectSend (block : Nat) (pl : PileId) (n : Nat) : Keeps g (injectSend block pl n) :=
  .bind .look fun _ => Keeps.onlyIf (.bind (keeps_count ..) fun _ => .bind (.each (fun _ => keeps_corrected) _) fun _ => keeps_injected ..)

theorem keeps_takeSegment (seg : Nat) : Keeps g (takeSegment seg) := by
  refine .bind .look fun d => ?_
  dsimp only
  split
  · exact .pure _
  · exact .bind (keeps_updDbg ..) fun _ => .pure _

theorem keeps_poisonSeg (pa : Nat) : Keeps g (poisonSeg pa) :=
  .bind .look fun _ => .bind (Keeps.onlyIf (.bind (.emit fun _ => rfl) fun _ => keeps_count ..)) fun _ => keeps_orReg ..

theorem keeps_segError (pa : Nat) (first reread : List Nat) : Keeps g (segError pa first reread) := by
  refine .bind .look fun d => .ite (.pure _) (.bind (keeps_count ..) fun _ => .bind (.each (fun _ => keeps_corrected) _) fun _ => ?_)
  dsimp only
  split
  · exact .pure _
  · exact .bind (keeps_count ..) fun _ => .bind keeps_corrected fun _ => .bind (keeps_logPile ..) fun _ => .pure _
  · exact .bind (keeps_addBad ..) fun _ => .bind (keeps_poisonSeg _) fun _ => .bind (keeps_logPile ..) fun _ => .pure _

theorem keeps_checkSegment (pa : Nat) : Keeps g (checkSegment pa) :=
  .bind (keeps_takeSegment _) fun _ => Keeps.onlyIf (.bind (keeps_segError ..) fun _ => .pure _)

theorem keeps_remote (die : Option Nat) (pa n : Nat) (out : Bool) : Keeps g (remote die pa n out) := by
  cases die with
  | none => exact .pure _
  | some k => exact Keeps.onlyIf (.bind (keeps_count ..) fun _ => .ite (keeps_injectSend ..) (keeps_injectSend ..))

/-! Runs of sectors, and segments stored. -/

theorem keeps_markSectors (addr n : Nat) (used : Bool) : Keeps g (markSectors addr n used) :=
  .bind .look fun _ => .bind (.emit fun _ => rfl) fun _ => .emit fun _ => rfl

theorem keeps_writePa (pa : Nat) (bs : List Byte) (bad : List Nat) : Keeps g (writePa pa bs bad) :=
  .bind (.emit fun _ => rfl) fun _ => .bind (keeps_clearBad ..) fun _ => .bind .look fun _ => .bind (Keeps.emit fun _ => rfl).onlyIf fun _ =>
    .bind (keeps_addBad ..) fun _ => (keeps_poisonSeg _).onlyIf

theorem keeps_clearRun (a n : Nat) : Keeps g (clearRun a n) :=
  .bind (keeps_clearBad ..) fun _ => .bind .look fun _ => (Keeps.emit fun _ => rfl).onlyIf

theorem keeps_poisonRun (a n : Nat) : Keeps g (poisonRun a n) := .bind (keeps_addBad ..) fun _ => .each (fun _ => keeps_poisonSeg _) _

theorem keeps_failSegment (dir seg : Nat) : Keeps g (failSegment dir seg) := by
  refine .bind .look fun d => Keeps.onlyIf ?_
  split
  · exact .each (fun _ => keeps_poisonSeg _) _
  · exact keeps_poisonSeg _

end

/-! Reads through the piles' caches, whatever lines they move: the channels and escapements stay. -/

theorem keepsEnv_lineHit (pa : Nat) (data : Option LineData) (write : Bool) : Keeps Prod.snd (lineHit pa data write) := by
  refine .bind (keeps_wakePile _) fun _ => .bind .look fun d => ?_
  split
  · exact .bind (keeps_count ..) fun _ => .pure _
  · exact .bind (.emit fun _ => rfl) fun _ => .bind (keeps_count ..) fun _ => .pure _

theorem keepsEnv_storeComp (y : LineData) : Keeps Prod.snd (storeComp y) := by
  refine .bind .look fun d => ?_
  dsimp only
  split
  · exact .bind (keeps_orReg ..) fun _ => .pure _
  · refine .bind (keeps_markSectors ..) fun _ => .bind (.emit fun _ => rfl) fun _ => .bind (keeps_clearRun ..) fun _ =>
      .bind (keeps_injectSegment ..) fun _ => .bind (keeps_poisonRun ..).onlyIf fun _ => .bind (keepsEnv_lineHit ..) fun _ =>
      .bind (keeps_writePa ..) fun _ => ?_
    split
    · exact .bind (keeps_clearRun ..) fun _ => .bind (keeps_markSectors ..) fun _ => .bind (keeps_count ..) fun _ => .bind (keeps_count ..) fun _ => .pure _
    · exact .bind (keeps_count ..) fun _ => .bind (keeps_count ..) fun _ => .pure _

theorem keepsEnv_touch (p : PartId) (pa : Nat) (data : Option LineData) (alloc write : Bool) : Keeps Prod.snd (touch p pa data alloc write) := by
  refine .bind (keepsEnv_lineHit ..) fun _ => .ite (.pure _) (.bind .look fun d => ?_)
  split
  · refine .bind ?old fun _ => .bind (Keeps.onlyIf (.bind .look fun _ => .emit fun _ => rfl)) fun _ => .pure _
    split
    · refine .ite ?_ (.pure _)
      split
      · exact keepsEnv_storeComp _
      · exact .pure _
    · exact .pure _
  · exact .pure _

theorem keepsEnv_touchPlain (p : PartId) (pa : Nat) (alloc write : Bool) : Keeps Prod.snd (touchPlain p pa alloc write) :=
  .bind (keepsEnv_touch ..) fun _ => .pure _

theorem keepsEnv_readComp (p : PartId) (dir seg width : Nat) (alloc : Bool) : Keeps Prod.snd (readComp p dir seg width alloc) := by
  refine .bind .look fun d => .bind (Keeps.onlyIf (.bind (keepsEnv_touchPlain ..) fun _ => ?miss)) fun _ =>
    .bind .look fun _ => .bind (keepsEnv_touch ..) fun _ => .pure _
  split
  · exact .bind (.each (fun _ => keeps_checkSegment _) _) fun _ => keeps_failSegment ..
  · exact .bind (keeps_checkSegment _) fun _ => keeps_failSegment ..

theorem keepsEnv_touchTile (p : PartId) (fr off width : Nat) (comp alloc : Bool) : Keeps Prod.snd (touchTile p fr off width comp alloc) :=
  .each (fun _ => .ite (keepsEnv_readComp ..) (.bind (keepsEnv_touchPlain ..) fun _ => keeps_checkSegment _)) _

theorem keepsEnv_walkTouch (p : PartId) (va : Nat) : Keeps Prod.snd (walkTouch p va) :=
  .bind .look fun _ => .each (fun _ => .bind (keepsEnv_touchPlain ..) fun _ => (keeps_orReg ..).onlyIf) _

theorem keepsEnv_vaRead_go (env : Env) (p : PartId) (a : Acc) (segs : List (Nat × Nat × Nat)) (bs : List Byte) (bad : List Nat) :
    Keeps Prod.snd (vaRead.go env p a segs bs bad) := by
  induction segs generalizing bs bad with
  | nil => exact .pure _
  | cons x rest ih =>
    refine .bind (keepsEnv_walkTouch ..) fun _ => .bind .look fun d => ?_
    split
    · exact .pure _
    · exact .pure _
    · exact .pure _
    · split
      · exact .bind (keepsEnv_touchPlain ..) fun _ => .bind (keeps_remote ..) fun _ => .bind (keeps_checkSegment _) fun _ => .bind .look fun _ => ih _ _
      · exact .bind (keepsEnv_readComp ..) fun _ => .bind (keeps_remote ..) fun _ => .bind .look fun _ => ih _ _
      · exact .bind (keepsEnv_touchTile ..) fun _ => .bind (keeps_remote ..) fun _ => .bind .look fun _ => ih _ _
      · exact .bind .look fun _ => ih _ _

/-- A read of memory changes no channel and no escapement. -/
theorem keepsEnv_vaRead (env : Env) (p : PartId) (a : Acc) (va n : Nat) : Keeps Prod.snd (vaRead env p a va n) := keepsEnv_vaRead_go ..

end Sys2Proof.Proofs

/-! SUPPORT. What an access to a pile answers (R289, R295, R296), and how training, the patrol and a fence's scrub leave it (R299–R301). -/

namespace Sys2Proof.Proofs

open Sys2Proof.Machine Sys2Proof.Safety Sys2Proof.Laws

/-! Reads, writes and atomics. -/

section
variable {s : State} {p : PartId} {va : Nat} (ha : awake s.dev = true)
include ha

/-- A read that the tables refuse nothing. -/
theorem pileRead_refused_answers {n : Nat} {errs : SegErrors} {d d' : Dev} {r : Nat × Nat} (hwalk : Runs (walkTouch p va) s.dev () d)
    (hstored : (locate d p (envOf d p).odd (envOf d p).chanOk {} false va).1.stored d = none)
    (hread : Runs (vaRead (envOf d p) p {} va n) d (.error r) d') : Answers (.pileRead p va n errs) s d' := by
  refine answers_of_runs_bind rfl ha hwalk ?_
  rw [runAct_def, run_bind, run_look, hstored]
  have hline (l : Loc) : Runs (hurtLine l []) d () d := by cases l <;> exact fun _ => rfl
  exact (hline _ _).trans (hread _)

/-- A read of a stored segment: its bytes, with the words that failed for good marked (R296, R297). -/
theorem pileRead_stored_answers {n pa : Nat} {errs : SegErrors} {d e e1 e2 : Dev} {l : Loc} {ws bad : List Nat} {bs : List Byte}
    (hwalk : Runs (walkTouch p va) s.dev () d) (hl : (locate d p (envOf d p).odd (envOf d p).chanOk {} false va).1 = l)
    (hstored : l.stored d = some pa)
    (hseg : Runs (do
      segmentPath (pileOfPa pa) errs
      segError pa errs.first errs.reread) d ws e)
    (hline : Runs (hurtLine l ws) e () e1) (hread : Runs (vaRead (envOf d p) p {} va n) e1 (.ok (bs, bad)) e2) :
    Answers (.pileRead p va n errs) s { e2 with out := e2.out ++ [.pileData bs ((hurtWords l va n ws).foldl setIns bad)] } := by
  refine answers_of_runs_bind rfl ha hwalk ?_
  rw [runAct_def, run_bind, run_look, hl, hstored]
  exact (hseg _).trans ((hline _).trans (hread _))

/-- A write stores its bytes, all poisoned when it comes so, as far as its tables let it (R289, R501). -/
theorem pileWrite_answers {bs : List Byte} {poisoned : Bool} {link : LinkErrors} {d d' : Dev} {r : Except (Nat × Nat) Unit}
    (hlink : Runs (onSome ((locate s.dev p (envOf s.dev p).odd (envOf s.dev p).chanOk {} true va).1.stored s.dev) fun pa => linkPath (pileOfPa pa) link)
      s.dev () d)
    (hwrite : Runs (vaWrite (envOf d p) p {} va bs (if poisoned then allWords va bs.length else [])) d r d') :
    Answers (.pileWrite p va bs ⟨poisoned, link⟩) s d' :=
  answers_of_runAct rfl ha ((hlink _).trans (hwrite _))

/-- An unaligned atomic does nothing: the model's choice, since R295 speaks of words alone (log entry 65). -/
theorem pileAtomic_unaligned_answers (op : AtomicOp) (v : Word) (hva : va % 4 ≠ 0) : Answers (.pileAtomic p va op v) s s.dev := by
  refine answers_of_runAct (m := doPileAtomic p va op v.toNat) rfl ha ?_
  rw [runAct_def, doPileAtomic, run_onlyIf, if_neg (by simpa using hva)]
  rfl

end

/-- What an atomic does with its word once read: on a poisoned one nothing, else it stores its result and answers the old value (R295, R501). -/
def atomicDone (env : Env) (p : PartId) (va : Nat) (op : AtomicOp) (operand : Nat) (bs : List Byte) (bad : List Nat) : Act Unit :=
  if bad = [] then do
    let _ ← vaWrite env p { inner := true } va (leBytes 4 (atomicResult op (leNat bs) operand)) []
    emit (.out (.pileOld (leNat bs)))
  else pure ()

section
variable {s : State} {p : PartId} {va : Nat} {d : Dev} {bs : List Byte} {bad : List Nat} (ha : awake s.dev = true) (hva : va % 4 = 0)
  (hgranted : ∀ code, (locate s.dev p (envOf s.dev p).odd (envOf s.dev p).chanOk { inner := true } true va).1 ≠ .fault code)
  (hread : Runs (vaRead (envOf s.dev p) p {} va 4) s.dev (.ok (bs, bad)) d) (op : AtomicOp) (v : Word)
include ha hva hgranted hread

/-- An aligned atomic that the tables let through reads its word and goes on with it; the read leaves what its accesses depend on as it was. -/
theorem pileAtomic_answers {e : Dev} (hdone : runAct (atomicDone (envOf d p) p va op v.toNat bs bad) d = e) : Answers (.pileAtomic p va op v) s e := by
  refine answers_of_runAct (m := doPileAtomic p va op v.toNat) rfl ha ?_
  rw [envOf_congr ((keepsEnv_vaRead ..).of_runs hread)] at hdone
  rw [runAct_def, doPileAtomic, run_onlyIf, if_pos (by simp [hva]), run_bind, run_look, ← hdone]
  generalize (locate s.dev p (envOf s.dev p).odd (envOf s.dev p).chanOk { inner := true } true va).1 = l at hgranted
  cases l
  case fault code => exact absurd rfl (hgranted code)
  all_goals exact (hread _).trans (by cases bad <;> rfl)

theorem pileAtomic_poisoned_answers (hbad : bad ≠ []) : Answers (.pileAtomic p va op v) s d :=
  pileAtomic_answers ha hva hgranted hread op v (by rw [atomicDone, if_neg hbad]; rfl)

theorem pileAtomic_stored_answers {r : Except (Nat × Nat) Unit} {e : Dev} (hbad : bad = [])
    (hwrite : Runs (vaWrite (envOf d p) p { inner := true } va (leBytes 4 (atomicResult op (leNat bs) v.toNat)) []) d r e) :
    Answers (.pileAtomic p va op v) s { e with out := e.out ++ [.pileOld (leNat bs)] } :=
  pileAtomic_answers ha hva hgranted hread op v (by rw [atomicDone, if_pos hbad]; exact hwrite _)

end

/-! Upkeep. -/

/-- The scrub of a fence's region (R301): it is zero with fresh parity and no marks, its bytes count, and its units return. -/
def scrubRegion (pl : PileId) (f : Fence) : Act Unit := do
  wakePile pl
  emit (.zero .pile f.lo f.len)
  clearBad .pile f.lo f.len
  clearMap f.lo f.len
  updDbg (blockPile pl.val) fun x => { x with marks := x.marks.filter fun m => !(decide (f.lo ≤ 2048 * m.1) && decide (2048 * m.1 < f.lo + f.len)) }
  count .PILE_SCRUB_BYTES pl.val f.len
  giveBack 10 f.units

/-- The scrub leaves every pile's records as they are. -/
theorem keepsPiles_scrubRegion (pl : PileId) (f : Fence) : Keeps Prod.fst (scrubRegion pl f) :=
  .bind (keeps_wakePile _) fun _ => .bind (.emit fun _ => rfl) fun _ => .bind (keeps_clearBad ..) fun _ => .bind (keeps_clearMap ..) fun _ =>
    .bind (keeps_updDbg ..) fun _ => .bind (keeps_count ..) fun _ => keeps_giveBack ..

/-- The patrol goes on to its pile's next segment (R300, R482). -/
def patrolOn (pl : PileId) : Act Unit := do
  wakePile pl
  updPile pl fun y => { y with patrol := (y.patrol + 1) % 2 ^ 25 }

theorem runAct_updPile (pl : PileId) (f : Pile → Pile) (d : Dev) :
    runAct (updPile pl f) d = { d with piles := tabPut d.piles pl (f (pileOf d pl)) } := rfl

/-- Behind an action that keeps the piles, what a pile becomes may be said of the pile before it. -/
theorem runAct_then_updPile {m : Act Unit} (hm : Keeps Prod.fst m) {pl : PileId} {f f' : Pile → Pile} {d : Dev} (h : f (pileOf d pl) = f' (pileOf d pl)) :
    runAct (do m; updPile pl f) d = runAct (do m; updPile pl f') d := by
  have hpiles : pileOf (runAct m d) pl = pileOf d pl := by
    obtain ⟨_, d', hrun, hkept⟩ := hm.runs d
    rw [runAct_of_runs hrun, pileOf, show d'.piles = d.piles from hkept, pileOf]
  rw [hm.ends.runAct_then, hm.ends.runAct_then, runAct_updPile, runAct_updPile, hpiles, h]

section
variable {s : State} {pl : PileId} (ha : awake s.dev = true)
include ha

/-- The end of the training of a pile that trains: all its bytes are zero and it is ready, or it has failed (R299). -/
theorem pileTrainingDone_answers (htraining : (pileOf s.dev pl).training = true) (ok : Bool) :
    Answers (.pileTrainingDone pl ok) s (runAct (if ok then do
      emit (.zero .pile (pl.val * pileBytes) pileBytes)
      clearBad .pile (pl.val * pileBytes) pileBytes
      clearMap (pl.val * pileBytes) pileBytes
      updPile pl fun y => { y with
        training := false
        ready := true
        failed := false
        lines := []
        patrol := 0 }
    else updPile pl fun y => { y with
      training := false
      failed := true }) s.dev) := by
  refine answers_of_runAct (m := doPileTraining pl ok) rfl ha ?_
  rw [runAct_def, doPileTraining, run_bind, run_look, run_onlyIf, if_pos htraining]
  rfl

/-- The patrol of a ready pile that it is set for goes on to the next segment; the one it was at it reads, unless a line holds that dirty (R300). -/
theorem patrolRead_answers (hready : (pileOf s.dev pl).ready = true) (hset : bitsOf (regOf s.dev .PILE_CTRL pl.val) 31 24 ≠ 0) (errs : SegErrors) {pa : Nat}
    (hpa : pl.val * pileBytes + 2048 * (pileOf s.dev pl).patrol = pa) (dirty : Bool)
    (hdirty : ((pileOf s.dev pl).lines.any fun (l : Line) => l.tag == pa && l.data.isNone && l.dirty) = dirty) :
    Answers (.patrolRead pl errs) s (runAct (if dirty then patrolOn pl else do
      patrolOn pl
      segmentPath pl errs
      let _ ← segError pa errs.first errs.reread
      checkSegment pa) s.dev) := by
  subst hpa
  refine answers_of_runAct (m := doPatrol pl errs) rfl ha ?_
  rw [runAct_def, doPatrol, run_bind, run_look, run_onlyIf, if_pos (by simp [hready, hset])]
  dsimp only
  rw [hdirty]
  cases dirty <;> rfl

/-- The scrub of the first fence of a pile ends: its record goes, and a region that waited takes its place while MEM runs (R301). -/
theorem fenceScrubComplete_answers {f : Fence} {fs : List Fence} (hfences : (pileOf s.dev pl).fences = f :: fs) :
    Answers (.fenceScrubComplete pl) s (runAct (do
      scrubRegion pl f
      updPile pl fun y => { y with
        fences := fs ++ (if (procOf s.dev 3).st == .running then (pileOf s.dev pl).waiting.take 1 else [])
        waiting := (if (procOf s.dev 3).st == .running then (pileOf s.dev pl).waiting.drop 1 else (pileOf s.dev pl).waiting) }) s.dev) := by
  refine answers_of_runAct (m := doFenceScrub pl) rfl ha ?_
  rw [runAct_def, doFenceScrub, run_bind, run_look, hfences]
  exact runAct_then_updPile (keepsPiles_scrubRegion pl f) (by rw [hfences]; rfl)

end

/-- Settles O51: accesses by what the tables say of their address, upkeep by the state of the pile. -/
theorem piles : Obligations.Piles := by
  refine ⟨fun s p va ha => ⟨fun _ _ _ _ _ => pileRead_refused_answers ha, fun _ _ _ _ _ _ _ _ _ _ hwalk => pileRead_stored_answers ha hwalk rfl,
      fun _ _ _ _ _ _ => pileWrite_answers ha, pileAtomic_unaligned_answers ha, fun op v _ _ _ hva hgranted hread => ⟨?poisoned, fun _ _ => ?stored⟩⟩,
    fun s pl ha => ⟨fun htraining => ?trained, fun htraining => ?failed, fun errs hready hset => ⟨fun hdirty => ?skipped, fun hclean => ?read⟩,
      fun _ _ => fenceScrubComplete_answers ha⟩⟩
  case poisoned => exact pileAtomic_poisoned_answers ha hva hgranted hread op v
  case stored => exact pileAtomic_stored_answers ha hva hgranted hread op v
  case trained => exact pileTrainingDone_answers ha htraining true
  case failed => exact pileTrainingDone_answers ha htraining false
  case skipped => exact patrolRead_answers ha hready hset errs rfl true hdirty
  case read => exact patrolRead_answers ha hready hset errs rfl false hclean

end Sys2Proof.Proofs

/-! SUPPORT. What becomes of a message that arrives at an end of a channel (R349, R352, R356), and of a remote request and the answers to one
(R318, R357). -/

namespace Sys2Proof.Proofs

open Sys2Proof.Machine Sys2Proof.Safety Sys2Proof.Laws

/-! Messages that arrive. -/

section
variable {s : State} {h : Word} {i : ChanIdx} {c : Chan} (ha : awake s.dev = true) (hend : chanBy s.dev h.toNat = some (i, c))
include ha hend

/-- A command about a message whose handle names a live end does with that end what it does with any (R348, R351). -/
theorem answers_of_end {x : Instr} {n : Nat} {f : ChanIdx → Chan → Act Unit} {d : Dev} (he : exec x s = after (withEnd h.toNat n f) s)
    (hf : runAct (f i c) s.dev = d) : Answers x s d := by
  refine answers_of_runAct he ha ?_
  rw [runAct_def, withEnd, run_bind, run_look, hend]
  exact hf

/-- A command that only an OPEN or CLOSING end takes finds its frames stale at any other (R351). -/
theorem stale_answers {x : Instr} {msg : List Byte} {f : ChanIdx → Chan → Act Unit}
    (he : exec x s = after (withEnd h.toNat msg.length fun i c => if c.st ≠ .opened ∧ c.st ≠ .closing then staleFrames msg.length else f i c) s)
    (hshut : c.st ≠ .opened ∧ c.st ≠ .closing) : Answers x s (counted s.dev .TYL_STALE_FRAMES 0 (framesOf msg.length)) := by
  refine answers_of_end ha hend he ?_
  rw [if_pos hshut]
  exact run_count ..

/-- At an OPEN or CLOSING end such a command goes on. -/
theorem answers_of_openEnd {x : Instr} {n : Nat} {stale : Act Unit} {f : ChanIdx → Chan → Act Unit} {d : Dev}
    (he : exec x s = after (withEnd h.toNat n fun i c => if c.st ≠ .opened ∧ c.st ≠ .closing then stale else f i c) s)
    (hopen : c.st = .opened ∨ c.st = .closing) (hf : runAct (f i c) s.dev = d) : Answers x s d := by
  refine answers_of_end ha hend he ?_
  rw [if_neg fun ⟨hno, hnc⟩ => hopen.elim hno hnc]
  exact hf

section
variable {bs : List Byte} {tail : Bool} (hopen : c.st = .opened ∨ c.st = .closing)
include hopen

/-- A message beyond the credits given is stale, and ends the channel (R352). -/
theorem channelMessageArrival_beyondCredit_answers (hover : c.said.2 + c.slots ≤ c.landed) :
    Answers (.channelMessageArrival h bs tail) s (runAct (chanGiveUp i) (counted s.dev .TYL_STALE_FRAMES 0 (framesOf bs.length))) := by
  refine answers_of_openEnd ha hend rfl hopen ?_
  rw [if_pos hover]
  exact run_count ..

section
variable (hcredit : c.landed < c.said.2 + c.slots)
include hcredit

/-- A message longer than a ring slot ends the channel (R349). -/
theorem channelMessageArrival_tooLong_answers (hlong : c.slotBytes < bs.length) :
    Answers (.channelMessageArrival h bs tail) s (runAct (chanGiveUp i) s.dev) := by
  refine answers_of_openEnd ha hend rfl hopen ?_
  rw [if_neg hcredit.not_ge, if_pos hlong]

section
variable (hfits : bs.length ≤ c.slotBytes) {d : Dev}
include hfits

/-- A message that the ring cannot take ends the channel (R349). -/
theorem channelMessageArrival_ringLost_answers (hland : Runs (landInRing i bs tail) s.dev false d) :
    Answers (.channelMessageArrival h bs tail) s (runAct (chanGiveUp i) d) := by
  refine answers_of_openEnd ha hend rfl hopen ?_
  rw [if_neg hcredit.not_ge, if_neg hfits.not_gt, runAct_def, run_bind, hland]
  rfl

section
variable (hland : Runs (landInRing i bs tail) s.dev true d)
include hland

/-- A message of an engine channel whose type is none of the engines' is stale, and its ring slot is free again (R356). -/
theorem channelMessageArrival_noType_answers (hengine : c.kind = 3) (htype : fieldAt bs 0 1 = 0 ∨ 0x20 ≤ fieldAt bs 0 1) :
    Answers (.channelMessageArrival h bs tail) s (runAct (freeRingSlot i) (counted d .TYL_STALE_FRAMES 0 (framesOf bs.length))) := by
  refine answers_of_openEnd ha hend rfl hopen ?_
  rw [if_neg hcredit.not_ge, if_neg hfits.not_gt, runAct_def, run_bind, hland]
  dsimp only
  rw [if_neg (by decide), if_pos ⟨hengine, htype⟩]
  exact run_count ..

/-- Any other message that lands lets the receives of its end go on (R352, R355). -/
theorem channelMessageArrival_landed_answers (htype : c.kind ≠ 3 ∨ 1 ≤ fieldAt bs 0 1 ∧ fieldAt bs 0 1 < 0x20) :
    Answers (.channelMessageArrival h bs tail) s (runAct (pumpRecvAll i) d) := by
  refine answers_of_openEnd ha hend rfl hopen ?_
  rw [if_neg hcredit.not_ge, if_neg hfits.not_gt, runAct_def, run_bind, hland]
  dsimp only
  rw [if_neg (by decide), if_neg (by omega)]
  rfl

end
end
end
end

/-! Remote requests, at the end that serves them. -/

/-- The error that answers a remote request (R318). -/
def rmaRefusal (i : ChanIdx) (msg : List Byte) : Act Unit := sendRma i (rmaHead 4 (rmaLen msg) (rmaTag msg) (rmaVa msg))

/-- What answers a remote read, by what memory answers: its bytes where none of their words is poisoned, and an error otherwise (R318, R501; that poison is
answered with an error is the model's reading, log entry 63). -/
def rmaReadAnswer (i : ChanIdx) (msg : List Byte) : Except (Nat × Nat) (List Byte × List Nat) → Act Unit
  | .ok (bs, []) => sendRma i (rmaHead 2 (rmaLen msg) (rmaTag msg) (rmaVa msg) ++ bs)
  | _ => rmaRefusal i msg

/-- What a remote write comes to once memory has answered and left the module `d`: it counts in rma_done, or is answered with an error (R318, R357). -/
def rmaWriteAnswer (i : ChanIdx) (msg : List Byte) (d : Dev) : Except (Nat × Nat) Unit → Act Unit
  | .error _ => rmaRefusal i msg
  | .ok _ => onSome (chanOf d i) fun y => setChan i { y with
      rmaDone := y.rmaDone + 1
      changed := true }

section
variable {msg : List Byte} (hopen : c.st = .opened ∨ c.st = .closing)
include hopen

/-- A remote read that is not one the end serves is answered with an error (R318). -/
theorem rmaReadRequest_refused_answers (hbad : rmaOk c msg = false) : Answers (.rmaReadRequest h msg) s (runAct (rmaRefusal i msg) s.dev) := by
  refine answers_of_openEnd ha hend rfl hopen ?_
  rw [runAct_def, run_bind, run_look, hbad]
  rfl

/-- A remote write that is not one the end serves is answered with an error (R318). -/
theorem rmaWrite_refused_answers (hbad : rmaOk c msg = false) : Answers (.rmaWrite h msg) s (runAct (rmaRefusal i msg) s.dev) := by
  refine answers_of_openEnd ha hend rfl hopen ?_
  rw [runAct_def, run_bind, run_look, hbad]
  rfl

section
variable (hok : rmaOk c msg = true) {d : Dev}
include hok

/-- A remote read that the end serves is answered by what memory answers. -/
theorem rmaReadRequest_served_answers {r : Except (Nat × Nat) (List Byte × List Nat)}
    (hread : Runs (vaRead (envOf s.dev c.part) c.part { stream := true } (rmaVa msg) (rmaLen msg)) s.dev r d) :
    Answers (.rmaReadRequest h msg) s (runAct (rmaReadAnswer i msg r) d) := by
  refine answers_of_openEnd ha hend rfl hopen ?_
  rw [runAct_def, run_bind, run_look, hok]
  exact (hread _).trans (by rcases r with _ | ⟨_, _ | _⟩ <;> rfl)

/-- A remote write that the end serves is stored unless the tables refuse it, and comes to what memory answers. -/
theorem rmaWrite_served_answers {r : Except (Nat × Nat) Unit}
    (hwrite : Runs (vaWrite (envOf s.dev c.part) c.part { stream := true, next := !inOwnBank s.dev c.part (rmaVa msg) } (rmaVa msg)
      (padTo (rmaLen msg) 0#8 ((msg.drop 16).take (rmaLen msg))) []) s.dev r d) :
    Answers (.rmaWrite h msg) s (runAct (rmaWriteAnswer i msg d r) d) := by
  refine answers_of_openEnd ha hend rfl hopen ?_
  rw [runAct_def, run_bind, run_look, hok]
  exact (hwrite _).trans (by cases r <;> rfl)

end
end

/-! The answers to remote requests, at the end that asked. -/

section
variable {msg : List Byte} {r : RmaReq} (hreq : reqOf c (rmaTag msg) = some r)
include hreq

/-- The response to a read that is outstanding ends it, and its bytes land in the piece that asked (R357). -/
theorem rmaReadResponse_answers {d : Dev} (hread : r.write = false) (hended : Runs (endRma i r.tag) s.dev () d) :
    Answers (.rmaReadResponse h msg) s (runAct (onSome r.stream fun (co, st, j, id) =>
      onSome (pieceOf d co st j id) fun (_, _, q) => onlyIf (q.tag == some r.tag)
        (if q.tier = 4 then landFrame co st j q (msg.drop 16) false else landPiece co st j q (padTo q.len 0#8 ((msg.drop 16).take q.len)) [])) d) := by
  refine answers_of_end ha hend rfl ?_
  rw [hreq, runAct_def, run_onSome_some, hread]
  refine (hended _).trans ?_
  cases r.stream <;> rfl

/-- The error that answers a request ends it with a fault of code 6 or 7, a free value (log entries 2 and 63); the writes behind a write that was not
performed move up (R318, R357). -/
theorem rmaError_answers {v : Nat} {d : Dev} (hdraw : Runs draw s.dev v d) :
    Answers (.rmaError h msg) s (runAct (do
      setChan i { c with
        reqs := c.reqs.map fun y => if y.write && decide (r.num < y.num) && r.write then { y with num := y.num - 1 } else y
        rmaSent := if r.write then c.rmaSent - 1 else c.rmaSent }
      endRma i r.tag
      refreshLost c.part [r]
      onSome r.stream fun (co, st, j, id) => do
        let d ← look
        onSome (pieceOf d co st j id) fun (_, _, q) => onlyIf (q.tag == some r.tag) do
          if r.write then do
            dropPiece co st j q.id
            drainFault co st j (6 + v % 2) q.va 0x15
          else faultPiece co st j q (6 + v % 2) q.va) d) := by
  refine answers_of_end ha hend rfl ?_
  rw [hreq, runAct_def, run_onSome_some]
  exact hdraw _

end
end

/-- Settles O50: a message by the state of its end, its credit, its length and its type; a remote request by what the memory answers; an answer by the
request that it names. -/
theorem channelTraffic : Obligations.ChannelTraffic := by
  refine ⟨fun s h bs tail i c ha hend => ⟨fun hopen => ⟨fun d hcredit hfits hland => ⟨?landed, ?noType⟩, fun _ hcredit hfits hland => ?ringLost,
      fun hover => ?beyondCredit, fun hcredit hlong => ?tooLong⟩, fun hno hnc => stale_answers ha hend rfl ⟨hno, hnc⟩⟩,
    fun s h msg i c ha hend => ⟨fun hopen => ⟨fun r _ hok hread => ?served,
      fun hbad => ⟨rmaReadRequest_refused_answers ha hend hopen hbad, rmaWrite_refused_answers ha hend hopen hbad⟩,
      fun r _ hok hwrite => ?written⟩, fun hno hnc x hx => ?stale, fun r hreq => ⟨fun _ => ?response, fun _ _ => ?error⟩⟩⟩
  case landed => exact channelMessageArrival_landed_answers ha hend hopen hcredit hfits hland
  case noType => exact channelMessageArrival_noType_answers ha hend hopen hcredit hfits hland
  case ringLost => exact channelMessageArrival_ringLost_answers ha hend hopen hcredit hfits hland
  case beyondCredit => exact channelMessageArrival_beyondCredit_answers ha hend hopen hover
  case tooLong => exact channelMessageArrival_tooLong_answers ha hend hopen hcredit hlong
  case served => rcases r with _ | ⟨_, _ | _⟩ <;> exact rmaReadRequest_served_answers ha hend hopen hok hread
  case written => cases r <;> exact rmaWrite_served_answers ha hend hopen hok hwrite
  case stale =>
    simp only [List.mem_cons, List.not_mem_nil, or_false] at hx
    obtain rfl | rfl := hx <;> exact stale_answers ha hend rfl ⟨hno, hnc⟩
  case response => exact rmaReadResponse_answers ha hend hreq
  case error => exact rmaError_answers ha hend hreq

end Sys2Proof.Proofs

/-! SUPPORT. Which commands act with power only (R477, R491), and what a step adds to the record of what has left the module. -/

namespace Sys2Proof.Proofs

open Sys2Proof.Machine Sys2Proof.Safety Sys2Proof.Laws

/-- Settles O1: both are how a step is defined, by whether a command waits. That it is so is the model's choice (log entry 9). -/
theorem stepTakesTheFront : Obligations.StepTakesTheFront := by
  refine ⟨fun s c cs hwaiting => ?_, fun s hempty => ?_⟩
  · rw [step, hwaiting]
  · rw [step, hempty]

/-- Settles O6: a command carries out its action, and then the module's engines go on; there is no outcome but the next state. That none faults and none
is refused is the model's choice (log entry 15). -/
theorem everyCommandAnswers : Obligations.EveryCommandAnswers := by
  intro i s
  obtain ⟨m, hm⟩ := exec_eq_always i s
  exact ⟨settle (runAct m s.dev), hm⟩

/-! Without power. -/

/-- Every command but those of the contacts, the sideband and the always-on domain acts with power only. -/
theorem exec_eq_after {i : Instr} (h : unpowered i = false) (s : State) : ∃ m : Act Unit, exec i s = after m s := by
  cases i with
  | perstAssert | perstRelease | resetNoticeExpiry | fullReset | resetInput | powerApplied | inputSample | inputRecovery | vinEnBreak | thermalSensorSample
  | pldmBudgetEffecterSet | pldmSensorRead | mctpControlMessage | getVersion | getCapabilities | negotiateAlgorithms | getDigests | getCertificate
  | challenge | getMeasurements | spdmUnsupportedRequest | dynamicAddressAssignment => cases h
  | _ => exact ⟨_, rfl⟩

/-- A command that acts with power leaves a module without power as it is. -/
theorem after_asleep {s : State} (h : awake s.dev = false) (m : Act Unit) : after m s = .next s := by
  have hidle : runAct (guarded m) s.dev = s.dev := by
    rw [runAct_def, guarded, run_bind, run_look, run_onlyIf, h]
    rfl
  rw [after, hidle, settle_at_rest (.inl h)]

/-- Settles O7: every other command acts with power only. That it does nothing without is the model's choice (log entry 97). -/
theorem withoutPowerNothingHappens : Obligations.WithoutPowerNothingHappens := by
  intro i s hasleep hkind
  obtain ⟨m, hm⟩ := exec_eq_after hkind s
  rw [hm, after_asleep hasleep]

/-! What has left the module. -/

/-- Every effect keeps the record of what has left the module, and only the sending of something adds to it, at its end; a full reset keeps it. -/
theorem outKept_apply (d : Dev) (e : Eff) : OutKept d (e.apply d) := by
  have same (d : Dev) : OutKept d d := List.prefix_rfl
  cases e with
  | out o => exact List.prefix_append d.out [o]
  | latch _ v | stream _ _ v | task _ _ v | asm _ v | chan _ v => cases v <;> exact same _
  | ret | burnKey => rw [Eff.apply]; split <;> exact same _
  | _ => exact same _

/-- Settles O5: every effect only adds to the record, and so does every step. That what leaves the module is a record in its state is the model's choice
(log entry 16). -/
theorem stepKeepsSent : Obligations.StepKeepsSent := fun _ _ =>
  step_rel OutKept (fun _ => List.prefix_rfl) (fun _ _ _ => List.IsPrefix.trans) outKept_apply

end Sys2Proof.Proofs

/-! SUPPORT. The frames of commands that reach one part of the module: which effects their actions use, and what those leave as it was (R336, R342, R479,
R487, R525, R567). -/

namespace Sys2Proof.Proofs

open Sys2Proof.Machine Sys2Proof.Safety Sys2Proof.Laws

/-! Effects by what they reach. -/

/-- The effects on registers, counters, contacts, power, firmware and security records, and on what is sent. -/
def ControlEff : Eff → Prop
  | .reg _ _ | .ctr _ _ | .pins _ | .pwr _ | .fw _ | .secState _ _ _ _ _ | .out _ => True
  | _ => False

/-- The effects on registers, power and contacts. -/
def PowerEff : Eff → Prop
  | .reg _ _ | .pwr _ | .pins _ => True
  | _ => False

/-- The effects on registers, counters, links and firmware, and on what is sent. -/
def LinkEff : Eff → Prop
  | .reg _ _ | .ctr _ _ | .link _ _ | .fw _ | .out _ => True
  | _ => False

/-- What effects on control records leave as it was. -/
def ControlKept (d d' : Dev) : Prop :=
  d' = { d with regs := d'.regs, ctrs := d'.ctrs, pins := d'.pins, pwr := d'.pwr, fw := d'.fw, sec := d'.sec, out := d'.out }

/-- What effects on power leave as it was. -/
def PowerKept (d d' : Dev) : Prop := d' = { d with regs := d'.regs, pwr := d'.pwr, pins := d'.pins }

/-- What effects on links leave as it was. -/
def LinkKept (d d' : Dev) : Prop := d' = { d with regs := d'.regs, ctrs := d'.ctrs, links := d'.links, fw := d'.fw, out := d'.out }

theorem controlKept_of_only {m : Act Unit} (h : Only ControlEff m) (d : Dev) : ControlKept d (runAct m d) :=
  h.keeps ControlKept (fun _ => rfl) (fun _ _ _ h g => g.trans (by rw [h]))
    (fun _ e he => by cases e with
      | reg | ctr | pins | pwr | fw | secState | out => rfl
      | _ => exact he.elim) d

theorem powerKept_of_only {m : Act Unit} (h : Only PowerEff m) (d : Dev) : PowerKept d (runAct m d) :=
  h.keeps PowerKept (fun _ => rfl) (fun _ _ _ h g => g.trans (by rw [h]))
    (fun _ e he => by cases e with
      | reg | pwr | pins => rfl
      | _ => exact he.elim) d

theorem linkKept_of_only {m : Act Unit} (h : Only LinkEff m) (d : Dev) : LinkKept d (runAct m d) :=
  h.keeps LinkKept (fun _ => rfl) (fun _ _ _ h g => g.trans (by rw [h]))
    (fun _ e he => by cases e with
      | reg | ctr | link | fw | out => rfl
      | _ => exact he.elim) d

/-! The effects of the shared writes. -/

section
variable {Q : Eff → Prop}

theorem only_guarded {m : Act Unit} (h : Only Q m) : Only Q (guarded m) := (Only.look Q).bind fun _ => h.onlyIf

theorem only_setReg (n : RegName) (u i v : Nat) (hreg : ∀ k v, Q (.reg k v) := by exact fun _ _ => trivial) : Only Q (setReg n u i v) := .emit (hreg _ _)

theorem only_setField (n : RegName) (u i hi lo v : Nat) (hreg : ∀ k v, Q (.reg k v) := by exact fun _ _ => trivial) : Only Q (setField n u i hi lo v) :=
  (Only.look Q).bind fun _ => only_setReg _ _ _ _ hreg

theorem only_count (c : CtrName) (u n i : Nat) (hctr : ∀ k v, Q (.ctr k v) := by exact fun _ _ => trivial) : Only Q (count c u n i) :=
  (Only.look Q).bind fun _ => Only.onlyIf (.emit (hctr _ _))

theorem only_updPwr (f : Pwr → Pwr) (hpwr : ∀ x, Q (.pwr x) := by exact fun _ => trivial) : Only Q (updPwr f) :=
  (Only.look Q).bind fun _ => .emit (hpwr _)

theorem only_updPins (f : Pins → Pins) (hpins : ∀ x, Q (.pins x) := by exact fun _ => trivial) : Only Q (updPins f) :=
  (Only.look Q).bind fun _ => .emit (hpins _)

theorem only_updFw (f : Fw → Fw) (hfw : ∀ x, Q (.fw x) := by exact fun _ => trivial) : Only Q (updFw f) :=
  (Only.look Q).bind fun _ => .emit (hfw _)

end

/-! The sideband and SPDM. -/

theorem only_mctpSay (b : Binding) (kind : Nat) (bs : List Byte) : Only ControlEff (mctpSay b kind bs) := .emit trivial

theorem only_spdmError (b : Binding) (code : Nat) : Only ControlEff (spdmError b code) :=
  (only_count _ _ _ _).bind fun _ => only_mctpSay _ _ _

theorem only_answerSpdm (b : Binding) (r : SpdmReq) : Only ControlEff (answerSpdm b r) := by
  refine (Only.look _).bind fun d => (only_count _ _ _ _).bind fun _ => ?_
  cases r with
  | version | capabilities | digests => exact only_mctpSay _ _ _
  | algorithms sm2 sm3 =>
    exact .ite (fun _ => (Only.emit trivial).bind fun _ => only_mctpSay _ _ _) fun _ => (Only.emit trivial).bind fun _ => only_spdmError _ _
  | certificate slot | challenge slot => exact .ite (fun _ => only_mctpSay _ _ _) fun _ => only_spdmError _ _
  | measurements index signed nonce =>
    dsimp only
    split
    · exact only_spdmError _ _
    · exact only_mctpSay _ _ _
  | other code => exact only_spdmError _ _

theorem only_doSpdm (b : Binding) (r : SpdmReq) : Only ControlEff (doSpdm b r) :=
  (Only.look _).bind fun _ => Only.onlyIf (.ite (fun _ => only_answerSpdm _ _) fun _ => Only.onlyIf (only_updFw _))

theorem only_setBudget (w : Nat) : Only ControlEff (setBudget w) :=
  (Only.look _).bind fun _ => (only_setReg _ _ _ _).bind fun _ => only_updPwr _

theorem only_doBudget (b : Binding) (w : Nat) : Only ControlEff (doBudget b w) :=
  (Only.look _).bind fun _ => Only.onlyIf (.ite (fun _ => only_mctpSay _ _ _) fun _ =>
    .ite (fun _ => (only_setBudget _).bind fun _ => only_mctpSay _ _ _) fun _ => (only_updFw _).bind fun _ => only_mctpSay _ _ _)

theorem only_doSensor (b : Binding) (id : Nat) : Only ControlEff (doSensor b id) := (Only.look _).bind fun _ => Only.onlyIf (only_mctpSay _ _ _)

theorem only_doMctpControl (b : Binding) (type : Nat) (msg : List Byte) : Only ControlEff (doMctpControl b type msg) :=
  (Only.look _).bind fun _ => Only.onlyIf (.ite (fun _ => only_mctpSay _ _ _) fun _ =>
    Only.onlyIf (.ite (fun _ => only_mctpSay _ _ _) fun _ => only_mctpSay _ _ _))

theorem only_doDynamicAddress (a : Nat) : Only ControlEff (doDynamicAddress a) :=
  (Only.look _).bind fun _ => Only.onlyIf (only_updPins _)

/-! The power loops. -/

theorem only_setDom (i : Nat) (x : DomSt) : Only PowerEff (setDom i x) := only_updPwr _

theorem only_doThermalAdjust : Only PowerEff doThermalAdjust :=
  only_guarded ((Only.look _).bind fun _ => .each (fun _ => only_setField _ _ _ _ _ _) _)

theorem only_doBalEstimate (p : PartId) (w : Nat) : Only PowerEff (doBalEstimate p w) :=
  only_guarded ((Only.look _).bind fun _ => Only.onlyIf (only_setReg _ _ _ _))

theorem only_doBalBudget (r : Nat) : Only PowerEff (doBalBudget r) :=
  only_guarded ((Only.look _).bind fun _ => Only.onlyIf (.ite (fun _ => only_updPwr _) fun _ => only_setReg _ _ _ _))

theorem only_doClockGate (c : CoreId) : Only PowerEff (doClockGate c) :=
  only_guarded ((Only.look _).bind fun _ => Only.onlyIf (only_updPwr _))

theorem only_doPileSleep (pl : PileId) : Only PowerEff (doPileSleep pl) := only_guarded ((Only.look _).bind fun _ => Only.onlyIf (only_setDom _ _))

theorem only_doFabricSleep : Only PowerEff doFabricSleep := only_guarded ((Only.look _).bind fun _ => Only.onlyIf (only_setDom _ _))

theorem only_doDomainWake (i : Nat) : Only PowerEff (doDomainWake i) :=
  only_guarded ((Only.look _).bind fun _ => .ite (fun _ => Only.onlyIf (only_updPwr _)) fun _ =>
    Only.onlyIf (only_updPwr _))

theorem only_doLinkL1 (port : HostPort) (enter : Bool) : Only PowerEff (doLinkL1 port enter) :=
  only_guarded ((Only.look _).bind fun _ => .ite
    (fun _ => Only.onlyIf ((only_updPins _).bind fun _ => only_setDom _ _))
    fun _ => Only.onlyIf ((only_updPins _).bind fun _ => only_setDom _ _))

/-! Training and the timers of links. -/

theorem only_setLink (l : LinkId) (x : Link) : Only LinkEff (setLink l x) := .emit trivial

theorem only_sendLinkFrame (l : LinkId) (nak : Bool) : Only LinkEff (sendLinkFrame l nak) :=
  (Only.look _).bind fun _ => (Only.emit trivial).bind fun _ => only_setLink _ _

theorem only_startTraining (l : LinkId) (basic retry : Bool) : Only LinkEff (startTraining l basic retry) := by
  refine (Only.look _).bind fun d => ?_
  dsimp only
  split
  · exact .pure _ _
  · exact Only.onlyIf ((Only.onlyIf ((only_setReg _ _ _ _).bind fun _ => only_setReg _ _ _ _)).bind fun _ =>
      (Only.emit trivial).bind fun _ => only_setLink _ _)

theorem only_doTraining (l : LinkId) (retry : Bool) : Only LinkEff (doTraining l retry) :=
  (Only.look _).bind fun _ => Only.onlyIf (only_startTraining _ _ _)

theorem only_linkFailed (l : LinkId) (x : Link) : Only LinkEff (do setLink l x; count .TYL_LINK_FAILS l.val 1) :=
  (only_setLink _ _).bind fun _ => only_count _ _ _ _

theorem only_trainingOverrun (l : LinkId) : Only LinkEff (trainingOverrun l) := (Only.look _).bind fun _ => Only.onlyIf (only_linkFailed _ _)

theorem only_doTrainingDone (l : LinkId) (r : TrainResult) : Only LinkEff (doTrainingDone l r) :=
  (Only.look _).bind fun _ => Only.onlyIf ((Only.look _).bind fun _ => Only.onlyIf (.ite (fun _ => only_linkFailed _ _) fun _ => only_setLink _ _))

theorem only_doLinkFrameDue (l : LinkId) : Only LinkEff (doLinkFrameDue l) := (Only.look _).bind fun _ => Only.onlyIf (only_sendLinkFrame _ _)

theorem only_doNakRepeat (l : LinkId) : Only LinkEff (doNakRepeat l) :=
  (Only.look _).bind fun _ => Only.onlyIf ((only_count _ _ _ _).bind fun _ => only_sendLinkFrame _ _)

theorem only_laneReadmit (l : LinkId) (lane : LaneId) (runs : Bool) : Only LinkEff (laneReadmit l lane runs) :=
  (Only.look _).bind fun _ => Only.onlyIf ((only_setLink _ _).bind fun _ => only_sendLinkFrame _ _)

/-- Settles O9: each command's action uses effects of one kind only. -/
theorem systemFrames : Obligations.SystemFrames := by
  intro s
  have always {i : Instr} {m : Act Unit} (he : exec i s = always m s) (h : Only ControlEff m) : ∃ d, Answers i s d ∧ ControlKept s.dev d :=
    ⟨_, he, controlKept_of_only h _⟩
  have loop {i : Instr} {m : Act Unit} (he : exec i s = after m s) (h : Only PowerEff m) : ∃ d, Answers i s d ∧ PowerKept s.dev d :=
    ⟨_, he, powerKept_of_only (only_guarded h) _⟩
  have link {i : Instr} {m : Act Unit} (he : exec i s = after m s) (h : Only LinkEff m) : ∃ d, Answers i s d ∧ LinkKept s.dev d :=
    ⟨_, he, linkKept_of_only (only_guarded h) _⟩
  refine ⟨fun i hi => ?control, fun i hi => ?power, fun i hi => ?links⟩
  case control =>
    cases i with
    | pldmBudgetEffecterSet => exact always rfl (only_doBudget _ _)
    | pldmSensorRead => exact always rfl (only_doSensor _ _)
    | mctpControlMessage => exact always rfl (only_doMctpControl _ _ _)
    | getVersion | getCapabilities | negotiateAlgorithms | getDigests | getCertificate | challenge | getMeasurements | spdmUnsupportedRequest =>
      exact always rfl (only_doSpdm _ _)
    | dynamicAddressAssignment => exact always rfl (only_doDynamicAddress _)
    | _ => cases hi
  case power =>
    cases i with
    | thermalLoopAdjust => exact loop rfl only_doThermalAdjust
    | balEstimateUpdate => exact loop rfl (only_doBalEstimate _ _)
    | balBudgetAdjust => exact loop rfl (only_doBalBudget _)
    | coreClockGate => exact loop rfl (only_doClockGate _)
    | pileSelfRefreshTimer => exact loop rfl (only_doPileSleep _)
    | fabricSleep => exact loop rfl only_doFabricSleep
    | domainWake => exact loop rfl (only_doDomainWake _)
    | pcieLinkL1 => exact loop rfl (only_doLinkL1 _ _)
    | _ => cases hi
  case links =>
    cases i with
    | linkTraining | linkTrainingRetry => exact link rfl (only_doTraining _ _)
    | linkTrainingOverrun => exact link rfl (only_trainingOverrun _)
    | linkTrainingDone => exact link rfl (only_doTrainingDone _ _)
    | linkFrameDue => exact link rfl (only_doLinkFrameDue _)
    | nakRepeatTimer => exact link rfl (only_doNakRepeat _)
    | laneReadmitTimer => exact link rfl ((Only.look _).bind fun _ => only_laneReadmit _ _ _)
    | _ => cases hi

end Sys2Proof.Proofs

/-! SUPPORT. The training of links (R329, R330), the frames that arrive on a live link (R335–R338, R341), and its timers (R336–R338, R340, R342). -/

namespace Sys2Proof.Proofs

open Sys2Proof.Machine Sys2Proof.Safety Sys2Proof.Laws

@[simp] theorem run_setLink (l : LinkId) (x : Link) (k : Unit → Prog) (d : Dev) :
    Prog.run (setLink l x k) d = Prog.run (k ()) { d with links := tabPut d.links l x } := rfl

/-! Training. -/

/-- How a link of `lanes` lanes begins to train (R329): at the basic level LNK first writes its class and credit registers (R362; that the level is basic when
no PF has feature 16 is the model's reading, log entry 60). -/
def beginTraining (d : Dev) (l : LinkId) (lanes : Nat) : Act Unit := do
  onlyIf (linksBasic d) do
    setReg .TYL_LINK_CLS l.val 0 0x8422
    setReg .TYL_LINK_CRD l.val 0 (if lanes = 32 then 0x40201010 else if lanes = 16 then 0x20100808 else 0x10080404)
  emit (.fw { d.fw with tylId := some (bitsOf (regOf d .TYL_ID 0) 11 0) })
  setLink l { Link.empty with st := .training, lanes := lanes }

/-- A link whose training has ended well, on the lanes of `mask` (R329, R330). -/
def trainedLink (d : Dev) (l : LinkId) (r : TrainResult) (mask : Nat) : Link := { linkOf d l with
  st := if popcount mask = (linkOf d l).lanes then .up else .narrow
  peer := r.peer.toNat
  peerEng := r.peerEng.toNat
  peerPort := r.peerPort.toNat
  rtt := r.rttNs
  txMask := mask
  rxMask := mask
  crd := regOf d .TYL_LINK_CRD l.val
  cls := regOf d .TYL_LINK_CLS l.val }

/-- What the end of a training comes to, by its result and the lanes that passed (R329, R330). -/
def trainingResult (d : Dev) (l : LinkId) (r : TrainResult) (mask : Nat) : Act Unit :=
  if popcount mask < minLanes d l ∨ r.peerWidth ≠ (linkOf d l).lanes ∨ 4096 < r.rttNs then do
    setLink l { linkOf d l with st := .failed }
    count .TYL_LINK_FAILS l.val 1
  else setLink l (trainedLink d l r mask)

section
variable {s : State} {l : LinkId} (ha : awake s.dev = true)
include ha

section
variable {ls : List Nat} (hlnk : procRuns s.dev procLNK = true) (hdom : domOf s.dev (40 + l.val / 16) = .on) (hlanes : linkLanes s.dev l = some ls)
  (hon : bitOf (regOf s.dev .TYL_ENG_CTRL (l.val / 4)) 5 = true)
include hlnk hdom hlanes hon

/-- LNK begins to train a link of an enabled engine from the states that the command takes (R329). -/
theorem training_answers {i : Instr} {retry : Bool} (he : exec i s = after (doTraining l retry) s)
    (hst : (if retry then (linkOf s.dev l).st == .failed else (linkOf s.dev l).st == .down || (linkOf s.dev l).st == .failed) = true) :
    Answers i s (runAct (beginTraining s.dev l ls.length) s.dev) := by
  refine answers_of_runAct he ha ?_
  rw [runAct_def, doTraining, run_bind, run_look, run_onlyIf, if_pos (by simp [hlnk, hdom]), startTraining, run_bind, run_look]
  dsimp only
  rw [hlanes]
  dsimp only
  rw [run_onlyIf, if_pos (by rw [hst, hon]; rfl)]
  rfl

/-- LINK_TRAINING of a link that is down or has failed (R329). -/
theorem linkTraining_answers (hst : (linkOf s.dev l).st = .down ∨ (linkOf s.dev l).st = .failed) :
    Answers (.linkTraining l) s (runAct (beginTraining s.dev l ls.length) s.dev) :=
  training_answers (retry := false) ha hlnk hdom hlanes hon rfl (by obtain h | h := hst <;> simp [h])

/-- LINK_TRAINING_RETRY of a link that has failed (R329). -/
theorem linkTrainingRetry_answers (hst : (linkOf s.dev l).st = .failed) :
    Answers (.linkTrainingRetry l) s (runAct (beginTraining s.dev l ls.length) s.dev) :=
  training_answers (retry := true) ha hlnk hdom hlanes hon rfl (by simp [hst])

end

section
variable (hst : (linkOf s.dev l).st = .training)
include hst

/-- A training step over its bound fails the link (R329). -/
theorem linkTrainingOverrun_answers : Answers (.linkTrainingOverrun l) s
    (counted { s.dev with links := tabPut s.dev.links l { linkOf s.dev l with st := .failed } } .TYL_LINK_FAILS l.val 1) := by
  refine answers_of_runAct (m := trainingOverrun l) rfl ha ?_
  rw [runAct_def, trainingOverrun, run_bind, run_look, run_onlyIf, if_pos (by simp [hst]), run_bind, run_setLink, run_count]
  rfl

section
variable {r : TrainResult} (hlnk : procRuns s.dev procLNK = true) {mask : Nat} (hmask : r.lanesOk.toNat &&& laneMask ((linkOf s.dev l).trained l) = mask)
include hlnk hmask

/-- A training ends with its result (R329, R330). -/
theorem linkTrainingDone_answers : Answers (.linkTrainingDone l r) s (runAct (trainingResult s.dev l r mask) s.dev) := by
  refine answers_of_runAct (m := doTrainingDone l r) rfl ha ?_
  subst hmask
  rw [runAct_def, doTrainingDone, run_bind, run_look, run_onlyIf, if_pos hlnk, endTraining, run_bind, run_look, run_onlyIf, if_pos (by simp [hst])]
  rfl

theorem linkTrainingDone_failed_answers (hbad : popcount mask < minLanes s.dev l ∨ r.peerWidth ≠ (linkOf s.dev l).lanes ∨ 4096 < r.rttNs) :
    Answers (.linkTrainingDone l r) s
      (counted { s.dev with links := tabPut s.dev.links l { linkOf s.dev l with st := .failed } } .TYL_LINK_FAILS l.val 1) := by
  have h := linkTrainingDone_answers ha hst hlnk hmask
  rwa [trainingResult, if_pos hbad, runAct_def, run_bind, run_setLink, run_count] at h

theorem linkTrainingDone_live_answers (hlanes : minLanes s.dev l ≤ popcount mask) (hwidth : r.peerWidth = (linkOf s.dev l).lanes) (hrtt : r.rttNs ≤ 4096) :
    Answers (.linkTrainingDone l r) s { s.dev with links := tabPut s.dev.links l (trainedLink s.dev l r mask) } := by
  have h := linkTrainingDone_answers ha hst hlnk hmask
  have hgood : ¬ (popcount mask < minLanes s.dev l ∨ r.peerWidth ≠ (linkOf s.dev l).lanes ∨ 4096 < r.rttNs) := by omega
  rwa [trainingResult, if_neg hgood] at h

end
end
end

/-- Settles O47: a training by the state of its link, and its end by its result. -/
theorem linkTrainings : Obligations.LinkTrainings := by
  intro s l ha
  refine ⟨fun ls hlnk hdom hlanes hon =>
      ⟨linkTraining_answers ha hlnk hdom hlanes hon, linkTrainingRetry_answers ha hlnk hdom hlanes hon⟩,
    fun hst => linkTrainingOverrun_answers ha hst, fun r hst hlnk => ⟨linkTrainingDone_failed_answers ha hst hlnk rfl,
      linkTrainingDone_live_answers ha hst hlnk rfl⟩⟩

/-! Frames that arrive. -/

/-- A frame that is not taken: the NAK latch is set with one NAK (R338). -/
def nakOnce (l : LinkId) (x : Link) : Act Unit := do
  setLink l { x with nak := true }
  count .TYL_NAK_SENT l.val 1
  sendLinkFrame l true

/-- A link that has taken the frame it expected (R338). -/
def expectsNext (x : Link) : Link := { x with rxSeq := (x.rxSeq + 1) % 4096, nak := false, got := x.got + 1, owe := true }

/-- Whether a link frame asks for lanes anew (R341). -/
def asksAnew (x : Link) (w : Nat → Nat) : Bool := bitOf (w 3) 63 && x.lcnf.map (·.1) != some (bitsOf (w 3) 31 0)

/-- The credit counts that a link frame carries, by class (R335, R336). -/
def freedCounts (w : Nat → Nat) : List Nat := [bitsOf (w 2) 15 0, bitsOf (w 1) 63 48, bitsOf (w 1) 47 32, bitsOf (w 1) 31 16, bitsOf (w 1) 15 0]

/-- A link that has heard a link frame's words: its acknowledgement, credits and lanes (R335, R337, R341). -/
def heardLink (x : Link) (w : Nat → Nat) : Link :=
  let kept := ackFrames x.kept x.seq (bitsOf (w 0) 61 50)
  let mask := bitsOf (w 3) 31 0
  { x with
    kept := kept
    stuck := if kept.length < x.kept.length then 0 else x.stuck
    freedIn := freedCounts w
    rxMask := if bitOf (w 3) 62 then mask else x.rxMask
    lreq := if bitOf (w 3) 62 ∧ x.lreq = some mask then none else x.lreq
    txMask := if bitOf (w 3) 63 then mask else x.txMask
    lcnf := if asksAnew x w then some (mask, x.seq) else if bitOf (w 3) 63 then x.lcnf else none }

/-- The credits of a class that a link frame returns (R336, R343). -/
def creditGain (x : Link) (w : Nat → Nat) (k : Nat) : Nat :=
  min (x.outst k) (((freedCounts w).getD k 0 + 65536 - x.freedIn.getD k 0 % 65536) % 65536)

/-- What a whole link frame's words do (R335–R337, R341). -/
def linkFrameActs (l : LinkId) (x : Link) (w : Nat → Nat) : Act Unit := do
  setLink l { heardLink x w with st := (heardLink x w).widthSt }
  giveBack 2 (((List.range 5).map (creditGain x w)).foldl (· + ·) 0)
  onlyIf (asksAnew x w) (sendLinkFrame l false)
  onlyIf (bitOf (w 0) 49) (if 16 ≤ (heardLink x w).stuck then dropLink chanFail l .failed else replay l)
  pumpAll l

section
variable {s : State} {l : LinkId} {e : Dev} (ha : awake s.dev = true) (hw : Runs wakeFabric s.dev () e)
include ha hw

section
variable {x : Link} (hx : linkOf e l = x) (hlive : x.live = true)
include hx hlive

section
variable {ws : List DWord} {f : Frame} (hframe : frameOf (ws.map (·.toNat)) = some f) (hkind : bitsOf ((ws.map (·.toNat)).getD 0 0) 63 62 = 0)
include hframe hkind

/-- A whole data frame, by whether it is the one expected (R338). -/
theorem dataFrameReceived_whole_answers : Answers (.dataFrameReceived l ws []) s (runAct (if f.seq = x.rxSeq then do
      setLink l (expectsNext x)
      takeFrame l f
    else if x.nak then pure () else nakOnce l x) e) := by
  refine answers_of_runs_bind rfl ha hw ?_
  rw [runAct_def, doDataFrame, run_bind, run_look]
  dsimp only
  rw [hx, run_else (by simp [hlive]), hkind, hframe]
  rfl

theorem dataFrameReceived_expected_answers (hseq : f.seq = x.rxSeq) :
    Answers (.dataFrameReceived l ws []) s (runAct (takeFrame l f) { e with links := tabPut e.links l (expectsNext x) }) := by
  have h := dataFrameReceived_whole_answers ha hw hx hlive hframe hkind
  rwa [if_pos hseq, runAct_def, run_bind, run_setLink] at h

theorem dataFrameReceived_outOfOrder_answers (hseq : f.seq ≠ x.rxSeq) :
    Answers (.dataFrameReceived l ws []) s (runAct (if x.nak then pure () else nakOnce l x) e) := by
  have h := dataFrameReceived_whole_answers ha hw hx hlive hframe hkind
  rwa [if_neg hseq] at h

end

/-- A data frame with a parity error, or that is none, is not taken (R333, R338). -/
theorem dataFrameReceived_broken_answers {ws : List DWord} {bad : List Nat}
    (hbad : bad ≠ [] ∨ frameOf (ws.map (·.toNat)) = none ∨ bitsOf ((ws.map (·.toNat)).getD 0 0) 63 62 ≠ 0) :
    Answers (.dataFrameReceived l ws bad) s (runAct (if x.nak then pure () else nakOnce l x) e) := by
  refine answers_of_runs_bind rfl ha hw ?_
  rw [runAct_def, doDataFrame, run_bind, run_look]
  dsimp only
  rw [hx, run_else (by simp [hlive])]
  have hnone : (bad.isEmpty && bitsOf ((ws.map (·.toNat)).getD 0 0) 63 62 == 0) = false ∨ frameOf (ws.map (·.toNat)) = none := by
    obtain h | h | h := hbad
    · simp [h]
    · exact .inr h
    · exact .inl (by rw [beq_eq_false_iff_ne.2 h, Bool.and_false])
  obtain hbroken | hframe := hnone
  · rw [hbroken]
    rfl
  · rw [hframe]
    cases bad.isEmpty && bitsOf ((ws.map (·.toNat)).getD 0 0) 63 62 == 0 <;> rfl

/-- A whole link frame does what it carries (R335–R337, R341). -/
theorem linkFrameReceived_answers {ws : List DWord} (hkind : bitsOf ((ws.map (·.toNat)).getD 0 0) 63 62 = 1) :
    Answers (.linkFrameReceived l ws []) s (runAct (linkFrameActs l x fun i => (ws.map (·.toNat)).getD i 0) e) := by
  refine answers_of_runs_bind rfl ha hw ?_
  rw [runAct_def, doLinkFrame, run_bind, run_look]
  dsimp only
  rw [hx, run_else (by rw [hlive, hkind]; decide)]
  rfl

end

/-- A link frame with a parity error is discarded (R335). -/
theorem linkFrameReceived_broken_answers {ws : List DWord} {bad : List Nat} (hbad : bad ≠ []) : Answers (.linkFrameReceived l ws bad) s e := by
  refine answers_of_runs_bind rfl ha hw ?_
  rw [runAct_def, doLinkFrame, run_bind, run_look]
  dsimp only
  rw [run_ite, if_pos (by simp [hbad])]
  rfl

end

/-! The timers of a live link. -/

section
variable {s : State} {l : LinkId} (ha : awake s.dev = true) {x : Link} (hx : linkOf s.dev l = x) (hlive : x.live = true)
include ha hx hlive

theorem linkFrameDue_answers (howe : x.owe = true) (hgot : 64 ≤ x.got) : Answers (.linkFrameDue l) s (runAct (sendLinkFrame l false) s.dev) := by
  refine answers_of_runAct (m := doLinkFrameDue l) rfl ha ?_
  rw [runAct_def, doLinkFrameDue, run_bind, run_look, hx, run_onlyIf, if_pos (by simp [hlive, howe, hgot])]
  rfl

/-- Without progress the sender replays, or the link fails: that it fails at the next timer after the 16th replay is the model's reading of R337 (log entry
134). -/
theorem replayTimer_answers (hkept : x.kept ≠ []) :
    Answers (.replayTimer l) s (runAct (if 16 ≤ x.stuck then dropLink chanFail l .failed else replay l) s.dev) := by
  refine answers_of_runAct (m := doReplayTimer chanFail l) rfl ha ?_
  rw [runAct_def, doReplayTimer, run_bind, run_look, hx, run_else (by simp [hlive, hkept])]
  rfl

theorem nakRepeatTimer_answers (hnak : x.nak = true) :
    Answers (.nakRepeatTimer l) s (runAct (sendLinkFrame l true) (counted s.dev .TYL_NAK_SENT l.val 1)) := by
  refine answers_of_runAct (m := doNakRepeat l) rfl ha ?_
  rw [runAct_def, doNakRepeat, run_bind, run_look, hx, run_onlyIf, if_pos (by simp [hlive, hnak]), run_bind, run_count]
  rfl

/-- A link that counts one more fall of a lane (R340, R342). -/
def laneLost (x : Link) (lane : LaneId) : Link := { x with downs := tabPut x.downs lane (tabGet x.downs lane 0 + 1) }

section
variable {lane : LaneId} {mask : Nat} (hmask : x.lreq.getD x.rxMask = mask)
include hmask

/-- A lane that carries traffic is taken down: the receiver asks for the mask without it, which is a corrected error and an entry in the log (log entry 26), or
the link fails (R340, R341). -/
theorem laneDown_answers {i : Instr} (he : exec i s = after (laneDown chanFail l lane) s) (hbit : bitOf mask lane.val = true) :
    Answers i s (runAct (if popcount (mask - 2 ^ lane.val) < minLanes s.dev l then do
        setLink l (laneLost x lane)
        dropLink chanFail l .failed
      else do
        setLink l { laneLost x lane with lreq := some (mask - 2 ^ lane.val) }
        corrected
        logAt 2 2 none
        sendLinkFrame l false) (counted s.dev .TYL_LANE_DOWNS l.val 1)) := by
  refine answers_of_runAct he ha ?_
  rw [runAct_def, laneDown, run_bind, run_look]
  dsimp only
  rw [hx, hmask, run_else (by simp [hlive, hbit]), run_bind, run_count]
  rfl

/-- A lane that is down is asked for again once it has shown no error (R342). -/
theorem laneReadmitTimer_answers (hbit : bitOf mask lane.val = false) (hlnk : procRuns s.dev procLNK = true)
    (hmine : (x.trained l).contains lane.val = true) (hflap : tabGet x.downs lane 0 ≤ bitsOf (regOf s.dev .TYL_LANE_CTRL (l.val / 4)) 15 12) :
    Answers (.laneReadmitTimer l lane) s
      (runAct (sendLinkFrame l false) { s.dev with links := tabPut s.dev.links l { x with lreq := some (mask ||| 2 ^ lane.val) } }) := by
  refine answers_of_runs_bind rfl ha (runs_look _) ?_
  rw [runAct_def, laneReadmit, run_bind, run_look]
  dsimp only
  rw [hx, hmask, run_onlyIf, if_pos (by rw [hlive, hlnk, hmine, hbit, decide_eq_true hflap]; rfl), run_bind, run_setLink]
  rfl

end
end

/-- Settles O48: each frame by its kind and its number, and each timer of a live link. -/
theorem linkFramesAndTimers : Obligations.LinkFramesAndTimers := by
  refine ⟨fun s l e ha hw => ⟨fun ws f hlive hframe hkind => ?whole, fun ws bad hlive hbad => ?broken,
    fun ws hlive hkind => linkFrameReceived_answers ha hw rfl hlive hkind, fun _ _ hbad => linkFrameReceived_broken_answers ha hw hbad⟩,
    fun s l ha hlive => ⟨linkFrameDue_answers ha rfl hlive, ?replay, ?failed, nakRepeatTimer_answers ha rfl hlive, fun lane =>
      ⟨fun i hi hbit => ?laneDown, laneReadmitTimer_answers ha rfl hlive rfl⟩⟩⟩
  case whole =>
    refine ⟨dataFrameReceived_expected_answers ha hw rfl hlive hframe hkind, fun hseq hnak => ?_, fun hseq hnak => ?_⟩
    · have h := dataFrameReceived_outOfOrder_answers ha hw rfl hlive hframe hkind hseq
      rwa [if_neg (by simp [hnak])] at h
    · have h := dataFrameReceived_outOfOrder_answers ha hw rfl hlive hframe hkind hseq
      rwa [if_pos hnak] at h
  case broken =>
    have h := dataFrameReceived_broken_answers ha hw rfl hlive hbad
    exact ⟨fun hnak => by rwa [if_neg (by simp [hnak])] at h, fun hnak => by rwa [if_pos hnak] at h⟩
  case replay =>
    intro hkept hstuck
    have h := replayTimer_answers ha rfl hlive hkept
    rwa [if_neg hstuck.not_ge] at h
  case failed =>
    intro hkept hstuck
    have h := replayTimer_answers ha rfl hlive hkept
    rwa [if_pos hstuck] at h
  case laneDown =>
    have he : exec i s = after (laneDown chanFail l lane) s := by obtain rfl | rfl := hi <;> rfl
    have h := laneDown_answers ha rfl hlive rfl he hbit
    exact ⟨fun hlanes => by rwa [if_neg hlanes.not_gt] at h, fun hlanes => by rwa [if_pos hlanes] at h⟩

end Sys2Proof.Proofs

/-! SUPPORT. What becomes of a maintenance message at the end it names, and what an end's timers do (R350–R352). -/

namespace Sys2Proof.Proofs

open Sys2Proof.Machine Sys2Proof.Safety Sys2Proof.Laws

@[simp] theorem run_setChan (i : ChanIdx) (c : Chan) (k : Unit → Prog) (d : Dev) :
    Prog.run (setChan i c k) d = Prog.run (k ()) { d with chans := tabPut d.chans i c } := rfl

/-- The end that a live handle names stands at its index (R348). -/
theorem chanOf_of_chanBy {d : Dev} {h : Nat} {i : ChanIdx} {c : Chan} (hend : chanBy d h = some (i, c)) : chanOf d i = some c := by
  rw [chanBy] at hend
  split at hend
  next c' hc =>
    split at hend
    · cases hend
      exact hc
    · cases hend
  next => cases hend

/-- A module one of whose ends is open to its peer (R351). -/
def endOpened (d : Dev) (i : ChanIdx) (c : Chan) (peerH slots : Nat) : Dev :=
  { d with chans := tabPut d.chans i { c with st := .opened, peerH := peerH, pSlots := slots } }

theorem run_openEnd {d : Dev} {i : ChanIdx} {c : Chan} (hc : chanOf d i = some c) (peerH slots : Nat) (k : Unit → Prog) :
    Prog.run (openEnd i peerH slots k) d = Prog.run (k ()) (endOpened d i c peerH slots) := by
  rw [openEnd, run_bind, run_look, hc]
  rfl

/-- A message whose handle names no live end is stale (R351). -/
theorem answers_of_noEnd {s : State} {h : Word} {x : Instr} {n : Nat} {f : ChanIdx → Chan → Act Unit} (ha : awake s.dev = true)
    (hnone : chanBy s.dev h.toNat = none) (he : exec x s = after (withEnd h.toNat n f) s) : Answers x s (counted s.dev .TYL_STALE_FRAMES 0 (framesOf n)) := by
  refine answers_of_runAct he ha ?_
  rw [runAct_def, withEnd, run_bind, run_look, hnone]
  exact run_count ..

section
variable {s : State} {h : Word} {i : ChanIdx} {c : Chan} {msg : List Byte} (ha : awake s.dev = true) (hend : chanBy s.dev h.toNat = some (i, c))
include ha hend

/-! HELLO and HELLO_ACK. -/

section
variable (hpeer : fieldAt msg 2 2 = c.peer)
include hpeer

/-- A HELLO of another shape fails an end that is not closing (R351, log entry 62). -/
theorem hello_otherShape_answers (hshape : fieldAt msg 1 1 ≠ c.shape) (hst : c.st = .listen ∨ c.st = .connecting ∨ c.st = .opened) :
    Answers (.hello h msg) s (runAct (chanFail i) s.dev) := by
  refine answers_of_end ha hend rfl ?_
  rw [if_neg (by simp [hpeer])]
  obtain hst | hst | hst := hst <;> rw [hst] <;> dsimp only <;> rw [if_pos hshape]

section
variable (hshape : fieldAt msg 1 1 = c.shape)
include hshape

/-- A HELLO opens a listening end, which answers it (R351). -/
theorem hello_listen_answers (hst : c.st = .listen) :
    Answers (.hello h msg) s (runAct (sendMaint i 2) (endOpened s.dev i c (fieldAt msg 4 4) (fieldAt msg 8 4))) := by
  refine answers_of_end ha hend rfl ?_
  rw [if_neg (by simp [hpeer]), hst]
  dsimp only
  rw [if_neg (by simp [hshape]), runAct_def, run_bind, run_openEnd (chanOf_of_chanBy hend)]
  rfl

/-- A HELLO opens a connecting end, whose messages go out (R351). -/
theorem hello_connecting_answers (hst : c.st = .connecting) :
    Answers (.hello h msg) s (runAct (pumpChanAll i) (endOpened s.dev i c c.peerH (fieldAt msg 8 4))) := by
  refine answers_of_end ha hend rfl ?_
  rw [if_neg (by simp [hpeer]), hst]
  dsimp only
  rw [if_neg (by simp [hshape]), runAct_def, run_bind, run_openEnd (chanOf_of_chanBy hend)]
  rfl

/-- An open end answers a HELLO again: R351 is silent on it, and this is the model's reading (log entry 62). -/
theorem hello_opened_answers (hst : c.st = .opened) : Answers (.hello h msg) s (runAct (sendMaint i 2) s.dev) := by
  refine answers_of_end ha hend rfl ?_
  rw [if_neg (by simp [hpeer]), hst]
  dsimp only
  rw [if_neg (by simp [hshape])]

end
end

/-- A HELLO_ACK opens a connecting end (R351). -/
theorem helloAck_answers (hst : c.st = .connecting) :
    Answers (.helloAck h msg) s (runAct (pumpChanAll i) (endOpened s.dev i c c.peerH (fieldAt msg 8 4))) := by
  refine answers_of_end ha hend rfl ?_
  rw [runAct_def, run_onlyIf, if_pos (by simp [hst]), run_bind, run_openEnd (chanOf_of_chanBy hend)]
  rfl

/-! STATUS, BYE and BYE_ABORT. -/

/-- STATUS moves what the peer has landed, freed and done (R352). -/
theorem channelStatus_answers (hst : c.st = .opened ∨ c.st = .closing) : Answers (.channelStatus h msg) s (runAct (do
      each (c.reqs.filter fun r => r.write && decide (r.num < later c.pRma (fieldAt msg 0x14 4))) fun r => endRma i r.tag
      chanLanded i
      closeCheck i) { s.dev with chans := tabPut s.dev.chans i { c with
        pSlots := fieldAt msg 8 4
        pLanded := later c.pLanded (fieldAt msg 0xC 4)
        pFreed := later c.pFreed (fieldAt msg 0x10 4)
        pRma := later c.pRma (fieldAt msg 0x14 4) } }) := by
  refine answers_of_end ha hend rfl ?_
  rw [runAct_def, run_onlyIf, if_pos (by obtain hst | hst := hst <;> simp [hst])]
  rfl

/-- BYE at a closing end (R351). -/
theorem bye_closing_answers (hst : c.st = .closing) :
    Answers (.bye h msg) s (runAct (closeCheck i) { s.dev with chans := tabPut s.dev.chans i { c with byeIn := true } }) := by
  refine answers_of_end ha hend rfl ?_
  rw [runAct_def, run_onlyIf, if_pos (by simp [hst]), run_bind, run_onlyIf, if_neg (by simp [hst]), run_bind, run_look, chanOf_of_chanBy hend]
  rfl

/-- BYE at an open end, which starts to close (R351). -/
theorem bye_opened_answers {d : Dev} {c' : Chan} (hst : c.st = .opened) (hclose : Runs (startClosing i) s.dev () d) (hc' : chanOf d i = some c') :
    Answers (.bye h msg) s (runAct (closeCheck i) { d with chans := tabPut d.chans i { c' with byeIn := true } }) := by
  refine answers_of_end ha hend rfl ?_
  rw [runAct_def, run_onlyIf, if_pos (by simp [hst]), run_bind, run_onlyIf, if_pos (by simp [hst]), hclose, run_bind, run_look, hc']
  rfl

end

/-! Timers. -/

section
variable {s : State} {i : ChanIdx} {c : Chan} (ha : awake s.dev = true) (hc : chanOf s.dev i = some c)
include ha hc

/-- HELLO is repeated up to eight times (R351). -/
theorem helloRepeatTimer_answers (hst : c.st = .connecting) : Answers (.helloRepeatTimer i) s (runAct (if 8 ≤ c.hellos then chanFail i else do
      setChan i { c with hellos := c.hellos + 1 }
      sendMaint i 1) s.dev) := by
  refine answers_of_runAct (m := doHelloRepeat i) rfl ha ?_
  rw [runAct_def, doHelloRepeat, run_bind, run_look, hc, run_onSome_some, run_onlyIf, if_pos (by simp [hst])]
  rfl

/-- An open end whose messages do not land, or whose requests are not answered, gives up (R352). -/
theorem channelTimeout_answers (hst : c.st = .opened) (hwaits : c.pLanded < c.sent ∨ c.reqs ≠ []) :
    Answers (.channelTimeout i) s (runAct (chanGiveUp i) s.dev) := by
  refine answers_of_runAct (m := doChanTimeout i) rfl ha ?_
  rw [runAct_def, doChanTimeout, run_bind, run_look, hc, run_onSome_some, run_onlyIf, if_pos (by simpa [hst] using hwaits)]
  rfl

/-- A closing end that is not answered is released, and counts (R351). -/
theorem closingTimeout_answers (hst : c.st = .closing) :
    Answers (.closingTimeout i) s (runAct (chanRelease i) (counted s.dev .TYL_CHAN_FAILS 0 1)) := by
  refine answers_of_runAct (m := doClosingTimeout i) rfl ha ?_
  rw [runAct_def, doClosingTimeout, run_bind, run_look, hc, run_onSome_some, run_onlyIf, if_pos (by simp [hst]), run_bind, run_count]
  rfl

/-- A status owed is sent (R352). -/
theorem statusSendTimer_answers (howed : c.changed = true) (hst : c.st = .opened ∨ c.st = .closing) :
    Answers (.statusSendTimer i) s (runAct (sendStatus i) s.dev) := by
  refine answers_of_runAct (m := doStatusTimer i) rfl ha ?_
  rw [runAct_def, doStatusTimer, run_bind, run_look, hc, run_onSome_some, run_onlyIf, if_pos (by simpa [howed] using hst)]
  rfl

end

/-- Settles O49: each message by the state of its end, and each timer. -/
theorem channelControl : Obligations.ChannelControl := by
  refine ⟨fun s h msg ha => ⟨fun hnone x hx => ?stale, fun i c hend => ⟨fun hpeer hshape => ⟨hello_listen_answers ha hend hpeer hshape,
        hello_connecting_answers ha hend hpeer hshape, hello_opened_answers ha hend hpeer hshape⟩,
      hello_otherShape_answers ha hend, helloAck_answers ha hend, channelStatus_answers ha hend, bye_closing_answers ha hend,
      fun d c' => bye_opened_answers ha hend, answers_of_end ha hend rfl rfl⟩⟩,
    fun s i c ha hc => ⟨fun hst hfew => ?again, fun hst hmany => ?giveUp, channelTimeout_answers ha hc, closingTimeout_answers ha hc,
      statusSendTimer_answers ha hc⟩⟩
  case stale =>
    simp only [List.mem_cons, List.not_mem_nil, or_false] at hx
    obtain rfl | rfl | rfl | rfl | rfl := hx <;> exact answers_of_noEnd ha hnone rfl
  case again =>
    have h := helloRepeatTimer_answers ha hc hst
    rwa [if_neg hfew.not_ge] at h
  case giveUp =>
    have h := helloRepeatTimer_answers ha hc hst
    rwa [if_pos hmany] at h

end Sys2Proof.Proofs

/-! SUPPORT. The doorbells and the moderation timer of a function's rings (R423, R430, R431), and the descriptors that the step builder fetches from them (R408,
R409, R424, R425, R427). -/

namespace Sys2Proof.Proofs

open Sys2Proof.Machine Sys2Proof.Safety Sys2Proof.Laws

/-! Doorbells. -/

/-- Whether a work doorbell's count moves backwards or runs ahead of ring `r` (R423). -/
abbrev bellFar (d : Dev) (f : FnId) (r : RingId) (cnt : Nat) : Prop :=
  2 ^ 31 ≤ (cnt + 2 ^ 32 - (ringOf d f r).bell) % 2 ^ 32 ∨
    2 ^ bitsOf (regOf d .HIF_WRING_CTRL f.val r.val) 4 0 < (cnt + 2 ^ 32 - (ringOf d f r).fetched) % 2 ^ 32

section
variable {s : State} {f : FnId} {r : RingId} {cnt : Word} {e : Dev} (hr : reaches s.dev f = true) (hw : Runs wakeFabric s.dev () e)
include hr hw

section
variable (hon : bitOf (regOf s.dev .HIF_WRING_CTRL f.val r.val) 8 = true) (hgoes : (ringOf s.dev f r).stopped = false)
include hon hgoes

/-- A work doorbell of an enabled ring, by whether its count is within the ring (R423). -/
theorem run_workDoorbell (k : Unit → Prog) : Prog.run (doWorkDoorbell f r cnt.toNat k) s.dev = Prog.run
    ((if bellFar s.dev f r cnt.toNat then ringError f r cnt.toNat else setRing f r { ringOf s.dev f r with bell := cnt.toNat }) k) e := by
  rw [doWorkDoorbell, run_bind, run_look, run_onlyIf, if_pos hr, run_bind, hw, run_onlyIf, if_pos (by simp [hon, hgoes])]

theorem workDoorbell_within_answers (hnear : ¬ bellFar s.dev f r cnt.toNat) :
    Answers (.workDoorbell f r cnt) s (runAct (setRing f r { ringOf s.dev f r with bell := cnt.toNat }) e) := by
  refine answers_of_runAct rfl (awake_of_reaches hr) ?_
  rw [runAct_def, run_workDoorbell hr hw hon hgoes, run_else hnear]
  rfl

theorem workDoorbell_error_answers (hfar : bellFar s.dev f r cnt.toNat) : Answers (.workDoorbell f r cnt) s (runAct (ringError f r cnt.toNat) e) := by
  refine answers_of_runAct rfl (awake_of_reaches hr) ?_
  rw [runAct_def, run_workDoorbell hr hw hon hgoes, run_ite, if_pos hfar]
  rfl

end

/-- A completion doorbell frees entries, and those held that now have room are written (R430). -/
theorem completionDoorbell_answers {e' : Dev} (hset : Runs (setRing f r { ringOf s.dev f r with consumed := cnt.toNat }) e () e')
    (hactive : (fnOf e' f).st = .active) :
    Answers (.completionDoorbell f r cnt) s (runAct (drainHold ((fnOf e' f).hold.length + 1) f) e') := by
  refine answers_of_runAct (m := doCplDoorbell f r cnt.toNat) rfl (awake_of_reaches hr) ?_
  rw [runAct_def, doCplDoorbell, run_bind, run_look, run_onlyIf, if_pos hr, run_bind, hw, run_bind, hset, run_bind, run_look, run_onlyIf,
    if_pos (by simp [hactive])]
  rfl

omit hw in
/-- The moderation timer signals what is unsignalled (R431). -/
theorem msixModerationTimer_answers {e' : Dev} (hactive : (fnOf s.dev f).st = .active) (hunsig : (ringOf s.dev f r).unsig ≠ 0)
    (hset : Runs (setRing f r { ringOf s.dev f r with unsig := 0 }) s.dev () e') :
    Answers (.msixModerationTimer f r) s { e' with out := e'.out ++ [.msix f (bitsOf (regOf s.dev .HIF_CRING_CTRL f.val r.val) 13 8)] } := by
  have ha := awake_of_reaches hr
  refine answers_of_runAct (m := doMsixTimer f r) rfl ha ?_
  rw [runAct_def, doMsixTimer, guarded, run_bind, run_look, run_onlyIf, if_pos ha, run_bind, run_look, run_onlyIf,
    if_pos (by simp [hactive, hunsig]), run_bind, hset]
  rfl

end

/-- Settles O35: a doorbell by whether its count is within its ring, and the timer. -/
theorem ringDoorbells : Obligations.RingDoorbells := fun _ _ _ _ _ hr hw =>
  ⟨workDoorbell_within_answers hr hw, workDoorbell_error_answers hr hw, fun _ => completionDoorbell_answers hr hw,
    fun _ => msixModerationTimer_answers hr⟩

/-! Descriptors. -/

/-- A descriptor of the ring that carries the open step leaves its ring, and does what its type says (R424, R425). -/
def openStepDesc (d : Dev) (p : PartId) (st : StepRec) (f : FnId) (r : RingId) (desc : List Byte) (idx : Nat) : Nat → Act Unit
  | 0 => onlyIf (pendingTask d p 0).isSome (refuseInStep p f r 0 idx)
  | 2 => if taskOk d p 0 desc then enterTask p 0 f r desc else refuseInStep p f r 2 idx
  | 3 =>
    if (pendingTask d p 0).isNone && zeroBytes desc 1 4 && zeroBytes desc 0x10 0x40 && fieldAt desc 4 4 == (partOf d p).job && fieldAt desc 8 8 == st.num then
      updPart p fun y => { y with step := some { st with ended := true } }
    else refuseInStep p f r 3 idx
  | 5 => if depsOk d p 0 desc then enterDeps p 0 desc else refuseInStep p f r 5 idx
  | t => refuseInStep p f r t idx

theorem run_trainDesc_open {d : Dev} {p : PartId} {st : StepRec} {f : FnId} {r : RingId} (hstep : (partOf d p).step = some st) (hfn : st.fn = f)
    (hring : st.ring = r) (hended : st.ended = false) (hcut : st.cut = false) (t : Nat) (desc : List Byte) (k : Unit → Prog) :
    Prog.run (trainDesc p f r t desc k) d = Prog.run ((do
      let idx ← takeDesc f r
      openStepDesc d p st f r desc idx t) k) d := by
  subst hfn hring
  rw [trainDesc, run_bind, run_look, hstep, run_else (by simp [hended, hcut]), run_bind, run_bind]
  refine congrArg (fun g => Prog.run (takeDesc st.fn st.ring g) d) (funext fun idx => ?_)
  rcases t with _ | _ | _ | _ | _ | _ | t <;> rfl

/-- A descriptor of 64 bytes is taken as it is (R425). -/
theorem padTo_take_of_length {desc : List Byte} (h : desc.length = 64) : (padTo 64 0#8 desc).take 64 = desc := by
  simp [padTo, h]

section
variable {s : State} {f : FnId} {r : RingId} {desc : List Byte} {p : PartId} (ha : awake s.dev = true) (hpart : (fnOf s.dev f).part = some p)
  (hfetch : canFetch s.dev p f r = true) (hskip : (partOf s.dev p).skip = none) (hlen : desc.length = 64)
include ha hpart hfetch hskip hlen

/-- What a descriptor of its row's type that may be fetched comes to by its partition's mode; then the step builder goes on (R422–R425). -/
theorem fetchDesc_answers {i : Instr} {type : Nat} {m : Act Unit} {e : Dev} (he : exec i s = after (fetchDesc type f r desc) s)
    (htype : fieldAt desc 0 1 = type) (hm : ∀ k, Prog.run
      ((if (partOf s.dev p).serving then serveDesc p f r type desc else trainDesc p f r type desc) k) s.dev = Prog.run (m k) e) :
    Answers i s (runAct (do
      m
      builder p) e) := by
  subst htype
  refine answers_of_runAct he ha ?_
  rw [runAct_def, fetchDesc, run_bind, run_look, hpart, run_onSome_some]
  dsimp only
  rw [padTo_take_of_length hlen, run_onlyIf, if_pos (by simp [hfetch]), hskip]
  refine Eq.trans ?_ (hm fun _ => builder p fun _ => .done)
  dsimp only
  rw [run_ite, run_ite]
  rfl

section
variable (hmode : (partOf s.dev p).serving = false)
include hmode

/-- A STEP_BEGIN with no step open or begun (R424). -/
theorem stepBegin_answers (hstep : (partOf s.dev p).step = none) (hbegin : (partOf s.dev p).begin? = none) (htype : fieldAt desc 0 1 = 1) :
    Answers (.stepBegin f r desc) s (runAct (do
      trainBegin p f r desc
      builder p) s.dev) := by
  refine fetchDesc_answers ha hpart hfetch hskip hlen rfl htype fun k => ?_
  rw [run_else (by simp [hmode]), trainDesc, run_bind, run_look, hstep, hbegin]
  rfl

section
variable {st : StepRec} (hstep : (partOf s.dev p).step = some st) (hfn : st.fn = f) (hring : st.ring = r) (hended : st.ended = false) (hcut : st.cut = false)
  {idx : Nat} {e : Dev} (htake : Runs (takeDesc f r) s.dev idx e)
include hstep hfn hring hended hcut htake

/-- What a descriptor of the open step comes to once it has left its ring. -/
theorem openStepDesc_answers {i : Instr} {type : Nat} (he : exec i s = after (fetchDesc type f r desc) s) (htype : fieldAt desc 0 1 = type) :
    Answers i s (runAct (do
      openStepDesc s.dev p st f r desc idx type
      builder p) e) := by
  refine fetchDesc_answers ha hpart hfetch hskip hlen he htype fun k => ?_
  rw [run_else (by simp [hmode]), run_trainDesc_open hstep hfn hring hended hcut, run_bind, htake]

/-- A NOP behind the last descriptor of its task leaves the ring without effect (R425). -/
theorem workNop_answers (htype : fieldAt desc 0 1 = 0) (hnone : pendingTask s.dev p 0 = none) : Answers (.workNop f r desc) s (runAct (builder p) e) := by
  have h := openStepDesc_answers (i := .workNop f r desc) ha hpart hfetch hskip hlen hmode hstep hfn hring hended hcut htake rfl htype
  rwa [openStepDesc, hnone] at h

theorem task_answers (htype : fieldAt desc 0 1 = 2) (hok : taskOk s.dev p 0 desc = true) : Answers (.task f r desc) s (runAct (do
      enterTask p 0 f r desc
      builder p) e) := by
  have h := openStepDesc_answers (i := .task f r desc) ha hpart hfetch hskip hlen hmode hstep hfn hring hended hcut htake rfl htype
  rwa [openStepDesc, if_pos hok] at h

theorem deps_answers (htype : fieldAt desc 0 1 = 5) (hok : depsOk s.dev p 0 desc = true) : Answers (.deps f r desc) s (runAct (do
      enterDeps p 0 desc
      builder p) e) := by
  have h := openStepDesc_answers (i := .deps f r desc) ha hpart hfetch hskip hlen hmode hstep hfn hring hended hcut htake rfl htype
  rwa [openStepDesc, if_pos hok] at h

/-- STEP_END ends the step's descriptors (R424). -/
theorem stepEnd_answers (htype : fieldAt desc 0 1 = 3) (hnone : pendingTask s.dev p 0 = none) (hflags : zeroBytes desc 1 4 = true)
    (hrest : zeroBytes desc 0x10 0x40 = true) (hjob : fieldAt desc 4 4 = (partOf s.dev p).job) (hnum : fieldAt desc 8 8 = st.num) :
    Answers (.stepEnd f r desc) s
      (runAct (builder p) { e with parts := tabPut e.parts p { partOf e p with step := some { st with ended := true } } }) := by
  have h := openStepDesc_answers (i := .stepEnd f r desc) ha hpart hfetch hskip hlen hmode hstep hfn hring hended hcut htake rfl htype
  rwa [openStepDesc, if_pos (by simp [hnone, hflags, hrest, hjob, hnum])] at h

end
end

/-- An ITEM of a serving partition, none of whose items is still being fetched, is open with its tasks still to come (R409). -/
theorem item_answers (hmode : (partOf s.dev p).serving = true) {idx : Nat} {e : Dev} (htake : Runs (takeDesc f r) s.dev idx e)
    (hopen : openItem s.dev p = none) (htype : fieldAt desc 0 1 = 4) (hok : itemOk s.dev p desc = true) :
    Answers (.item f r desc) s (runAct (builder p) { e with runs := tabPut e.runs p { runOf e p with
      itemNum := (runOf e p).itemNum + 1
      items := (runOf e p).items ++ [⟨(runOf e p).itemNum + 1, bitOf (fieldAt desc 1 1) 0, fieldAt desc 8 8, fieldAt desc 0x10 4, fieldAt desc 0x14 4,
        fieldAt desc 2 2, false, f, r⟩] } }) := by
  refine fetchDesc_answers (m := pure ()) ha hpart hfetch hskip hlen rfl htype fun k => ?_
  rw [run_ite, if_pos hmode, serveDesc, run_bind, run_look, hopen]
  dsimp only
  rw [run_bind, htake, run_ite, if_pos ⟨rfl, hok⟩]
  rfl

end

/-- Settles O36: each descriptor by its type and its partition's mode. -/
theorem descriptors : Obligations.Descriptors := by
  refine ⟨fun s f r desc p idx e ha hpart hfetch hskip hmode hlen htake => ⟨stepBegin_answers ha hpart hfetch hskip hlen hmode,
      fun st hstep hfn hring hended hcut => ⟨?nop, ?task, ?deps, ?stepEnd⟩⟩,
    fun s f r desc p idx e ha hpart hfetch hskip hmode hlen htake => item_answers ha hpart hfetch hskip hlen hmode htake⟩
  case nop => exact workNop_answers ha hpart hfetch hskip hlen hmode hstep hfn hring hended hcut htake
  case task => exact task_answers ha hpart hfetch hskip hlen hmode hstep hfn hring hended hcut htake
  case deps => exact deps_answers ha hpart hfetch hskip hlen hmode hstep hfn hring hended hcut htake
  case stepEnd => exact stepEnd_answers ha hpart hfetch hskip hlen hmode hstep hfn hring hended hcut htake

end Sys2Proof.Proofs

/-! SUPPORT. A host's data window (R432, R433, R501), and what ends a function, a port or the work of the whole module (R438–R445, R513, R514, R517, R558,
R565, R574). -/

namespace Sys2Proof.Proofs

open Sys2Proof.Machine Sys2Proof.Safety Sys2Proof.Laws

/-! The data window. -/

theorem ends_addBad (r : Region) (ws : List Nat) : Ends (addBad r ws) := Ends.look.bind fun _ => (Ends.emit _).onlyIf

theorem ends_putImage (r : Region) (a : Nat) (bs : List Byte) (bad : List Nat) : Ends (putImage r a bs bad) :=
  (Ends.emit _).bind fun _ => (ends_clearBad _ _ _).bind fun _ => ends_addBad _ _

theorem ends_adminStore (f : FnId) (lo hi off : Nat) (bs : List Byte) (poisoned : Bool) : Ends (adminStore f lo hi off bs poisoned) :=
  (ends_putImage _ _ _ _).onlyIf

/-- Bytes below a range of the admin area leave it as it is (R432). -/
theorem run_adminStore_below {f : FnId} {lo hi off : Nat} {bs : List Byte} {poisoned : Bool} (h : off + bs.length ≤ lo) (k : Unit → Prog) (d : Dev) :
    Prog.run (adminStore f lo hi off bs poisoned k) d = Prog.run (k ()) d := by
  rw [adminStore, run_onlyIf, if_neg (by rw [decide_eq_true_eq]; omega)]

section
variable {s : State} {f : FnId} {d : Dev} (hr : reaches s.dev f = true) (hw : Runs wakeFabric s.dev () d) {off n : Nat}
include hr hw

/-- A read of the admin area (R432). -/
theorem dataWindowRead_admin_answers (hoff : off < 0x100000) : Answers (.dataWindowRead f off n) s
    { d with out := d.out ++ [.dataRead f (bytesOf s.dev (.admin f) off n) (!(badIn s.dev (.admin f) off n).isEmpty)] } := by
  refine answers_of_runAct (m := doWindowRead f off n) rfl (awake_of_reaches hr) ?_
  rw [runAct_def, doWindowRead, run_bind, run_look, run_onlyIf, if_pos hr, run_bind, hw, run_ite, if_pos hoff]
  rfl

section
variable (hoff : 0x100000 ≤ off)
include hoff

/-- A read of the partition's memory that the tables let pass (R433, R501). -/
theorem dataWindowRead_memory_answers {p : PartId} {va : Nat} {bs : List Byte} {bad : List Nat} {d1 : Dev}
    (hva : windowVa s.dev f off n = some (p, va)) (hread : Runs (vaRead (envOf s.dev p) p {} va n) d (.ok (bs, bad)) d1) :
    Answers (.dataWindowRead f off n) s { d1 with out := d1.out ++ [.dataRead f bs (!bad.isEmpty)] } := by
  refine answers_of_runAct (m := doWindowRead f off n) rfl (awake_of_reaches hr) ?_
  rw [runAct_def, doWindowRead, run_bind, run_look, run_onlyIf, if_pos hr, run_bind, hw, run_else hoff.not_gt, hva]
  exact hread _

/-- A read where no memory answers is all ones, and a violation (R433). -/
theorem dataWindowRead_none_answers (hva : windowVa s.dev f off n = none) : Answers (.dataWindowRead f off n) s (runAct (do
      violation f
      emit (.out (.dataRead f (List.replicate n 0xFF#8) false))) d) := by
  refine answers_of_runAct (m := doWindowRead f off n) rfl (awake_of_reaches hr) ?_
  rw [runAct_def, doWindowRead, run_bind, run_look, run_onlyIf, if_pos hr, run_bind, hw, run_else hoff.not_gt, hva]
  rfl

/-- A write of the partition's memory that the tables let pass (R433). -/
theorem dataWindowWrite_memory_answers {p : PartId} {va : Nat} {bs : List Byte} {d1 : Dev} (hva : windowVa s.dev f off bs.length = some (p, va))
    (hwrite : Runs (vaWrite (envOf s.dev p) p {} va bs []) d (.ok ()) d1) : Answers (.dataWindowWrite f off bs false) s d1 := by
  refine answers_of_runAct (m := doWindowWrite f off bs false) rfl (awake_of_reaches hr) ?_
  rw [runAct_def, doWindowWrite, run_bind, run_look, run_onlyIf, if_pos hr, run_bind, hw, run_else hoff.not_gt, hva]
  exact hwrite _

end

/-- A write of the admin command ring (R432). -/
theorem dataWindowWrite_admin_answers {bs : List Byte} {poisoned : Bool} (hring : off + bs.length ≤ 0x4000) :
    Answers (.dataWindowWrite f off bs poisoned) s (runAct (adminStore f 0 0x4000 off bs poisoned) d) := by
  refine answers_of_runAct (m := doWindowWrite f off bs poisoned) rfl (awake_of_reaches hr) ?_
  have hbelow : rangeMeets off bs.length 0x5000 0x5004 = false := by
    rw [rangeMeets, decide_eq_false (show ¬ 0x5000 < off + bs.length by omega), Bool.and_false]
  rw [runAct_def, doWindowWrite, run_bind, run_look, run_onlyIf, if_pos hr, run_bind, hw, run_ite, if_pos (by omega), run_bind,
    (ends_adminStore _ _ _ _ _ _).run, run_bind, run_adminStore_below (by omega), hbelow]
  rfl

end

/-- Settles O42: an access by the range it names, and by what the memory answers. -/
theorem dataWindowAccesses : Obligations.DataWindowAccesses := fun _ _ _ hr hw =>
  ⟨fun _ _ => dataWindowRead_admin_answers hr hw, fun _ _ _ _ _ _ _ hoff => dataWindowRead_memory_answers hr hw hoff,
    fun _ _ => dataWindowRead_none_answers hr hw, fun _ _ _ hring _ => dataWindowWrite_admin_answers hr hw hring,
    fun _ _ _ _ _ hoff => dataWindowWrite_memory_answers hr hw hoff⟩

/-! Functions. -/

/-- With power a guarded action runs. -/
theorem run_guarded {m : Act Unit} {d : Dev} (ha : awake d = true) (k : Unit → Prog) : Prog.run (guarded m k) d = Prog.run (m k) d := by
  rw [guarded, run_bind, run_look, run_onlyIf, if_pos ha]

/-- A command of a contact or of the always-on domain answers what its action makes of the module. -/
theorem answers_of_always {s : State} {i : Instr} {m : Act Unit} {d : Dev} (he : exec i s = always m s) (h : runAct m s.dev = d) : Answers i s d := by
  rw [Answers, he, always, h]

section
variable {s : State} (ha : awake s.dev = true)
include ha

/-- A liveness sample stands, and counts how often the word has stayed the same; the second time orphans the function (R437, R438). -/
theorem livenessSample_answers {f : FnId} {same : Nat} {d : Dev} (hhif : procRuns s.dev procHIF = true) (hactive : (fnOf s.dev f).st = .active)
    (hbound : (fnOf s.dev f).part.isSome = true)
    (hsame : (if (fnOf s.dev f).live = some (leNat (bytesOf s.dev (.admin f) 0x5000 4)) then (fnOf s.dev f).same + 1 else 0) = same)
    (hd : runAct (onlyIf (decide (2 ≤ same)) (orphanFn f)) { s.dev with fns := tabPut s.dev.fns f { fnOf s.dev f with
      live := some (leNat (bytesOf s.dev (.admin f) 0x5000 4))
      same := same } } = d) : Answers (.livenessSample f) s d := by
  subst hsame
  refine answers_of_runAct (m := doLiveness f) rfl ha ?_
  rw [runAct_def, doLiveness, run_guarded ha, run_bind, run_look, run_onlyIf, if_pos (by simp [hhif, hactive, hbound])]
  exact hd

/-- The hold of an orphaned partition ends by its policy (R439). -/
theorem orphanHoldExpiry_answers {p : PartId} (hhif : procRuns s.dev procHIF = true) (hheld : (partOf s.dev p).held = true) :
    Answers (.orphanHoldExpiry p) s (runAct (endPolicy p) s.dev) := by
  refine answers_of_runAct (m := doHoldExpiry p) rfl ha ?_
  rw [runAct_def, doHoldExpiry, run_guarded ha, run_bind, run_look, run_onlyIf, if_pos (by simp [hhif, hheld])]
  rfl

theorem flr_answers (f : FnId) : Answers (.flr f) s (runAct (resetFn f .active) s.dev) := answers_of_runAct rfl ha (run_guarded ha _)

theorem functionDisable_answers (f : FnId) : Answers (.functionDisable f) s (runAct (resetFn f .disabled) s.dev) :=
  answers_of_runAct rfl ha (run_guarded ha _)

/-! Ports. -/

omit ha in
/-- A hot reset of a port does what HIF_RESET_CTRL.hot_full says (R443, R444). -/
theorem run_portReset (port : HostPort) (k : Unit → Prog) (d : Dev) : Prog.run (portReset port k) d =
    if bitOf (regOf d .HIF_RESET_CTRL 0) 0 then Prog.run (askReset 2 k) d else Prog.run (each (portFns port) (fun f => resetFn f .active) k) d := by
  rw [portReset, run_bind, run_look, run_ite]

section
variable {port : HostPort}

/-- A port that STRAP3 keeps in reset takes no event (R558, R566). -/
theorem strapped_answers (hstrap : strapped s.dev port = true) :
    Answers (.pcieHotReset port) s s.dev ∧ Answers (.pcieLinkDown port) s s.dev ∧ Answers (.perstAssert port) s s.dev := by
  refine ⟨answers_of_runAct (m := doHotReset port) rfl ha ?_, answers_of_runAct (m := doLinkDown port) rfl ha ?_,
    answers_of_always (m := doPerst port) rfl ?_⟩
  · rw [runAct_def, doHotReset, run_guarded ha, run_bind, run_look, hstrap]
    rfl
  · rw [runAct_def, doLinkDown, run_guarded ha, run_bind, run_look, hstrap]
    rfl
  · rw [runAct_def, doPerst, run_bind, run_look, hstrap]
    rfl

section
variable (hfree : strapped s.dev port = false)
include hfree

/-- A hot reset does what HIF_RESET_CTRL.hot_full says (R443, R444). -/
theorem pcieHotReset_answers : Answers (.pcieHotReset port) s (runAct (if bitOf (regOf s.dev .HIF_RESET_CTRL 0) 0 then askReset 2
    else each (portFns port) fun f => resetFn f .active) s.dev) := by
  refine answers_of_runAct (m := doHotReset port) rfl ha ?_
  rw [runAct_def, doHotReset, run_guarded ha, run_bind, run_look, hfree]
  rfl

/-- The loss of a port's link orphans its functions (R438). -/
theorem pcieLinkDown_answers : Answers (.pcieLinkDown port) s (runAct (each (portFns port) orphanFn) s.dev) := by
  refine answers_of_runAct (m := doLinkDown port) rfl ha ?_
  rw [runAct_def, doLinkDown, run_guarded ha, run_bind, run_look, hfree]
  rfl

/-- PERST of a port resets its functions, or asks for the full reset, and the port is in reset (R443, R558). -/
theorem perstAssert_answers (hnew : s.dev.pins.perst.contains port = false) : Answers (.perstAssert port) s (runAct (do
    if bitOf (regOf s.dev .HIF_RESET_CTRL 0) 0 then askReset 2 else each (portFns port) fun f => resetFn f .active
    updPins fun x => { x with ports := tabPut x.ports port .reset })
    { s.dev with pins := { s.dev.pins with perst := s.dev.pins.perst ++ [port] } }) := by
  refine answers_of_always (m := doPerst port) rfl ?_
  rw [runAct_def, doPerst, run_bind, run_look, hfree, hnew, run_onlyIf, if_pos (by decide), run_bind, updPins, run_bind, run_look, run_emit, run_onlyIf, if_pos ha]
  rw [run_bind, run_portReset, runAct_def]
  dsimp only
  rw [run_ite]
  rfl

/-- The release of PERST brings the port up (R558). -/
theorem perstRelease_answers (hheld : s.dev.pins.perst.contains port = true) : Answers (.perstRelease port) s { s.dev with pins := { s.dev.pins with
    perst := s.dev.pins.perst.filter (· != port)
    ports := tabPut s.dev.pins.ports port .up } } := by
  refine answers_of_always (m := doPerstRelease port) rfl ?_
  rw [runAct_def, doPerstRelease, run_bind, run_look, run_onlyIf, if_pos hheld, run_bind, updPins, run_bind, run_look, run_emit, run_onlyIf,
    if_pos (by simp [ha, hfree])]
  rfl

end
end
end

/-- PERST of a port that is in reset already, and the release of one that is not, change nothing (R558). -/
theorem perstAssert_again_answers {s : State} {port : HostPort} (hheld : s.dev.pins.perst.contains port = true) : Answers (.perstAssert port) s s.dev := by
  refine answers_of_always (m := doPerst port) rfl ?_
  rw [runAct_def, doPerst, run_bind, run_look, hheld, Bool.not_true, Bool.and_false]
  rfl

theorem perstRelease_again_answers {s : State} {port : HostPort} (hfree : s.dev.pins.perst.contains port = false) :
    Answers (.perstRelease port) s s.dev := by
  refine answers_of_always (m := doPerstRelease port) rfl ?_
  rw [runAct_def, doPerstRelease, run_bind, run_look, hfree]
  rfl

/-- With HIF running and no notice pending, a full reset that is asked for posts its notice (R444). -/
theorem askReset_posts {d : Dev} (hnone : d.fw.notice = none) (hhif : procRuns d procHIF = true) (cause : Nat) :
    runAct (askReset cause) d = runAct (resetNotice cause) d := by
  rw [runAct_def, askReset, run_bind, run_look, run_else (by simp [hnone]), run_ite, if_pos hhif]
  rfl

/-- Settles O44: a sample by how often the word has stayed, a port's event by its strap, its PERST and hot_full. -/
theorem functionResets : Obligations.FunctionResets := by
  refine fun s ha => ⟨fun f hhif hactive hbound => ⟨fun hnew => ?changed, fun hsame hfirst => ?once, fun hsame hmore => ?orphaned⟩,
    fun p => orphanHoldExpiry_answers ha, fun f => ⟨flr_answers ha f, functionDisable_answers ha f⟩, fun port => strapped_answers ha,
    fun port hfree => ⟨fun hcold => ?functions, fun hfull hnone hhif => ?notice, pcieLinkDown_answers ha hfree, perstAssert_again_answers,
      perstRelease_again_answers, perstAssert_answers ha hfree, perstRelease_answers ha hfree⟩⟩
  case changed => exact livenessSample_answers ha hhif hactive hbound (if_neg hnew) rfl
  case once => exact livenessSample_answers ha hhif hactive hbound (by rw [if_pos hsame, hfirst]) rfl
  case orphaned =>
    refine livenessSample_answers ha hhif hactive hbound (if_pos hsame) ?_
    rw [decide_eq_true (by omega)]
    rfl
  case functions =>
    have h := pcieHotReset_answers ha hfree
    rwa [if_neg (by simp [hcold])] at h
  case notice =>
    have h := pcieHotReset_answers ha hfree
    rwa [if_pos hfull, askReset_posts hnone hhif] at h

/-! Full resets. -/

/-- The ports' links after a reset leave the registers as they are (R558). -/
theorem regs_trainPorts (d : Dev) : (runAct trainPorts d).regs = d.regs := by
  simp only [runAct_def, trainPorts, updPins, setDom, updPwr, run_bind, run_look, run_emit, run_onlyIf]
  split <;> rfl

theorem regOf_congr {d e : Dev} (h : d.regs = e.regs) (n : RegName) (u i : Nat) : regOf d n u i = regOf e n u i := by rw [regOf, regOf, h]

/-- TOP_RESET_CAUSE after a full reset: 5 after a trip, and else the cause (R517). -/
theorem resetCause_fullResetNow (d : Dev) {cause : Nat} (hcause : cause < 2 ^ 32) :
    regOf (runAct (fullResetNow cause) d) .TOP_RESET_CAUSE 0 = if d.pwr.trip then 5 else cause := by
  have hends : Ends (each (d.pins.ports.filter fun x => x.2 == .up || x.2 == .l1) fun x => emit (.out (.linkDown x.1))) := Ends.each (fun _ => Ends.emit _) _
  have htrain : Ends trainPorts := Ends.look.bind fun _ => (Ends.look.bind fun _ => Ends.emit _).bind fun _ => (Ends.look.bind fun _ => Ends.emit _).onlyIf
  rw [runAct_def, fullResetNow, run_bind, run_look, run_bind, hends.run, run_bind, run_emit, run_bind, run_setReg, run_bind, htrain.run]
  have hlast (b : Bool) (o : Out) (e : Dev) : (Prog.run (onlyIf b (emit (.out o)) fun _ => .done) e).regs = e.regs := by cases b <;> rfl
  exact (regOf_congr ((hlast ..).trans (regs_trainPorts _)) _ _ _).trans ((regOf_put ..).trans (Nat.mod_eq_of_lt (by split <;> omega)))

/-- Settles O45: each command by whether the module can be reset. -/
theorem moduleResets : Obligations.ModuleResets := by
  refine fun s => ⟨fun cause hnotice hcan => ⟨?expiry, ?full⟩, fun low hlong hcan hnone => ?input, fun low cause hnotice => ?pending,
    fun low hshort => ?short, fun ha hauto => ?auto, fun cause => resetCause_fullResetNow s.dev⟩
  case expiry =>
    refine answers_of_always (m := doNoticeExpiry) rfl ?_
    rw [runAct_def, doNoticeExpiry, run_bind, run_look, hnotice, run_onSome_some, run_onlyIf, if_pos hcan]
    rfl
  case full =>
    refine answers_of_always (m := doFullReset) rfl ?_
    rw [runAct_def, doFullReset, run_bind, run_look, run_onlyIf, if_pos hcan, hnotice]
    rfl
  case input =>
    refine answers_of_always (m := doResetInput low) rfl ?_
    rw [runAct_def, doResetInput, run_bind, run_look, run_onlyIf, if_pos (by simp [hlong, hcan, hnone])]
    rfl
  case pending =>
    refine answers_of_always (m := doResetInput low) rfl ?_
    rw [runAct_def, doResetInput, run_bind, run_look, hnotice, Option.isNone_some, Bool.and_false]
    rfl
  case short =>
    refine answers_of_always (m := doResetInput low) rfl ?_
    rw [runAct_def, doResetInput, run_bind, run_look, decide_eq_false hshort.not_ge]
    rfl
  case auto =>
    refine answers_of_runAct (m := doAutoReset) rfl ha ?_
    rw [runAct_def, doAutoReset, run_guarded ha, run_bind, run_look, run_onlyIf, if_pos hauto]
    rfl

end Sys2Proof.Proofs

/-! SUPPORT. The samples of the always-on domain: the input voltage (R477, R492, R556), the guard (R489), the temperatures (R490,
R491), and BAL's ratios (R486–R488). -/

namespace Sys2Proof.Proofs

open Sys2Proof.Machine Sys2Proof.Safety Sys2Proof.Laws

@[simp] theorem run_updPwr (f : Pwr → Pwr) (k : Unit → Prog) (d : Dev) : Prog.run (updPwr f k) d = Prog.run (k ()) { d with pwr := f d.pwr } := rfl

@[simp] theorem run_updPins (f : Pins → Pins) (k : Unit → Prog) (d : Dev) : Prog.run (updPins f k) d = Prog.run (k ()) { d with pins := f d.pins } := rfl

@[simp] theorem run_setDom (i : Nat) (x : DomSt) (k : Unit → Prog) (d : Dev) :
    Prog.run (setDom i x k) d = Prog.run (k ()) { d with pwr := { d.pwr with doms := d.pwr.doms.set i x } } := rfl

/-! The input voltage. -/

/-- The samples below 36 V in a row, with one of `mv` (R477). -/
def lowRunNow (d : Dev) (mv : Nat) : Nat := if mv < 36000 then d.pwr.lowRun + 1 else 0

/-- The energy that has not yet made a millijoule unit, with a tick's (R498; that each input sample brings a tick's energy is the model's choice, log entries 14
and 88). -/
def energyNow (d : Dev) : Nat := d.pwr.energy + bitsOf (regOf d .PWR_INPUT_W 0) 11 0

/-- What each sample of the input voltage does (R477, R498). -/
def inputSampled (d : Dev) (mv : Nat) : Act Unit := do
  setField .PWR_INPUT 0 0 31 16 (min mv 65535)
  updPwr fun x => { x with
    aon := x.aon + 1
    energy := energyNow d % 25000
    lowRun := lowRunNow d mv }
  count .PWR_ENERGY_MJ 0 (energyNow d / 25000)
  onlyIf d.pwr.guard (count .PWR_GUARD_TICKS 0 1)
  onlyIf (throttled d) (count .PWR_THERM_TICKS 0 1)

section
variable {s : State} {mv : Nat} (hon : s.dev.pwr.shut = false)
include hon

/-- A sample of the input, by its voltage (R477). -/
theorem inputSample_answers : Answers (.inputSample mv) s (runAct (do
    inputSampled s.dev mv
    if mv < 34000 ∨ 48000 < mv ∨ (mv < 36000 ∧ 25000 ≤ s.dev.pwr.lowRun + 1) then loseAll false
    else do
      onlyIf (decide (mv < 38000)) (orReg .PWR_STATUS 0 0 0x40)
      onlyIf (decide (46000 < mv)) (orReg .PWR_STATUS 0 0 0x20)
      onlyIf (decide (mv < 38000 ∨ 46000 < mv)) (updPwr fun x => { x with guard := true })
      statusEvent (pwrStatus s.dev)) s.dev) := by
  refine answers_of_always (m := doInputSample mv) rfl ?_
  rw [runAct_def, doInputSample, run_bind, run_look, run_else (by simp [hon])]
  rfl

/-- The module loses its power (R477). -/
theorem inputSample_lost_answers (hlost : mv < 34000 ∨ 48000 < mv ∨ 25000 ≤ lowRunNow s.dev mv) : Answers (.inputSample mv) s (runAct (do
    inputSampled s.dev mv
    loseAll false) s.dev) := by
  have h := inputSample_answers (mv := mv) hon
  have hout : mv < 34000 ∨ 48000 < mv ∨ (mv < 36000 ∧ 25000 ≤ s.dev.pwr.lowRun + 1) := by
    unfold lowRunNow at hlost
    split at hlost <;> omega
  rwa [if_pos hout] at h

section
variable (hmin : 34000 ≤ mv) (hmax : mv ≤ 48000) (hrun : lowRunNow s.dev mv < 25000)
include hmin hmax hrun

/-- The module keeps its power: a voltage out of its band sets its status bit and the guard (R477). -/
theorem inputSample_kept_answers : Answers (.inputSample mv) s (runAct (do
    inputSampled s.dev mv
    onlyIf (decide (mv < 38000)) (orReg .PWR_STATUS 0 0 0x40)
    onlyIf (decide (46000 < mv)) (orReg .PWR_STATUS 0 0 0x20)
    onlyIf (decide (mv < 38000 ∨ 46000 < mv)) (updPwr fun x => { x with guard := true })
    statusEvent (pwrStatus s.dev)) s.dev) := by
  have h := inputSample_answers (mv := mv) hon
  have hin : ¬ (mv < 34000 ∨ 48000 < mv ∨ (mv < 36000 ∧ 25000 ≤ s.dev.pwr.lowRun + 1)) := by
    unfold lowRunNow at hrun
    split at hrun <;> omega
  rwa [if_neg hin] at h

end

/-- A voltage in its band (R477). -/
theorem inputSample_good_answers (hmin : 38000 ≤ mv) (hmax : mv ≤ 46000) : Answers (.inputSample mv) s (runAct (do
    inputSampled s.dev mv
    statusEvent (pwrStatus s.dev)) s.dev) := by
  have h := inputSample_kept_answers hon (mv := mv) (by omega) (by omega) (by rw [lowRunNow, if_neg (by omega)]; decide)
  rwa [decide_eq_false (by omega), decide_eq_false (by omega), decide_eq_false (by omega)] at h

/-- A voltage below its band (R477). -/
theorem inputSample_low_answers (hmin : 34000 ≤ mv) (hmax : mv < 38000) (hrun : lowRunNow s.dev mv < 25000) : Answers (.inputSample mv) s (runAct (do
    inputSampled s.dev mv
    orReg .PWR_STATUS 0 0 0x40
    updPwr fun x => { x with guard := true }
    statusEvent (pwrStatus s.dev)) s.dev) := by
  have h := inputSample_kept_answers hon (mv := mv) (by omega) (by omega) hrun
  rwa [decide_eq_true hmax, decide_eq_false (by omega), decide_eq_true (.inl hmax)] at h

/-- A voltage above its band (R477). -/
theorem inputSample_high_answers (hmin : 46000 < mv) (hmax : mv ≤ 48000) : Answers (.inputSample mv) s (runAct (do
    inputSampled s.dev mv
    orReg .PWR_STATUS 0 0 0x20
    updPwr fun x => { x with guard := true }
    statusEvent (pwrStatus s.dev)) s.dev) := by
  have h := inputSample_kept_answers hon (mv := mv) (by omega) (by omega) (by rw [lowRunNow, if_neg (by omega)]; decide)
  rwa [decide_eq_false (by omega), decide_eq_true hmin, decide_eq_true (.inr hmin)] at h

end

/-- A module that has lost its power is not awake (R477, R556). -/
theorem awake_loseAll (broken : Bool) (d : Dev) : awake (runAct (loseAll broken) d) = false := by
  have hends : Ends (each (d.pins.ports.filter fun x => x.2 == .up || x.2 == .l1) fun x => emit (.out (.linkDown x.1))) := Ends.each (fun _ => Ends.emit _) _
  rw [runAct_def, loseAll, run_bind, run_look, run_bind, hends.run, run_bind, run_emit, run_bind, run_updPwr, run_updPins]
  exact Bool.and_false _

/-- The module starts again once its input has stayed in range (R477, R492). -/
theorem inputRecovery_answers {s : State} (hshut : s.dev.pwr.shut = true) (hwhole : s.dev.pins.broken = false) :
    Answers .inputRecovery s (runAct powerUp s.dev) := by
  refine answers_of_always (m := doInputRecovery) rfl ?_
  rw [runAct_def, doInputRecovery, run_bind, run_look, hshut, hwhole]
  rfl

/-- The straps are latched as power comes (R492, R566). -/
theorem powerApplied_answers (s : State) (straps : BitVec 4) :
    Answers (.powerApplied straps) s (runAct powerUp { s.dev with pins := { s.dev.pins with straps := straps.toNat, broken := false } }) := by
  refine answers_of_always (m := doPowerApplied straps.toNat) rfl ?_
  rw [runAct_def, doPowerApplied, run_bind, run_updPins, Nat.mod_eq_of_lt straps.isLt]
  rfl

/-- Settles O52: a sample by its voltage and the run of low ones; loss, recovery and the application of power. -/
theorem inputPower : Obligations.InputPower := fun s _ =>
  ⟨fun hon => ⟨inputSample_good_answers hon, inputSample_low_answers hon, inputSample_high_answers hon, inputSample_lost_answers hon⟩,
    answers_of_always rfl rfl, fun b => awake_loseAll b s.dev, inputRecovery_answers, powerApplied_answers s⟩

/-! The guard. -/

/-- The checks above 80 A in a row, with one of `ca` (R489). -/
def hiRunNow (d : Dev) (ca : Nat) : Nat := if 8000 < ca then d.pwr.hiRun + 1 else 0

/-- What each check of the guard does (R489, R493). -/
def guardChecked (d : Dev) (watts ca avg : Nat) : Act Unit := do
  setReg .PWR_INPUT_W 0 0 (min watts 4095)
  setField .PWR_INPUT 0 0 15 0 (min ca 65535)
  updPwr fun x => { x with
    hiRun := hiRunNow d ca
    cut := x.cut && decide (max 300 (min 2400 (bitsOf (regOf d .PWR_BUDGET 0) 11 0)) < watts) }
  onlyIf (decide (2400 < watts)) (orReg .PWR_STATUS 0 0 0x10)
  onlyIf (decide (7000 < avg ∨ 8000 < ca)) (orReg .PWR_STATUS 0 0 8)

/-- The input voltage of the last sample, in mV. -/
def inputMv (d : Dev) : Nat := bitsOf (regOf d .PWR_INPUT 0) 31 16

/-- Whether the guard ends with a check (R489). -/
def guardEnds (d : Dev) (watts : Nat) : Bool := d.pwr.guard && decide (watts < 2000) && decide (38000 ≤ inputMv d) && decide (inputMv d ≤ 46000)

section
variable {s : State} (ha : awake s.dev = true) {watts ca avg : Nat}
include ha

/-- A check of the guard, by the power, the current and its average (R489). -/
theorem guardCheck_answers : Answers (.guardCheck watts ca avg) s (runAct (do
    guardChecked s.dev watts ca avg
    if 8000 < ca ∧ 64 ≤ s.dev.pwr.hiRun + 1 then draw >>= tripNow 8
    else do
      if 2400 < watts ∨ 7000 < avg then updPwr fun x => { x with guard := true }
      else onlyIf (guardEnds s.dev watts) do
        updPwr fun x => { x with
          guard := false
          held := none }
        onSome s.dev.pwr.held fun v => setReg .PWR_MOD_RATIO 0 0 v
      statusEvent (pwrStatus s.dev)) s.dev) := by
  refine answers_of_runAct (m := doGuardCheck watts ca avg) rfl ha ?_
  rw [runAct_def, doGuardCheck, run_guarded ha, run_bind, run_look]
  rfl

/-- The 64th check above 80 A in a row trips the module (R489). -/
theorem guardCheck_trip_answers (hhigh : 8000 < ca) (hrun : 64 ≤ hiRunNow s.dev ca) : Answers (.guardCheck watts ca avg) s (runAct (do
    guardChecked s.dev watts ca avg
    draw >>= tripNow 8) s.dev) := by
  have h := guardCheck_answers ha (watts := watts) (ca := ca) (avg := avg)
  rw [hiRunNow, if_pos hhigh] at hrun
  rwa [if_pos ⟨hhigh, hrun⟩] at h

section
variable (hrun : hiRunNow s.dev ca < 64)
include hrun

omit ha in
theorem not_hiRun_long : ¬ (8000 < ca ∧ 64 ≤ s.dev.pwr.hiRun + 1) := by
  unfold hiRunNow at hrun
  split at hrun <;> omega

/-- Above 2,400 W or an average of 70 A the guard is set (R489). -/
theorem guardCheck_set_answers (hover : 2400 < watts ∨ 7000 < avg) : Answers (.guardCheck watts ca avg) s (runAct (do
    guardChecked s.dev watts ca avg
    updPwr fun x => { x with guard := true }
    statusEvent (pwrStatus s.dev)) s.dev) := by
  have h := guardCheck_answers ha (watts := watts) (ca := ca) (avg := avg)
  rwa [if_neg (not_hiRun_long hrun), if_pos hover] at h

/-- A check within those bounds, by whether the guard ends (R489). -/
theorem guardCheck_within_answers (hwatts : watts ≤ 2400) (havg : avg ≤ 7000) : Answers (.guardCheck watts ca avg) s (runAct (do
    guardChecked s.dev watts ca avg
    onlyIf (guardEnds s.dev watts) do
      updPwr fun x => { x with
        guard := false
        held := none }
      onSome s.dev.pwr.held fun v => setReg .PWR_MOD_RATIO 0 0 v
    statusEvent (pwrStatus s.dev)) s.dev) := by
  have h := guardCheck_answers ha (watts := watts) (ca := ca) (avg := avg)
  rwa [if_neg (not_hiRun_long hrun), if_neg (by omega)] at h

theorem guardCheck_stays_answers (hwatts : watts ≤ 2400) (havg : avg ≤ 7000)
    (hstays : s.dev.pwr.guard = false ∨ 2000 ≤ watts ∨ inputMv s.dev < 38000 ∨ 46000 < inputMv s.dev) : Answers (.guardCheck watts ca avg) s (runAct (do
    guardChecked s.dev watts ca avg
    statusEvent (pwrStatus s.dev)) s.dev) := by
  have h := guardCheck_within_answers ha hrun hwatts havg
  have hno : guardEnds s.dev watts = false := by
    unfold guardEnds
    obtain h | h | h | h := hstays
    · simp [h]
    · simp [h.not_gt]
    · simp [h.not_ge]
    · simp [h.not_ge]
  rwa [hno] at h

theorem guardCheck_ends_answers (hwatts : watts < 2000) (havg : avg ≤ 7000) (hguard : s.dev.pwr.guard = true) (hmin : 38000 ≤ inputMv s.dev)
    (hmax : inputMv s.dev ≤ 46000) : Answers (.guardCheck watts ca avg) s (runAct (do
    guardChecked s.dev watts ca avg
    updPwr fun x => { x with
      guard := false
      held := none }
    onSome s.dev.pwr.held fun v => setReg .PWR_MOD_RATIO 0 0 v
    statusEvent (pwrStatus s.dev)) s.dev) := by
  have h := guardCheck_within_answers ha hrun (by omega) havg (watts := watts)
  have hyes : guardEnds s.dev watts = true := by simp [guardEnds, hguard, hwatts, hmin, hmax]
  rwa [hyes] at h

end

/-! BAL. -/

section
variable (hbal : procRuns s.dev procBAL = true)
include hbal

/-- BAL writes a partition's estimate (R487). -/
theorem balEstimateUpdate_answers (p : PartId) (w : BitVec 16) :
    Answers (.balEstimateUpdate p w) s (runAct (setReg .PWR_PART_EST 0 p.val w.toNat) s.dev) := by
  refine answers_of_runAct (m := doBalEstimate p w.toNat) rfl ha ?_
  rw [runAct_def, doBalEstimate, run_guarded ha, run_bind, run_look, run_onlyIf, if_pos hbal, Nat.mod_eq_of_lt w.isLt]
  rfl

/-- BAL writes the module's ratio, or holds it while the guard is on (R488, R493). -/
theorem balBudgetAdjust_answers (r : BitVec 8) : Answers (.balBudgetAdjust r) s (runAct (if s.dev.pwr.guard then
      updPwr fun x => { x with held := some (r.toNat % 256) }
    else setReg .PWR_MOD_RATIO 0 0 (r.toNat % 256)) s.dev) := by
  refine answers_of_runAct (m := doBalBudget r.toNat) rfl ha ?_
  rw [runAct_def, doBalBudget, run_guarded ha, run_bind, run_look, run_onlyIf, if_pos hbal]
  rfl

end
end

/-- Settles O53: a check by its bounds, a sample, the loop, and BAL's writes. -/
theorem powerLoops : Obligations.PowerLoops := by
  refine fun s => ⟨fun watts ca avg ha => ⟨guardCheck_trip_answers ha, guardCheck_set_answers ha, fun hrun hwatts => guardCheck_stays_answers ha hrun hwatts,
      fun hrun => guardCheck_ends_answers ha hrun⟩, fun dies piles hon => ?sample, fun ha => ⟨?loop, fun hbal => ⟨balEstimateUpdate_answers ha hbal,
      fun r hfree => ?written, fun r hguard => ?held⟩⟩⟩
  case sample =>
    refine answers_of_always (m := doThermalSample dies piles) rfl ?_
    rw [runAct_def, doThermalSample, run_bind, run_look, run_else (by simp [hon])]
    rfl
  case loop => exact answers_of_runAct (m := doThermalAdjust) rfl ha (run_guarded ha _)
  case written =>
    have h := balBudgetAdjust_answers ha hbal r
    rwa [if_neg (by simp [hfree])] at h
  case held =>
    have h := balBudgetAdjust_answers ha hbal r
    rwa [if_pos hguard] at h

end Sys2Proof.Proofs

/-! SUPPORT. The power domains: how they sleep and wake, and what gates a core's clock (R479–R483). -/

namespace Sys2Proof.Proofs

open Sys2Proof.Machine Sys2Proof.Safety Sys2Proof.Laws

/-- A module with one of its domains in another state. -/
def withDom (d : Dev) (i : Nat) (x : DomSt) : Dev := { d with pwr := { d.pwr with doms := d.pwr.doms.set i x } }

section
variable {s : State} (ha : awake s.dev = true)
include ha

/-! Core domains. -/

section
variable {i : Fin 32} (hon : domOf s.dev i.val = .on) (hfree : domHeld s.dev i.val = false) (hidle : domIdle s.dev i.val = true)
include hon hfree hidle

/-- An idle core domain that may turn off and holds no window does, and any other sleeps (R480). -/
theorem coreDomainSleepTimer_answers : Answers (.coreDomainSleepTimer i) s (runAct
    (if bitOf (regOf s.dev .PWR_SLEEP 0) 1 ∧ s.dev.wins.all fun w => !w.inDom i.val then do
      coresOff i.val
      setDom i.val .off
    else setDom i.val .sleep) s.dev) := by
  refine answers_of_runAct (m := doCoreSleep i.val) rfl ha ?_
  rw [runAct_def, doCoreSleep, run_guarded ha, run_bind, run_look, run_onlyIf, if_pos (by simp [hon, hfree, hidle])]
  rfl

theorem coreDomainSleepTimer_sleep_answers (hstay : bitOf (regOf s.dev .PWR_SLEEP 0) 1 = false) :
    Answers (.coreDomainSleepTimer i) s (withDom s.dev i.val .sleep) := by
  have h := coreDomainSleepTimer_answers ha hon hfree hidle
  rwa [if_neg (by simp [hstay])] at h

theorem coreDomainSleepTimer_off_answers (hoff : bitOf (regOf s.dev .PWR_SLEEP 0) 1 = true) (hnone : (s.dev.wins.all fun w => !w.inDom i.val) = true) :
    Answers (.coreDomainSleepTimer i) s (runAct (do
      coresOff i.val
      setDom i.val .off) s.dev) := by
  have h := coreDomainSleepTimer_answers ha hon hfree hidle
  rwa [if_pos ⟨hoff, hnone⟩] at h

end

/-! Wakes. -/

/-- A module one of whose domains has begun to wake. -/
def wakeBegun (d : Dev) (i : Nat) : Dev :=
  { d with pwr := { d.pwr with doms := d.pwr.doms.set i .waking, wakeQ := d.pwr.wakeQ.filter (· ≠ i) } }

section
variable {i : DomId}

section
variable (hasleep : domOf s.dev i.val = .sleep ∨ domOf s.dev i.val = .off)
include hasleep

/-- The first core domain that waits begins to wake while fewer than four are waking (R481). -/
theorem domainWake_core_answers (hcore : i.val < 32) (hfirst : s.dev.pwr.wakeQ.head? = some i.val) (hfew : wakingCores s.dev < 4) :
    Answers (.domainWake i) s (wakeBegun s.dev i.val) := by
  refine answers_of_runAct (m := doDomainWake i.val) rfl ha ?_
  rw [runAct_def, doDomainWake, run_guarded ha, run_bind, run_look, run_ite, if_pos hcore, run_onlyIf,
    if_pos (by obtain h | h := hasleep <;> simp [h, hfirst, hfew])]
  rfl

/-- Any other domain that waits begins to wake at once (R482, R483). -/
theorem domainWake_other_answers (hother : 32 ≤ i.val) (hwaits : s.dev.pwr.wakeQ.contains i.val = true) :
    Answers (.domainWake i) s (wakeBegun s.dev i.val) := by
  refine answers_of_runAct (m := doDomainWake i.val) rfl ha ?_
  rw [runAct_def, doDomainWake, run_guarded ha, run_bind, run_look, run_else hother.not_gt, run_onlyIf,
    if_pos (by obtain h | h := hasleep <;> rw [h, hwaits] <;> rfl)]
  rfl

end

section
variable (hwaking : domOf s.dev i.val = .waking)
include hwaking

/-- A domain that has woken is ON; what follows depends on its kind (R479). -/
theorem domainWakeComplete_answers : Answers (.domainWakeComplete i) s (runAct (do
    onlyIf (decide (i.val < 32)) do
      count .PWR_CORE_WAKES 0 1
      each (coresOfDom i.val) fun c => do
        reloadTables (envOf s.dev) c
        takeLibrary c
    onlyIf (decide (32 ≤ i.val) && decide (i.val < 40)) (updPile (Fin.ofNat 8 (i.val - 32)) fun x => { x with training := !x.ready }))
    (withDom s.dev i.val .on)) := by
  refine answers_of_runAct (m := doDomainWoken i.val) rfl ha ?_
  rw [runAct_def, doDomainWoken, run_guarded ha, run_bind, run_look, run_onlyIf, if_pos (by simp [hwaking])]
  rfl

/-- The wake of a core domain counts at its end, and its cores' tables load again: both are the model's reading (R130, log entries 35 and 88). -/
theorem domainWakeComplete_core_answers (hcore : i.val < 32) : Answers (.domainWakeComplete i) s (runAct (do
    count .PWR_CORE_WAKES 0 1
    each (coresOfDom i.val) fun c => do
      reloadTables (envOf s.dev) c
      takeLibrary c) (withDom s.dev i.val .on)) := by
  have h := domainWakeComplete_answers ha hwaking
  rwa [decide_eq_true hcore, decide_eq_false hcore.not_ge, Bool.false_and] at h

/-- A pile that was OFF is trained (R299). -/
theorem domainWakeComplete_pile_answers (hmin : 32 ≤ i.val) (hmax : i.val < 40) : Answers (.domainWakeComplete i) s
    (runAct (updPile (Fin.ofNat 8 (i.val - 32)) fun x => { x with training := !x.ready }) (withDom s.dev i.val .on)) := by
  have h := domainWakeComplete_answers ha hwaking
  rwa [decide_eq_false hmin.not_gt, decide_eq_true hmin, decide_eq_true hmax] at h

theorem domainWakeComplete_other_answers (hother : 40 ≤ i.val) : Answers (.domainWakeComplete i) s (withDom s.dev i.val .on) := by
  have h := domainWakeComplete_answers ha hwaking
  rwa [decide_eq_false (show ¬ i.val < 32 by omega), decide_eq_false hother.not_gt, Bool.and_false] at h

end
end

/-! Piles, clocks, the fabric and ports. -/

/-- An idle pile goes to self-refresh (R482). -/
theorem pileSelfRefreshTimer_answers {pl : PileId} (hon : domOf s.dev (32 + pl.val) = .on) (hfree : domHeld s.dev (32 + pl.val) = false)
    (hready : (pileOf s.dev pl).ready = true) (hfences : (pileOf s.dev pl).fences = []) :
    Answers (.pileSelfRefreshTimer pl) s (withDom s.dev (32 + pl.val) .sleep) := by
  refine answers_of_runAct (m := doPileSleep pl) rfl ha ?_
  rw [runAct_def, doPileSleep, run_guarded ha, run_bind, run_look, run_onlyIf, if_pos (by simp [hon, hfree, hready, hfences])]
  rfl

/-- An idle core's clock is gated (R479). -/
theorem coreClockGate_answers {c : CoreId} (hon : domOf s.dev (c.val / 25) = .on) (hidle : coreIdle s.dev c = true) :
    Answers (.coreClockGate c) s { s.dev with pwr := { s.dev.pwr with gated := setIns s.dev.pwr.gated c.val } } := by
  refine answers_of_runAct (m := doClockGate c) rfl ha ?_
  rw [runAct_def, doClockGate, run_guarded ha, run_bind, run_look, run_onlyIf, if_pos (by simp [hon, hidle])]
  rfl

/-- The fabric sleeps with every core and pile domain, when it may and no ring waits (R483). -/
theorem fabricSleep_answers (hon : domOf s.dev 48 = .on) (hfree : domHeld s.dev 48 = false) (hmay : bitOf (regOf s.dev .PWR_SLEEP 0) 0 = true)
    (hrings : ringsWait s.dev = false) (hothers : ((s.dev.pwr.doms.take 40).all fun x => x == .sleep || x == .off) = true) :
    Answers .fabricSleep s (withDom s.dev 48 .sleep) := by
  refine answers_of_runAct (m := doFabricSleep) rfl ha ?_
  rw [runAct_def, doFabricSleep, run_guarded ha, run_bind, run_look, run_onlyIf, if_pos (by rw [hon, hfree, hmay, hrings, hothers]; rfl)]
  rfl

/-- The power domain of a host port (R478). -/
def portDom : HostPort → Nat
  | .portA => 44
  | .portB => 45

/-- A module one of whose host ports is in another state, with its domain. -/
def withPort (d : Dev) (port : HostPort) (x : PortSt) (y : DomSt) : Dev :=
  { withDom d (portDom port) y with pins := { d.pins with ports := tabPut d.pins.ports port x } }

/-- A port's domain sleeps as its link goes to L1 (R483). -/
theorem pcieLinkL1_enter_answers {port : HostPort} (hup : tabGet s.dev.pins.ports port .up = .up) (hfree : domHeld s.dev (portDom port) = false) :
    Answers (.pcieLinkL1 port true) s (withPort s.dev port .l1 .sleep) := by
  refine answers_of_runAct (m := doLinkL1 port true) rfl ha ?_
  refine (run_guarded ha _).trans ?_
  cases port <;> exact (run_onlyIf ..).trans (if_pos (by rw [hup]; simpa [portDom] using hfree))

/-- A port's domain wakes as its link leaves L1 (R483). -/
theorem pcieLinkL1_leave_answers {port : HostPort} (hl1 : tabGet s.dev.pins.ports port .up = .l1) :
    Answers (.pcieLinkL1 port false) s (withPort s.dev port .up .on) := by
  refine answers_of_runAct (m := doLinkL1 port false) rfl ha ?_
  refine (run_guarded ha _).trans ?_
  cases port <;> exact (run_onlyIf ..).trans (if_pos (by rw [hl1]; rfl))

end

/-- Settles O54: each domain by its kind and its state. -/
theorem powerDomains : Obligations.PowerDomains := by
  refine fun s ha => ⟨fun i hon hfree hidle => ⟨coreDomainSleepTimer_sleep_answers ha hon hfree hidle, coreDomainSleepTimer_off_answers ha hon hfree hidle⟩,
    fun i hasleep => ⟨domainWake_core_answers ha hasleep, domainWake_other_answers ha hasleep⟩,
    fun i hwaking => ⟨domainWakeComplete_core_answers ha hwaking, domainWakeComplete_pile_answers ha hwaking, domainWakeComplete_other_answers ha hwaking⟩,
    fun pl => pileSelfRefreshTimer_answers ha, fun c => coreClockGate_answers ha, fabricSleep_answers ha, fun port i hi => ?ports⟩
  have hdom : i = portDom port := by rw [hi]; cases port <;> rfl
  subst hdom
  exact ⟨pcieLinkL1_enter_answers ha, pcieLinkL1_leave_answers ha⟩

end Sys2Proof.Proofs

/-! SUPPORT. What the management bindings answer: the sideband's messages (R488, R566–R569) and SPDM (R523–R526). -/

namespace Sys2Proof.Proofs

open Sys2Proof.Machine Sys2Proof.Safety Sys2Proof.Laws

/-- A module that has said something on a binding; the bytes of a body are free values (log entry 7). -/
def withSaid (d : Dev) (b : Binding) (kind : Nat) (bs : List Byte) : Dev := { d with out := d.out ++ [.mctp b (Config.mctpBody kind bs)] }

@[simp] theorem run_mctpSay (b : Binding) (kind : Nat) (bs : List Byte) (k : Unit → Prog) (d : Dev) :
    Prog.run (mctpSay b kind bs k) d = Prog.run (k ()) (withSaid d b kind bs) := rfl

/-- What an index of GET_MEASUREMENTS asks for. -/
def measured (d : Dev) (i : Nat) : Option (List Byte) :=
  if i = 0 then some (leBytes 1 10)
  else if i ≤ 10 then some (measurement d i)
  else if i = 255 then some (measurements d)
  else none

theorem measured_block {d : Dev} {i : Nat} (hmin : 1 ≤ i) (hmax : i ≤ 10) : measured d i = some (measurement d i) := by
  rw [measured, if_neg (by omega), if_pos hmax]

theorem measured_other {d : Dev} {i : Nat} (hbig : 10 < i) (hall : i ≠ 255) : measured d i = none := by
  rw [measured, if_neg (by omega), if_neg hbig.not_ge, if_neg hall]

section
variable {s : State} {b : Binding} (hup : bindingUp s.dev b = true)
include hup

/-- On a binding that is up, a message's action runs. -/
theorem runAct_of_bindingUp (m : Dev → Act Unit) :
    runAct (do let d ← look; onlyIf (bindingUp d b) (m d)) s.dev = runAct (m s.dev) s.dev := by
  rw [runAct_def, run_bind, run_look, run_onlyIf, if_pos hup, runAct_def]

/-! The sideband's messages. -/

/-- BAL keeps the budget between 300 and 2,400 W, and the draw that is above it as a cut that has not been met (R488). -/
theorem pldmBudgetEffecterSet_answers {w : Nat} (hside : b = .sideband) (hbal : procRuns s.dev procBAL = true) :
    Answers (.pldmBudgetEffecterSet b w) s (withSaid { s.dev with
      regs := tabPut s.dev.regs ⟨.PWR_BUDGET, 0, 0⟩ (toWord (max 300 (min 2400 w)))
      pwr := { s.dev.pwr with cut := decide (max 300 (min 2400 w) < bitsOf (regOf s.dev .PWR_INPUT_W 0) 11 0) } } b sayEffecter []) := by
  refine answers_of_always (m := doBudget b w) rfl ((runAct_of_bindingUp hup _).trans ?_)
  rw [runAct_def, run_else (by simp [hside]), run_ite, if_pos hbal]
  rfl

/-- A budget that does not come over the sideband is refused (R569). -/
theorem pldmBudgetEffecterSet_refused_answers {w : Nat} (hside : b ≠ .sideband) :
    Answers (.pldmBudgetEffecterSet b w) s (withSaid s.dev b sayPldmError []) := by
  refine answers_of_always (m := doBudget b w) rfl ((runAct_of_bindingUp hup _).trans ?_)
  rw [runAct_def, run_ite, if_pos hside]
  rfl

theorem pldmSensorRead_answers (id : Nat) :
    Answers (.pldmSensorRead b id) s (withSaid s.dev b saySensor (leBytes 1 id ++ leBytes 8 (sensorValue s.dev id))) :=
  answers_of_always (m := doSensor b id) rfl (runAct_of_bindingUp hup _)

theorem mctpControlMessage_control_answers (msg : List Byte) : Answers (.mctpControlMessage b 0 msg) s (withSaid s.dev b sayControl msg) :=
  answers_of_always (m := doMctpControl b 0 msg) rfl (runAct_of_bindingUp hup _)

/-- PLDM of the types 0 and 2 is answered (R568). -/
theorem mctpControlMessage_pldm_answers {msg : List Byte} (htype : fieldAt msg 1 1 % 64 = 0 ∨ fieldAt msg 1 1 % 64 = 2) :
    Answers (.mctpControlMessage b 1 msg) s (withSaid s.dev b sayControl msg) := by
  refine answers_of_always (m := doMctpControl b 1 msg) rfl ((runAct_of_bindingUp hup _).trans ?_)
  rw [runAct_def, run_else one_ne_zero, run_onlyIf, if_pos (beq_self_eq_true 1), run_ite, if_pos htype]
  rfl

/-- PLDM of any other type is refused (R568). -/
theorem mctpControlMessage_pldm_refused_answers {msg : List Byte} (h0 : fieldAt msg 1 1 % 64 ≠ 0) (h2 : fieldAt msg 1 1 % 64 ≠ 2) :
    Answers (.mctpControlMessage b 1 msg) s (withSaid s.dev b sayPldmError msg) := by
  refine answers_of_always (m := doMctpControl b 1 msg) rfl ((runAct_of_bindingUp hup _).trans ?_)
  rw [runAct_def, run_else one_ne_zero, run_onlyIf, if_pos (beq_self_eq_true 1), run_ite, if_neg (not_or.mpr ⟨h0, h2⟩)]
  rfl

/-- The bus gives the module its address in I3C mode, which strap bit 2 selects when it is 0 (R566, R567). -/
theorem dynamicAddressAssignment_answers {a : BitVec 7} (hside : b = .sideband) (hi3c : bitOf s.dev.pins.straps 2 = false) :
    Answers (.dynamicAddressAssignment a) s { s.dev with pins := { s.dev.pins with dyn := some a.toNat } } := by
  subst hside
  refine answers_of_always (m := doDynamicAddress a.toNat) rfl ?_
  rw [runAct_def, doDynamicAddress, run_bind, run_look, run_onlyIf, if_pos (by rw [hup, hi3c]; rfl)]
  rfl

/-! SPDM requests. -/

section
variable (hsec : procRuns s.dev procSEC = true)
include hsec

/-- While SEC runs, a request on a binding that is up is answered at once (R526). -/
theorem runAct_doSpdm (r : SpdmReq) : runAct (doSpdm b r) s.dev = runAct (answerSpdm b r) s.dev :=
  (runAct_of_bindingUp hup _).trans ((run_ite _ _ _ _ _).trans (if_pos hsec))

/-- A request is counted, and answered by its kind. -/
theorem answers_of_spdm {i : Instr} {r : SpdmReq} {m : Dev → Act Unit} {d : Dev} (he : exec i s = always (doSpdm b r) s)
    (hm : answerSpdm b r = do let d ← look; count .SEC_SPDM_REQS 0 1; m d) (h : runAct (m s.dev) (counted s.dev .SEC_SPDM_REQS 0 1) = d) :
    Answers i s d := by
  refine answers_of_always he ((runAct_doSpdm hup hsec r).trans ?_)
  rw [hm, runAct_def, run_bind, run_look, run_bind, run_count, ← runAct_def, h]

/-- A request is refused (R525); the code is the SPDM document's (log entry 7). -/
abbrev SpdmRefused (s : State) (b : Binding) (i : Instr) (code : Nat) : Prop := Answers i s (runAct (spdmError b code) (counted s.dev .SEC_SPDM_REQS 0 1))

/-- A request is answered with a message of the given kind (R525). -/
abbrev SpdmSays (s : State) (b : Binding) (i : Instr) (kind : Nat) (bs : List Byte) : Prop := Answers i s (withSaid (counted s.dev .SEC_SPDM_REQS 0 1) b kind bs)

theorem getVersion_answers : SpdmSays s b (.getVersion b) sayVersion [] :=
  answers_of_spdm hup hsec rfl (m := fun _ => mctpSay b sayVersion []) rfl rfl

theorem getCapabilities_answers : SpdmSays s b (.getCapabilities b) sayCapabilities [] :=
  answers_of_spdm hup hsec rfl (m := fun _ => mctpSay b sayCapabilities []) rfl rfl

/-- A connection is negotiated when both algorithms are offered (R525). -/
theorem negotiateAlgorithms_answers : Answers (.negotiateAlgorithms b true true) s (runAct (do
    setSec { s.dev.sec with conns := if s.dev.sec.conns.contains b then s.dev.sec.conns else s.dev.sec.conns ++ [b] }
    mctpSay b sayAlgorithms []) (counted s.dev .SEC_SPDM_REQS 0 1)) :=
  answers_of_spdm hup hsec rfl (m := fun d => do
    setSec { d.sec with conns := if d.sec.conns.contains b then d.sec.conns else d.sec.conns ++ [b] }
    mctpSay b sayAlgorithms []) rfl rfl

/-- A negotiation without one of the algorithms ends the connection. That it is answered InvalidRequest is the SPDM document's (log entry 7). -/
theorem negotiateAlgorithms_refused_answers {x y : Bool} (hmissing : (x && y) = false) : Answers (.negotiateAlgorithms b x y) s (runAct (do
    setSec { s.dev.sec with conns := s.dev.sec.conns.filter (· != b) }
    spdmError b errInvalid) (counted s.dev .SEC_SPDM_REQS 0 1)) := by
  refine answers_of_spdm hup hsec rfl rfl ?_
  have hneg : ¬ (x = true ∧ y = true) := by simpa [Bool.and_eq_true] using hmissing
  exact (run_ite _ _ _ _ _).trans (if_neg hneg)

theorem getDigests_answers : SpdmSays s b (.getDigests b) sayDigests (Config.sm3 Config.certChain) :=
  answers_of_spdm hup hsec rfl (m := fun _ => mctpSay b sayDigests (Config.sm3 Config.certChain)) rfl rfl

/-- A part of the certificate chain of slot 0 (R525). -/
theorem getCertificate_answers (off n : Nat) : SpdmSays s b (.getCertificate b 0 off n) sayCertificate ((Config.certChain.drop off).take n) :=
  answers_of_spdm hup hsec rfl (m := fun _ => mctpSay b sayCertificate ((Config.certChain.drop off).take n)) rfl rfl

/-- A challenge for slot 0 is answered with a signature over the digest, the measurements and the nonce (R525). -/
theorem challenge_answers (nonce : List Byte) : SpdmSays s b (.challenge b 0 nonce) sayChallenge
    (signedBytes (Config.sm3 Config.certChain ++ measurements s.dev ++ nonce)) :=
  answers_of_spdm hup hsec rfl (m := fun d => mctpSay b sayChallenge (signedBytes (Config.sm3 Config.certChain ++ measurements d ++ nonce))) rfl rfl

section
variable {slot : Fin 8} (hslot : slot ≠ 0)
include hslot

theorem getCertificate_refused_answers (off n : Nat) : SpdmRefused s b (.getCertificate b slot off n) errInvalid := by
  refine answers_of_spdm hup hsec rfl rfl ?_
  exact (run_ite _ _ _ _ _).trans (if_neg fun h => hslot (Fin.ext h))

theorem challenge_refused_answers (nonce : List Byte) : SpdmRefused s b (.challenge b slot nonce) errInvalid := by
  refine answers_of_spdm hup hsec rfl rfl ?_
  exact (run_ite _ _ _ _ _).trans (if_neg fun h => hslot (Fin.ext h))

end

/-! Measurements: index 0 asks for their number and 255 for all of them, as the SPDM document says (R524, log entry 7). -/

section
variable (i : Nat) (signed : Bool) (nonce : List Byte)

/-- The body of an answer that carries measurements, signed when that is asked for. -/
def measurementsBody (m : List Byte) : List Byte := if signed then signedBytes (m ++ nonce) else m

/-- An index that asks for something is answered. -/
theorem getMeasurements_answers {m : List Byte} (hm : measured s.dev i = some m) :
    SpdmSays s b (.getMeasurements b i signed nonce) sayMeasurements (measurementsBody signed nonce m) := by
  refine answers_of_spdm hup hsec rfl (m := fun d => match measured d i with
    | none => spdmError b errInvalid
    | some m => mctpSay b sayMeasurements (measurementsBody signed nonce m)) rfl ?_
  rw [hm]
  rfl

/-- Any other index is refused. -/
theorem getMeasurements_refused_answers (hm : measured s.dev i = none) : SpdmRefused s b (.getMeasurements b i signed nonce) errInvalid := by
  refine answers_of_spdm hup hsec rfl (m := fun d => match measured d i with
    | none => spdmError b errInvalid
    | some m => mctpSay b sayMeasurements (measurementsBody signed nonce m)) rfl ?_
  rw [hm]

end

/-- Any other request is refused (R525). -/
theorem spdmUnsupportedRequest_answers (code : BitVec 8) : SpdmRefused s b (.spdmUnsupportedRequest b code) errUnsupported :=
  answers_of_spdm hup hsec rfl (m := fun _ => spdmError b errUnsupported) rfl rfl

end
end

/-- Settles O55: each message on a binding that is up. -/
theorem managementMessages : Obligations.ManagementMessages :=
  fun _ _ hup => ⟨fun _ => pldmBudgetEffecterSet_answers hup, fun _ => pldmBudgetEffecterSet_refused_answers hup, pldmSensorRead_answers hup,
    mctpControlMessage_control_answers hup, fun _ => mctpControlMessage_pldm_answers hup, fun _ => mctpControlMessage_pldm_refused_answers hup,
    fun _ => dynamicAddressAssignment_answers hup⟩

/-- Settles O56: each request by its kind. The codes of the refusals and the layout of the answers are free values (log entry 7). -/
theorem spdmRequests : Obligations.SpdmRequests :=
  fun _ _ hup hsec => ⟨getVersion_answers hup hsec, getCapabilities_answers hup hsec, negotiateAlgorithms_answers hup hsec,
    fun _ _ => negotiateAlgorithms_refused_answers hup hsec, getDigests_answers hup hsec, getCertificate_answers hup hsec, challenge_answers hup hsec,
    fun _ off n nonce hslot => ⟨getCertificate_refused_answers hup hsec hslot off n, challenge_refused_answers hup hsec hslot nonce⟩,
    fun i signed nonce => ⟨getMeasurements_answers hup hsec 0 signed nonce rfl,
      fun hmin hmax => getMeasurements_answers hup hsec i signed nonce (measured_block hmin hmax),
      getMeasurements_answers hup hsec 255 signed nonce rfl,
      fun hbig hall => getMeasurements_refused_answers hup hsec i signed nonce (measured_other hbig hall)⟩,
    spdmUnsupportedRequest_answers hup hsec⟩

end Sys2Proof.Proofs

/-! SUPPORT. The control registers of firmware, SEC, the strike and the perturbations, which commands write by their names (R3, R7). -/

namespace Sys2Proof.Proofs

open Sys2Proof.Machine Sys2Proof.Safety Sys2Proof.Laws

/-- The control registers of the blocks without partitions whose writes act and are kept nowhere by the write itself. -/
def controls : List RegName := [.FW_PROC_CTRL, .FW_LOAD_CTRL, .SEC_SVN_COMMIT, .SEC_KEY_CTRL, .SEC_DEBUG_CTRL, .STRIKE_CTRL, .STRIKE_FIRE, .DBG_PAR]

/-- What a write to a control register does. -/
def controlAct (n : RegName) (f : FnId) (v : Nat) : Act Unit :=
  match n with
  | .FW_PROC_CTRL => doProcRestart f v
  | .FW_LOAD_CTRL => doFwLoadGo f v
  | .STRIKE_CTRL => do
    strikeRelease v
    strikeControl v
  | .STRIKE_FIRE => strikeFire v
  | .DBG_PAR => debugWrite .DBG_PAR v
  | n => secWrite n f v

/-- The register map names each of them, and none is expert-only. -/
theorem row_of_control : ∀ n ∈ controls, (n.row.map fun r => (r.name, r.expert)) = some (n, false) := by decide +kernel

/-- None of them has a cnt_clear. -/
theorem not_counterControl_of_control : ∀ n ∈ controls, (ctrMap.any fun r => r.ctl == some n) = false := by decide +kernel

theorem not_budget_of_control : ∀ n ∈ controls, (n != .PWR_BUDGET) = true := by decide

/-- A write to a control register does what the register does, and nothing else. -/
theorem run_regWrite_control {row : RegRow} (hc : row.name ∈ controls) (f : FnId) (v : Nat) (k : Unit → Prog) (d : Dev) :
    Prog.run (regWrite f row 0 0 v k) d = Prog.run (controlAct row.name f v k) d := by
  have hctl := not_counterControl_of_control _ hc
  rw [regWrite, run_bind, run_look, hctl, Bool.and_false]
  obtain ⟨blk, off, stride, num, name, rw, w1c, w1s, reset, expert, live⟩ := row
  dsimp only at hc ⊢
  simp only [controls, List.mem_cons, List.not_mem_nil, or_false] at hc
  obtain rfl | rfl | rfl | rfl | rfl | rfl | rfl | rfl := hc <;> rfl

section
variable {s : State} {i : Instr} {f : FnId} {n : RegName} {v : Nat} {go : Bool} {d e : Dev} (hr : reaches s.dev f = true) (hpf : isPf f = true)
  (hw : Runs wakeFabric s.dev () d)
include hr hpf hw

/-- A command by which a physical function writes a control register: once the fabric is awake, the register acts. -/
theorem answers_of_control (he : exec i s = after (onlyIf go (writeNamed f n 0 0 v)) s) (hgo : go = true) (hc : n ∈ controls)
    (h : runAct (controlAct n f v) d = e) : Answers i s e := by
  obtain ⟨row, hrow, hname⟩ := Option.map_eq_some_iff.mp (row_of_control n hc)
  obtain ⟨rfl, hplain⟩ := Prod.mk.inj hname
  have hst : writeStands s.dev f row 0 0 = true := by rw [writeStands, not_budget_of_control _ hc, hplain]; rfl
  refine answers_of_runAct he (awake_of_reaches hr) ?_
  rw [runAct_def, run_onlyIf, if_pos hgo, run_writeNamed hr hw hpf hrow hst, run_regWrite_control hc, ← runAct_def, h]

end

end Sys2Proof.Proofs

/-! SUPPORT. The strike and the perturbations (R536–R551). -/

namespace Sys2Proof.Proofs

open Sys2Proof.Machine Sys2Proof.Safety Sys2Proof.Laws

section
variable {s : State} {f : FnId} {v : Word} {d : Dev} (hr : reaches s.dev f = true) (hpf : isPf f = true) (hw : Runs wakeFabric s.dev () d)
include hr hpf hw

theorem strikeFire_answers (hfire : bitOf v.toNat 0 = true) : Answers (.strikeFire f v) s (runAct (raiseStrike 1) d) := by
  refine answers_of_control hr hpf hw rfl hfire (by decide) ?_
  exact (run_onlyIf _ _ _ _).trans (if_pos hfire)

/-! STRIKE_CTRL. -/

/-- A write to STRIKE_CTRL releases the snapshots when it says so, and writes the enables and arm (R539). -/
theorem strikeArm_answers : Answers (.strikeArm f v) s (runAct (do
    strikeRelease v.toNat
    strikeControl v.toNat) d) :=
  answers_of_control (go := true) hr hpf hw rfl rfl (by decide) rfl

theorem strikeArm_armed_answers (hkeep : bitOf v.toNat 8 = false) (harm : bitOf v.toNat 0 = true) : Answers (.strikeArm f v) s (runAct (do
    setReg .STRIKE_CTRL 0 0 (v.toNat % 256)
    askWake 49) d) := by
  have h := strikeArm_answers (v := v) hr hpf hw
  rwa [strikeRelease, strikeControl, hkeep, harm] at h

theorem strikeArm_disarmed_answers (hkeep : bitOf v.toNat 8 = false) (hdisarm : bitOf v.toNat 0 = false) : Answers (.strikeArm f v) s (runAct (do
    setReg .STRIKE_CTRL 0 0 (v.toNat % 256)
    updPwr fun x => { x with wakeQ := x.wakeQ.filter (· ≠ 49) }
    debugOff) d) := by
  have h := strikeArm_answers (v := v) hr hpf hw
  rwa [strikeRelease, strikeControl, hkeep, hdisarm] at h

section
variable (hrelease : bitOf v.toNat 8 = true)
include hrelease

theorem strikeArm_release_answers : Answers (.strikeArm f v) s (runAct (do
    dropSnap
    strikeControl v.toNat) d) := by
  have h := strikeArm_answers (v := v) hr hpf hw
  rwa [strikeRelease, hrelease] at h

theorem strikeRelease_answers : Answers (.strikeRelease f v) s (runAct (do
    dropSnap
    strikeControl v.toNat) d) := by
  refine answers_of_control hr hpf hw rfl hrelease (by decide) ?_
  rw [controlAct, strikeRelease, hrelease]
  rfl

end

/-! DBG_PAR. -/

section
variable (hgo : bitOf v.toNat 31 = true)
include hgo

/-- DBG_PAR acts within an unlock of scope bit 0; its mode 3 of a pile needs the whole module's (R543, R547). -/
theorem dbgParGo_answers : Answers (.dbgParGo f v) s (runAct (debugWrite .DBG_PAR v.toNat) d) :=
  answers_of_control hr hpf hw rfl hgo (by decide) rfl

/-- The injection of a block that the unlock covers is set; which blocks an unlock and an injection cover is log entries 91 and 92. -/
theorem dbgParGo_set_answers (hin : inUnlock d 0 (dbgSel d) = true)
    (hwide : unlockOf d 0 = some 0xFFFF ∨ kindOf (dbgSel d) ≠ .pile ∨ bitsOf v.toNat 27 26 ≠ 3) :
    Answers (.dbgParGo f v) s (runAct (setInjection (dbgSel d) v.toNat) d) := by
  have h := dbgParGo_answers hr hpf hw hgo
  rwa [runAct_def, debugWrite, run_bind, run_look, run_ite, if_pos ⟨hin, by simpa [imp_false] using hwide⟩] at h

/-- A write outside every unlock is refused and counted (R543). -/
theorem dbgParGo_refused_answers (hout : inUnlock d 0 (dbgSel d) = false ∨
      unlockOf d 0 ≠ some 0xFFFF ∧ kindOf (dbgSel d) = .pile ∧ bitsOf v.toNat 27 26 = 3) :
    Answers (.dbgParGo f v) s (counted d .DBG_REFUSED 0 1) := by
  have h := dbgParGo_answers hr hpf hw hgo
  rw [runAct_def, debugWrite, run_bind, run_look, run_else (by obtain hout | ⟨hpart, hpile, hmode⟩ := hout <;> simp [*]), run_count] at h
  exact h

end
end

section
variable {s : State} (ha : awake s.dev = true)
include ha

/-! The strike's other sources. -/

theorem strikeInputEdge_answers (hon : bitOf (regOf s.dev .STRIKE_CTRL 0) 6 = true) : Answers .strikeInputEdge s (runAct (raiseStrike 0x20) s.dev) := by
  refine answers_of_runAct (m := doStrikeInput) rfl ha ?_
  rw [runAct_def, doStrikeInput, run_guarded ha, run_bind, run_look, run_onlyIf, if_pos hon, runAct_def]

/-- The strike input raises nothing while its source is disabled (R537). -/
theorem strikeInputEdge_disabled_answers (hoff : bitOf (regOf s.dev .STRIKE_CTRL 0) 6 = false) : Answers .strikeInputEdge s s.dev := by
  refine answers_of_runAct (m := doStrikeInput) rfl ha ?_
  rw [runAct_def, doStrikeInput, run_guarded ha, run_bind, run_look, run_onlyIf, if_neg (by simp [hoff])]
  rfl

/-- The threshold of a source (R542). -/
def thresholdOf (d : Dev) (i : Fin 4) : Nat := regOf d .STRIKE_THR_HI 0 i.val * 2 ^ 32 + regOf d .STRIKE_THR_LO 0 i.val

/-- A module that has seen a threshold source's counter below its threshold, or not. -/
def thresholdSeen (d : Dev) (i : Fin 4) (b : Bool) : Dev := { d with strike := { d.strike with below := d.strike.below.set i.val b } }

section
variable {i : Fin 4} {n : Nat} (hctr : counterAt s.dev 0 (bitsOf (regOf s.dev .STRIKE_THR_SEL 0 i.val) 25 3 * 8) = some (n, false))
include hctr

/-- A sample of a threshold source; the counter is read as function A0 sees it (R542, log entry 93). -/
theorem strikeThresholdSample_answers : Answers (.strikeThresholdSample i) s (runAct
    (onlyIf (decide (thresholdOf s.dev i ≤ n) && s.dev.strike.below.getD i.val false && bitOf (regOf s.dev .STRIKE_CTRL 0) (1 + i.val)) do
      setField .STRIKE_CTRL 0 0 (1 + i.val) (1 + i.val) 0
      raiseStrike 8) (thresholdSeen s.dev i (decide (n < thresholdOf s.dev i)))) := by
  refine answers_of_runAct (m := doThreshold i) rfl ha ?_
  rw [runAct_def, doThreshold, run_guarded ha, run_bind, run_look, hctr]
  dsimp only
  rw [run_bind, run_emit, ← thresholdOf, runAct_def]
  rfl

theorem strikeThresholdSample_below_answers (hlow : n < thresholdOf s.dev i) : Answers (.strikeThresholdSample i) s (thresholdSeen s.dev i true) := by
  have h := strikeThresholdSample_answers ha hctr
  rwa [decide_eq_false hlow.not_ge, decide_eq_true hlow, Bool.false_and] at h

section
variable (hhigh : thresholdOf s.dev i ≤ n)
include hhigh

/-- The first sample that reaches the threshold fires the source once (R542). -/
theorem strikeThresholdSample_crossing_answers (hbelow : s.dev.strike.below.getD i.val false = true)
    (hon : bitOf (regOf s.dev .STRIKE_CTRL 0) (1 + i.val) = true) : Answers (.strikeThresholdSample i) s (runAct (do
    setField .STRIKE_CTRL 0 0 (1 + i.val) (1 + i.val) 0
    raiseStrike 8) (thresholdSeen s.dev i false)) := by
  have h := strikeThresholdSample_answers ha hctr
  rwa [decide_eq_true hhigh, decide_eq_false hhigh.not_gt, hbelow, hon] at h

theorem strikeThresholdSample_above_answers
    (hidle : s.dev.strike.below.getD i.val false = false ∨ bitOf (regOf s.dev .STRIKE_CTRL 0) (1 + i.val) = false) :
    Answers (.strikeThresholdSample i) s (thresholdSeen s.dev i false) := by
  have h := strikeThresholdSample_answers ha hctr
  have hquiet : (s.dev.strike.below.getD i.val false && bitOf (regOf s.dev .STRIKE_CTRL 0) (1 + i.val)) = false := Bool.and_eq_false_iff.mpr hidle
  rwa [decide_eq_true hhigh, decide_eq_false hhigh.not_gt, Bool.true_and, hquiet] at h

end
end

/-! Delayed credits. -/

section
variable {block : BitVec 12}

theorem creditDelayExpiry_none_answers (hnone : (dbgOf s.dev block.toNat).delayed = []) : Answers (.creditDelayExpiry block) s s.dev := by
  refine answers_of_runAct (m := doCreditDelay block.toNat) rfl ha ?_
  rw [runAct_def, doCreditDelay, run_bind, run_look, hnone]
  rfl

/-- The credit whose delay ends is the oldest (R544). -/
theorem creditDelayExpiry_answers {h : Nat × Nat} {hs : List (Nat × Nat)} (hsome : (dbgOf s.dev block.toNat).delayed = h :: hs) :
    Answers (.creditDelayExpiry block) s (runAct (do
      updDbg block.toNat fun x => { x with delayed := hs }
      freeHeld block.toNat h) s.dev) := by
  refine answers_of_runAct (m := doCreditDelay block.toNat) rfl ha ?_
  rw [runAct_def, doCreditDelay, run_bind, run_look, hsome]
  rfl

end
end

/-- Settles O60: the strike's sources, STRIKE_CTRL, DBG_PAR and the delayed credits. -/
theorem strikeCommands : Obligations.StrikeCommands :=
  fun _ ha => ⟨fun _ _ _ hr hpf hw => ⟨strikeFire_answers hr hpf hw, strikeArm_armed_answers hr hpf hw, strikeArm_disarmed_answers hr hpf hw,
      fun hrelease => ⟨strikeArm_release_answers hr hpf hw hrelease, strikeRelease_answers hr hpf hw hrelease⟩,
      dbgParGo_set_answers hr hpf hw, dbgParGo_refused_answers hr hpf hw⟩,
    strikeInputEdge_answers ha, strikeInputEdge_disabled_answers ha,
    fun _ _ hctr => ⟨strikeThresholdSample_below_answers ha hctr, strikeThresholdSample_crossing_answers ha hctr, strikeThresholdSample_above_answers ha hctr⟩,
    fun _ => creditDelayExpiry_none_answers ha, fun _ _ _ => creditDelayExpiry_answers ha⟩

end Sys2Proof.Proofs

/-! SUPPORT. The load of a bundle (R454–R457). -/

namespace Sys2Proof.Proofs

open Sys2Proof.Machine Sys2Proof.Safety Sys2Proof.Laws

/-- A physical function that writes FW_LOAD_CTRL.go in ROM_WAIT or REJECTED has the bundle read from its host (R456). -/
theorem fwLoadGo_answers {s : State} {f : FnId} {v : Word} {d : Dev} (hr : reaches s.dev f = true) (hpf : isPf f = true) (hw : Runs wakeFabric s.dev () d)
    (hr' : reaches d f = true) (hgo : bitOf v.toNat 31 = true) (hstate : fwState d = 0 ∨ fwState d = 5) : Answers (.fwLoadGo f v) s (runAct (do
      setField .FW_STATUS 0 0 4 0 (1 + 16 * b2n (decide (8 ≤ f.val)))
      emit (.out (.hostRead f (addrPair d .FW_LOAD_ADDR_LO .FW_LOAD_ADDR_HI 0 0) (regOf d .FW_LOAD_SIZE 0)))) d) := by
  refine answers_of_control hr hpf hw rfl hgo (by decide) ?_
  rw [controlAct, runAct_def, doFwLoadGo, run_bind, run_look, run_onlyIf, if_pos (by simp [hr', hpf, hgo, hstate]), runAct_def]

section
variable {s : State} (ha : awake s.dev = true)
include ha

/-- The boot ROM takes the bytes that the read has brought, and checks them (R456). -/
theorem bundleDmaComplete_answers {bundle : List Byte} {dma : Bool} (hstate : fwState s.dev = 1) : Answers (.bundleDmaComplete bundle dma) s
    (runAct (setField .FW_STATUS 0 0 3 0 2) { s.dev with fw := { s.dev.fw with pend := bundle, dmaErr := dma } }) := by
  refine answers_of_runAct (m := doBundleDma bundle dma) rfl ha ?_
  rw [runAct_def, doBundleDma, run_guarded ha, run_bind, run_look, run_onlyIf, if_pos (by simp [hstate])]
  rfl

section
variable (hstate : fwState s.dev = 2)
include hstate

/-- The bounds of a component are checked under code 2, as the other bounds of the bundle (R455, log entry 89). -/
theorem bundleVerificationDone_rejected_answers {code : Nat} (hfails : bundleFails s.dev s.dev.fw.pend s.dev.fw.dmaErr = some code) :
    Answers .bundleVerificationDone s (runAct (do
      rejectBundle code
      setField .FW_STATUS 0 0 3 0 5
      updFw fun x => { x with pend := [] }) s.dev) := by
  refine answers_of_runAct (m := doBundleVerified) rfl ha ?_
  rw [runAct_def, doBundleVerified, run_guarded ha, run_bind, run_look, run_onlyIf, if_pos (by simp [hstate]), hfails, runAct_def]

/-- A bundle that passes runs: its processors are released and measured in the order SEC, SUP, BAL, MEM, LNK, HIF (R456). -/
theorem bundleVerificationDone_passed_answers (hpasses : bundleFails s.dev s.dev.fw.pend s.dev.fw.dmaErr = none) :
    Answers .bundleVerificationDone s (runAct (do
      setField .FW_STATUS 0 0 11 8 0
      setField .FW_STATUS 0 0 3 0 3
      updFw fun x => { x with
        running := x.pend
        pend := [] }
      setReg .FW_VERSION 0 0 (bundleVersion s.dev.fw.pend)
      measureHeader s.dev.fw.pend
      release s.dev.fw.pend [4, 5, 1, 3, 2, 0]) s.dev) := by
  refine answers_of_runAct (m := doBundleVerified) rfl ha ?_
  rw [runAct_def, doBundleVerified, run_guarded ha, run_bind, run_look, run_onlyIf, if_pos (by simp [hstate]), hpasses, runAct_def]

end

/-- Once HIF is ready the module is, and MEM trains the piles (R299, R457). -/
theorem processorReady_answers (hstate : fwState s.dev = 3) (hruns : procRuns s.dev procHIF = true) : Answers (.processorReady procHIF) s (runAct (do
    setField .FW_STATUS 0 0 3 0 4
    each allPiles fun pl =>
      if domOf s.dev (32 + pl.val) = .on then updPile pl fun x => { x with training := !x.ready } else askWake (32 + pl.val)) s.dev) := by
  refine answers_of_runAct (m := doProcReady procHIF) rfl ha ?_
  rw [runAct_def, doProcReady, run_guarded ha, run_bind, run_look, run_onlyIf, if_pos (by simp [hstate, hruns]), runAct_def]

end

/-- Settles O57: each step of the load, by the state it finds. -/
theorem bundleLoads : Obligations.BundleLoads :=
  fun _ ha => ⟨fun _ _ _ => fwLoadGo_answers, fun _ _ => bundleDmaComplete_answers ha, fun _ hstate => bundleVerificationDone_rejected_answers ha hstate,
    fun hstate => bundleVerificationDone_passed_answers ha hstate, processorReady_answers ha⟩

end Sys2Proof.Proofs

/-! SUPPORT. The registers on which SEC acts: the fuses (R522) and the debug unlock (R530–R532), while it runs and while it restarts (R460). -/

namespace Sys2Proof.Proofs

open Sys2Proof.Machine Sys2Proof.Safety Sys2Proof.Laws

/-- What the hardware does with a write to one of SEC's registers, whether SEC runs or not (R522, R532). -/
def secHardware (n : RegName) (v : Nat) : Act Unit := do
  onlyIf (n == .SEC_DEBUG_CTRL && bitOf v 2) endUnlock
  onlyIf (n == .SEC_KEY_CTRL && bitOf v 2) (setField .SEC_KEY_CTRL 0 0 2 2 0)

section
variable {n : RegName} {f : FnId} {v : Nat} {d e : Dev}

/-- Without bit 2 the hardware does nothing with any of the registers. -/
theorem runs_secHardware_of_keep (hkeep : bitOf v 2 = false) (n : RegName) (d : Dev) : Runs (secHardware n v) d () d := by
  intro k
  simp only [secHardware, run_bind, run_onlyIf, hkeep, Bool.and_false, Bool.false_eq_true, if_false]

theorem runs_secHardware_svn (v : Nat) (d : Dev) : Runs (secHardware .SEC_SVN_COMMIT v) d () d := fun _ => rfl

theorem runs_secHardware_key (h : Runs (onlyIf (bitOf v 2) (setField .SEC_KEY_CTRL 0 0 2 2 0)) d () e) : Runs (secHardware .SEC_KEY_CTRL v) d () e := h

theorem runs_secHardware_debug (h : Runs (onlyIf (bitOf v 2) endUnlock) d () e) : Runs (secHardware .SEC_DEBUG_CTRL v) d () e := h

variable (hh : Runs (secHardware n v) d () e)
include hh

/-- While SEC runs it acts at once (R460). -/
theorem runAct_secWrite_running (hsec : procRuns e procSEC = true) : runAct (secWrite n f v) d = runAct (secAct n f v) e := by
  refine (hh _).trans ?_
  rw [run_bind, run_look, run_ite, if_pos hsec, runAct_def]

/-- While SEC restarts the write waits for it (R460, log entry 90). -/
theorem runAct_secWrite_restarting (hsec : (procOf e procSEC).st = .restarting) :
    runAct (secWrite n f v) d = { e with fw := { e.fw with late := e.fw.late ++ [.sec n f v] } } := by
  refine (hh _).trans ?_
  rw [run_bind, run_look, run_else (by simp [procRuns, hsec]), run_onlyIf, if_pos (by simp [hsec])]
  rfl

end

/-- The key register's write of the hardware leaves SEC's state and the bundle. -/
theorem frame_keyHardware {b : Bool} {d e : Dev} (h : Runs (onlyIf b (setField .SEC_KEY_CTRL 0 0 2 2 0)) d () e) : e.sec = d.sec ∧ e.fw = d.fw := by
  obtain rfl : _ = e := runAct_of_runs h
  cases b <;> exact ⟨rfl, rfl⟩

/-! The commands. -/

section
variable {s : State} {f : FnId} {v : Word} {d : Dev} (hr : reaches s.dev f = true) (hpf : isPf f = true) (hw : Runs wakeFabric s.dev () d)
include hr hpf hw

section
variable {i : Instr} {n : RegName} {go : Bool} {e t : Dev} (he : exec i s = after (onlyIf go (writeNamed f n 0 0 v.toNat)) s) (hgo : go = true)
  (hn : n ∈ controls) (hact : controlAct n f v.toNat = secWrite n f v.toNat) (hh : Runs (secHardware n v.toNat) d () e)
include he hgo hn hact hh

/-- A write to a register of a SEC that runs: the hardware's part, then SEC's. -/
theorem answers_of_secAct (hsec : procRuns e procSEC = true) (h : runAct (secAct n f v.toNat) e = t) : Answers i s t :=
  answers_of_control hr hpf hw he hgo hn ((congrArg (runAct · d) hact).trans ((runAct_secWrite_running hh hsec).trans h))

/-- A write to a register of a SEC that restarts: the hardware's part, and the rest later. -/
theorem answers_of_secLate (hsec : (procOf e procSEC).st = .restarting) :
    Answers i s { e with fw := { e.fw with late := e.fw.late ++ [.sec n f v.toNat] } } :=
  answers_of_control hr hpf hw he hgo hn ((congrArg (runAct · d) hact).trans (runAct_secWrite_restarting hh hsec))

end

/-! While SEC runs. -/

section
variable (hsec : procRuns d procSEC = true)
include hsec

/-- SVN_COMMIT burns the running bundle's svn, at most 255, when it is higher than the fuses (R522). -/
theorem secSvnCommit_answers (hgo : bitOf v.toNat 0 = true) : Answers (.secSvnCommit f v) s (runAct
    (onlyIf (bitOf v.toNat 0 && decide (d.sec.svn < min (bundleSvn d.fw.running) 255)) do
      emit (.burnSvn (min (bundleSvn d.fw.running) 255))
      logAt 1 4 none) d) :=
  answers_of_secAct hr hpf hw rfl hgo (by decide) rfl (runs_secHardware_svn _ _) hsec rfl

theorem secSvnCommit_burns_answers (hgo : bitOf v.toNat 0 = true) (hhigher : d.sec.svn < min (bundleSvn d.fw.running) 255) :
    Answers (.secSvnCommit f v) s (runAct (do
      emit (.burnSvn (min (bundleSvn d.fw.running) 255))
      logAt 1 4 none) d) := by
  have h := secSvnCommit_answers hr hpf hw hsec hgo
  rwa [hgo, decide_eq_true hhigher] at h

theorem secSvnCommit_keeps_answers (hgo : bitOf v.toNat 0 = true) (hlower : min (bundleSvn d.fw.running) 255 ≤ d.sec.svn) :
    Answers (.secSvnCommit f v) s d := by
  have h := secSvnCommit_answers hr hpf hw hsec hgo
  rwa [decide_eq_false hlower.not_gt, Bool.and_false] at h

end

section
variable {e : Dev} (hh : Runs (onlyIf (bitOf v.toNat 2) (setField .SEC_KEY_CTRL 0 0 2 2 0)) d () e) (hsec : procRuns e procSEC = true)
include hh hsec

/-- SEC acts on a write to KEY_CTRL (R522). -/
theorem secKeyRevoke_answers : Answers (.secKeyRevoke f v) s (runAct (keyRevoke v.toNat) e) :=
  answers_of_secAct (go := true) hr hpf hw rfl rfl (by decide) rfl (runs_secHardware_key hh) hsec rfl

theorem secKeyRevoke_idle_answers (hidle : bitOf v.toNat 3 = false) : Answers (.secKeyRevoke f v) s e := by
  have h := secKeyRevoke_answers hr hpf hw hh hsec
  rwa [runAct_def, keyRevoke, run_bind, run_look, run_onlyIf, if_neg (by simp [hidle])] at h

/-- A slot whose key did not sign the running bundle, and that is not the last, is burned once (R522). -/
theorem secKeyRevoke_burns_answers (hgo : bitOf v.toNat 3 = true)
    (hother : Config.bundleKeyHash (Fin.ofNat 4 (v.toNat % 4)) ≠ Config.sm3 (bundleKey d.fw.running)) (hleft : (d.sec.revoked ||| 2 ^ (v.toNat % 4)) % 16 ≠ 15) :
    Answers (.secKeyRevoke f v) s (runAct (onlyIf (!bitOf d.sec.revoked (v.toNat % 4)) do
      emit (.burnKey (v.toNat % 4))
      logAt 1 4 none) e) := by
  obtain ⟨hs, hf⟩ := frame_keyHardware hh
  have h := secKeyRevoke_answers hr hpf hw hh hsec
  rwa [runAct_def, keyRevoke, run_bind, run_look, run_onlyIf, if_pos hgo, hs, hf, run_else (not_or.mpr ⟨hother, hleft⟩), ← runAct_def] at h

theorem secKeyRevoke_refused_answers (hgo : bitOf v.toNat 3 = true)
    (hbad : Config.bundleKeyHash (Fin.ofNat 4 (v.toNat % 4)) = Config.sm3 (bundleKey d.fw.running) ∨ (d.sec.revoked ||| 2 ^ (v.toNat % 4)) % 16 = 15) :
    Answers (.secKeyRevoke f v) s (runAct (orReg .SEC_KEY_CTRL 0 0 4) e) := by
  obtain ⟨hs, hf⟩ := frame_keyHardware hh
  have h := secKeyRevoke_answers hr hpf hw hh hsec
  rwa [runAct_def, keyRevoke, run_bind, run_look, run_onlyIf, if_pos hgo, hs, hf, run_ite, if_pos hbad, ← runAct_def] at h

end

/-! DEBUG_CTRL: the hardware locks, then SEC takes the token, then it draws a nonce (R531, R532). The order within one write is log entry 91. -/

/-- What SEC does with a write to DEBUG_CTRL. -/
def debugActs (f : FnId) (v : Nat) : Act Unit := do
  onlyIf (bitOf v 1) (debugSubmit f)
  onlyIf (bitOf v 0) debugChallenge

section
variable {e : Dev} (hh : Runs (onlyIf (bitOf v.toNat 2) endUnlock) d () e) (hsec : procRuns e procSEC = true)
include hh hsec

theorem secDebugChallenge_answers (hgo : bitOf v.toNat 0 = true) : Answers (.secDebugChallenge f v) s (runAct (debugActs f v.toNat) e) :=
  answers_of_secAct hr hpf hw rfl hgo (by decide) rfl (runs_secHardware_debug hh) hsec rfl

theorem secDebugSubmit_answers (hgo : bitOf v.toNat 1 = true) : Answers (.secDebugSubmit f v) s (runAct (debugActs f v.toNat) e) :=
  answers_of_secAct hr hpf hw rfl hgo (by decide) rfl (runs_secHardware_debug hh) hsec rfl

theorem secDebugLock_answers (hgo : bitOf v.toNat 2 = true) : Answers (.secDebugLock f v) s (runAct (debugActs f v.toNat) e) :=
  answers_of_secAct hr hpf hw rfl hgo (by decide) rfl (runs_secHardware_debug hh) hsec rfl

end

section
variable (hv : v = 2) (hsec : procRuns d procSEC = true)
include hv hsec

/-- A write that only submits the token. -/
theorem secDebugSubmit_only_answers : Answers (.secDebugSubmit f v) s (runAct (debugSubmit f) d) := by
  subst hv
  exact secDebugSubmit_answers (v := 2) hr hpf hw (fun _ => rfl) hsec (by decide)

/-- A token that fails a check is counted with the code, and uses up the challenge (R531). -/
theorem secDebugSubmit_fails_answers {code : Nat} (hfails : tokenFails d f (tokenBytes d) = some code) : Answers (.secDebugSubmit f v) s (runAct (do
    setSec { d.sec with nonce := none }
    setField .SEC_DEBUG_STATUS 0 0 7 4 code
    count .SEC_DEBUG_REJECTS 0 1) d) := by
  have h := secDebugSubmit_only_answers hr hpf hw hv hsec
  rwa [runAct_def, debugSubmit, run_bind, run_look, hfails, ← runAct_def] at h

/-- A token that passes its checks unlocks, in place of the unlock in effect (R531). -/
theorem secDebugSubmit_unlocks_answers (hpasses : tokenFails d f (tokenBytes d) = none) : Answers (.secDebugSubmit f v) s (runAct (do
    endUnlock
    let e ← look
    setSec { e.sec with
      nonce := none
      unlock := some (fieldAt (tokenBytes d) 6 2, fieldAt (tokenBytes d) 0x20 2) }
    setReg .SEC_DEBUG_STATUS 0 0 ((regOf e .SEC_DEBUG_STATUS 0 &&& 0xF0) + fieldAt (tokenBytes d) 0x20 2 * 65536 + fieldAt (tokenBytes d) 6 2 * 4 + 2)
    setReg .SEC_DEBUG_LEFT 0 0 (fieldAt (tokenBytes d) 0x22 2)
    count .SEC_DEBUG_UNLOCKS 0 1) d) := by
  have h := secDebugSubmit_only_answers hr hpf hw hv hsec
  rwa [runAct_def, debugSubmit, run_bind, run_look, hpasses, ← runAct_def] at h

end

/-! While SEC restarts. -/

/-- A module in which a write to one of SEC's registers waits (R460). -/
def secWaits (d : Dev) (n : RegName) (f : FnId) (v : Nat) : Dev := { d with fw := { d.fw with late := d.fw.late ++ [.sec n f v] } }

section
variable (hsec : (procOf d procSEC).st = .restarting) (hkeep : bitOf v.toNat 2 = false)
include hsec hkeep

theorem secKeyRevoke_waits_answers : Answers (.secKeyRevoke f v) s (secWaits d .SEC_KEY_CTRL f v.toNat) :=
  answers_of_secLate (go := true) hr hpf hw rfl rfl (by decide) rfl (runs_secHardware_of_keep hkeep _ _) hsec

theorem secSvnCommit_waits_answers (hgo : bitOf v.toNat 0 = true) : Answers (.secSvnCommit f v) s (secWaits d .SEC_SVN_COMMIT f v.toNat) :=
  answers_of_secLate hr hpf hw rfl hgo (by decide) rfl (runs_secHardware_of_keep hkeep _ _) hsec

theorem secDebugChallenge_waits_answers (hgo : bitOf v.toNat 0 = true) : Answers (.secDebugChallenge f v) s (secWaits d .SEC_DEBUG_CTRL f v.toNat) :=
  answers_of_secLate hr hpf hw rfl hgo (by decide) rfl (runs_secHardware_of_keep hkeep _ _) hsec

theorem secDebugSubmit_waits_answers (hgo : bitOf v.toNat 1 = true) : Answers (.secDebugSubmit f v) s (secWaits d .SEC_DEBUG_CTRL f v.toNat) :=
  answers_of_secLate hr hpf hw rfl hgo (by decide) rfl (runs_secHardware_of_keep hkeep _ _) hsec

end
end

theorem debugUnlockExpiry_answers {s : State} (ha : awake s.dev = true) : Answers .debugUnlockExpiry s (runAct endUnlock s.dev) :=
  answers_of_runAct rfl ha rfl

/-- Settles O59: the writes to SEC's registers while it runs and while it restarts, and the end of an unlock. -/
theorem securityCommands : Obligations.SecurityCommands :=
  fun _ ha => ⟨fun _ _ _ hr hpf hw hsec => ⟨secSvnCommit_burns_answers hr hpf hw hsec, secSvnCommit_keeps_answers hr hpf hw hsec,
      fun _ hh hsec => ⟨secKeyRevoke_idle_answers hr hpf hw hh hsec, secKeyRevoke_burns_answers hr hpf hw hh hsec, secKeyRevoke_refused_answers hr hpf hw hh hsec⟩,
      fun _ hh hsec => ⟨secDebugChallenge_answers hr hpf hw hh hsec, secDebugSubmit_answers hr hpf hw hh hsec, secDebugLock_answers hr hpf hw hh hsec⟩,
      fun _ hv => secDebugSubmit_fails_answers hr hpf hw hv hsec, fun hv => secDebugSubmit_unlocks_answers hr hpf hw hv hsec⟩,
    fun _ _ _ hr hpf hw hsec hkeep => ⟨secKeyRevoke_waits_answers hr hpf hw hsec hkeep, secSvnCommit_waits_answers hr hpf hw hsec hkeep,
      secDebugChallenge_waits_answers hr hpf hw hsec hkeep, secDebugSubmit_waits_answers hr hpf hw hsec hkeep⟩,
    debugUnlockExpiry_answers ha⟩

end Sys2Proof.Proofs

/-! SUPPORT. The admin commands of channels (R348–R351) and FW_LOAD (R465). -/

namespace Sys2Proof.Proofs

open Sys2Proof.Machine Sys2Proof.Safety Sys2Proof.Laws

/-- What CHANNEL_CREATE's block asks for (R349). -/
def chanAsked (b : List Byte) : ChanParams :=
  ⟨fieldAt b 0 2, fieldAt b 4 4, fieldAt b 2 1, fieldAt b 3 1, fieldAt b 8 1, fieldAt b 9 1, fieldAt b 10 2, fieldAt b 0x10 8, fieldAt b 12 1, fieldAt b 0x18 4⟩

/-- What FW_LOAD's block and the bytes read for it come to: as many bytes as the block says (R465). -/
def bundleAsked (b bundle : List Byte) : List Byte := (padTo (fieldAt b 8 4) 0#8 bundle).take (fieldAt b 8 4)

section
variable {s : State} {f : FnId} {e b : List Byte} {d d1 : Dev} (h : AdminTurn s.dev f [] e b d)
include h

/-- CHANNEL_CREATE answers the handle of the end that LNK makes (R349). -/
theorem channelCreate_answers {handle : Nat} (hop : cmdOp e = 0xE) (hlnk : procRuns d procLNK = true)
    (hrma : bitOf (fieldAt b 12 1) 0 = true → hasFeat d f 22 = true)
    (hmade : Runs (createChan (Fin.ofNat 16 (cmdPart e)) (chanAsked b)) d (.ok handle) d1) :
    Answers (.channelCreate f) s (runAct (adminAnswer f e 0 handle) d1) := by
  refine admin_answers (body := doChanCreate) h rfl (by simp [isOp, hop]) (pure ()) fun k => ?_
  have hoffered : ¬ (bitOf (fieldAt b 12 1) 0 = true ∧ (!hasFeat d f 22) = true) := by
    rintro ⟨hbit, hno⟩
    rw [hrma hbit] at hno
    exact Bool.false_ne_true hno
  rw [doChanCreate, run_bind, run_look, run_else (by simp [hlnk]), run_else hoffered, run_bind]
  exact hmade _

/-- CHANNEL_DESTROY destroys the partition's end (R351). -/
theorem channelDestroy_answers {i : ChanIdx} {c : Chan} (hop : cmdOp e = 0xF) (hlnk : procRuns d procLNK = true)
    (hend : chanBy d (fieldAt b 0 4) = some (i, c)) (hpart : c.part = Fin.ofNat 16 (cmdPart e)) : Answers (.channelDestroy f) s (runAct (do
      destroyChan i
      adminAnswer f e 0 0) d) := by
  refine admin_answers (body := doChanDestroy) h rfl (by simp [isOp, hop]) (destroyChan i) fun k => ?_
  rw [doChanDestroy, run_bind, run_look, run_else (by simp [hlnk]), hend]
  exact run_else (not_not.mpr hpart) _ _

/-- FW_LOAD reads a bundle and starts its load, and is answered when the load ends (R465). -/
theorem fwLoad_answers {bundle : List Byte} {dma : Bool} (hop : cmdOp e = 0x17) (hsec : procRuns d procSEC = true)
    (hfree : ((d.fw.load.map fun l => !l.told).getD false) = false)
    (hstarts : Runs (startLoad f (cmdTag e) (bundleAsked b bundle) dma (bitOf (fieldAt b 12 4) 0))
      { d with out := d.out ++ [.hostRead f (fieldAt b 0 8) (fieldAt b 8 4)] } none d1) :
    Answers (.fwLoad f bundle dma) s (runAct (adminTaken f) d1) := by
  refine admin_later_answers (body := doFwLoad bundle dma) h rfl (by simp [isOp, hop]) (pure ()) fun k => ?_
  rw [doFwLoad, run_bind, run_look, run_else (by simp [hsec]), run_else (by simp [hfree]), run_bind, run_emit, run_bind]
  exact hstarts _

end

/-- Settles O40: each command by what its block asks for. -/
theorem adminChannelAndLoadCommands : Obligations.AdminChannelAndLoadCommands :=
  fun _ _ _ _ _ h => ⟨fun _ _ => channelCreate_answers h, fun _ _ => channelDestroy_answers h, fun _ _ _ => fwLoad_answers h⟩

end Sys2Proof.Proofs

/-! SUPPORT. SEND and RECV: what their 64-byte descriptor says, and what the stream engine does with one that passes its checks (R353–R356). -/

namespace Sys2Proof.Proofs

open Sys2Proof.Machine Sys2Proof.Safety Sys2Proof.Laws

/-! The descriptor (R353, R354). -/

/-- Where in the scratchpad the descriptor of a SEND or RECV lies. -/
def descAt (x : Slot) (w : Nat) : Nat := x.phys (bitsOf w 85 64)

/-- Whether a descriptor names its bytes by a virtual address. -/
def descVa (bs : List Byte) : Bool := bitOf (fieldAt bs 5 1) 1

/-- Where the bytes that a descriptor names lie. -/
def descAddr (x : Slot) (bs : List Byte) : Nat := if descVa bs then fieldAt bs 8 8 else x.phys (fieldAt bs 8 8)

/-- The command's done counter, as it names one. -/
def doneOf (w : Nat) : Option Nat := if bitOf w 16 then some (bitsOf w 21 17) else none

/-- A descriptor that SEND and RECV both accept: the command's fields, its window, sound bytes, an address in range, and zeros where none is defined. -/
structure DescSound (x : Slot) (e : Dev) (c : CoreId) (w : Nat) (bs : List Byte) : Prop where
  fields : sendFieldsOk w = true
  window : x.inWindow (bitsOf w 85 64) 64 = true
  sound : badIn e (.spad c) (descAt x w) 64 = []
  bytes : bytesOf e (.spad c) (descAt x w) 64 = bs
  align : fieldAt bs 8 8 % 8 = 0
  range : fieldAt bs 8 8 / 2 ^ (if descVa bs then 48 else 22) = 0
  zero : (bs.drop 0x24).all (· == 0#8) = true

theorem DescSound.no_reserved {x : Slot} {e : Dev} {c : CoreId} {w : Nat} {bs : List Byte} (h : DescSound x e c w bs) :
    ((bs.drop 0x24).any (· != 0#8)) = false := by
  rw [List.any_eq_false]
  intro b hb
  simpa using List.all_eq_true.mp h.zero b hb

/-- An address in the scratchpad lies in the task's window with what is moved; a virtual one is checked as the bytes move. -/
def spanOk (x : Slot) (bs : List Byte) (n : Nat) : Prop := descVa bs = false → x.inWindow (fieldAt bs 8 8) n = true

theorem spanOk.not_bad {x : Slot} {bs : List Byte} {n : Nat} (h : spanOk x bs n) : ¬ ((!descVa bs && !x.inWindow (fieldAt bs 8 8) n) = true) := by
  cases hva : descVa bs with
  | true => simp
  | false => simp [h hva]

/-- A RECV as it waits at its channel end (R356). -/
def recvOf (c : CoreId) (x : Slot) (seq w : Nat) (bs : List Byte) : RecvJob :=
  ⟨c, x.part, x.tid, seq, doneOf w, descAt x w + 0x20, descVa bs, descAddr x bs, fieldAt bs 0x10 4, 0⟩

/-- Whose the messages of a SEND are (R355). -/
def senderOf (c : CoreId) (x : Slot) (seq w : Nat) : Owner := .task c x.part x.tid seq (doneOf w) (descAt x w + 0x20)

/-! What the engine does with a SEND that it has taken. -/

/-- The channel's kind suits a mode (R354). -/
def sendKindOk (mode : Nat) (ch : Chan) : Bool := if mode = 1 then ch.kind == 1 else ch.kind == 0 || ch.kind == 3

/-- The length suits a mode (R354). -/
def sendLenOk (mode n : Nat) : Bool := if mode = 1 then n != 0 && n % 32 == 0 else decide (8 ≤ n) && decide (n ≤ 2 ^ 24) && n % 8 == 0

/-- The messages of a SEND (R355). -/
def sendMsgs (e : Dev) (c : CoreId) (x : Slot) (ch : Chan) (bs : List Byte) : List OutMsg :=
  if fieldAt bs 4 1 = 1 then contribOf e c x ch bs (descVa bs) (descAddr x bs) (fieldAt bs 0x10 4)
  else byteMsgs ch.slotBytes (descVa bs) c (descAddr x bs) (bitOf (fieldAt bs 5 1) 0) (fieldAt bs 0x10 4 / ch.slotBytes + 1) 0 (fieldAt bs 0x10 4)

theorem sendKindOk_bytes {ch : Chan} (h : ch.kind = 0 ∨ ch.kind = 3) : sendKindOk 0 ch = true := by
  obtain h | h := h <;> rw [sendKindOk, h] <;> rfl

theorem sendKindOk_contrib {ch : Chan} (h : ch.kind = 1) : sendKindOk 1 ch = true := by
  rw [sendKindOk, h]
  rfl

theorem sendLenOk_bytes {n : Nat} (hmin : 8 ≤ n) (hmax : n ≤ 2 ^ 24) (hwhole : n % 8 = 0) : sendLenOk 0 n = true := by
  rw [sendLenOk, if_neg zero_ne_one, decide_eq_true hmin, decide_eq_true hmax, hwhole]
  rfl

theorem sendLenOk_contrib {n : Nat} (hsome : n ≠ 0) (hwhole : n % 32 = 0) : sendLenOk 1 n = true := by
  rw [sendLenOk, if_pos rfl, hwhole, bne_iff_ne.mpr hsome]
  rfl

section
variable {d e : Dev} {c : CoreId} {k : SlotId} {w seq : Nat} {parity : List ParityHit} {bs : List Byte} {ci : ChanIdx} {ch : Chan} (g : Unit → Prog)
  (hparity : Runs (portParity c parity (descAt (slotOf d c k) w) 64) d () e) (hdesc : DescSound (slotOf d c k) e c w bs)
include hparity hdesc

/-- A SEND that passes its checks queues its messages on its channel (R355). -/
theorem run_actSend (hmode : fieldAt bs 4 1 ≤ 1) (hflags : fieldAt bs 5 1 ≤ 3) (hbase : fieldAt bs 4 1 = 1 → fieldAt bs 0x18 4 % 32 = 0)
    (hspan : spanOk (slotOf d c k) bs (if fieldAt bs 4 1 = 1 then 4 * fieldAt bs 0x10 4 else fieldAt bs 0x10 4))
    (hopen : openChan e (slotOf d c k).part (fieldAt bs 0 4) = some (ci, ch)) (hkind : sendKindOk (fieldAt bs 4 1) ch = true)
    (hlen : sendLenOk (fieldAt bs 4 1) (fieldAt bs 0x10 4) = true) :
    Prog.run (actSend c k parity w seq g) d =
      Prog.run (queueJob ci (senderOf c (slotOf d c k) seq w) (sendMsgs e c (slotOf d c k) ch bs) w g) e := by
  obtain ⟨hfields, hwindow, hsound, hbytes, halign, hrange, -⟩ := id hdesc
  have hform : ¬ (1 < fieldAt bs 4 1 ∨ 3 < fieldAt bs 5 1 ∨ fieldAt bs 8 8 % 8 ≠ 0 ∨ fieldAt bs 8 8 / 2 ^ (if descVa bs then 48 else 22) ≠ 0 ∨
      (bs.drop 0x24).any (· != 0#8) = true ∨ (fieldAt bs 4 1 = 1 ∧ fieldAt bs 0x18 4 % 32 ≠ 0)) := by
    rintro (h | h | h | h | h | ⟨h, hb⟩)
    · exact hmode.not_gt h
    · exact hflags.not_gt h
    · exact h halign
    · exact h hrange
    · exact Bool.false_ne_true (hdesc.no_reserved.symm.trans h)
    · exact hb (hbase h)
  rw [actSend, run_bind, run_look, run_bind, ← descAt, hparity, run_bind, run_look, ← descAt, hbytes, ← descVa,
    run_else (by simp [hfields]), run_else (by simp [hwindow]), run_else (by simp [hsound]), run_else hform, run_else hspan.not_bad, hopen]
  exact run_else (by rw [← sendKindOk, ← sendLenOk, hkind, hlen]; decide) _ _

/-- A RECV that passes its checks waits behind those that wait at its channel end, and takes what has landed (R356). -/
theorem run_actRecv (hmode : fieldAt bs 4 1 = 0) (hflags : fieldAt bs 5 1 = 0 ∨ fieldAt bs 5 1 = 2) (hspan : spanOk (slotOf d c k) bs (fieldAt bs 0x10 4))
    (hend : chanBy e (fieldAt bs 0 4) = some (ci, ch)) (hpart : ch.part = (slotOf d c k).part) (hkind : ch.kind = 0)
    (hlive : ch.st = .opened ∨ ch.st = .failed) (hsome : fieldAt bs 0x10 4 ≠ 0) (hwhole : fieldAt bs 0x10 4 % ch.slotBytes = 0) :
    Prog.run (actRecv c k parity w seq g) d = Prog.run ((do
      setChan ci { ch with recvs := ch.recvs ++ [recvOf c (slotOf d c k) seq w bs] }
      pumpRecvAll ci) g) e := by
  obtain ⟨hfields, hwindow, hsound, hbytes, halign, hrange, -⟩ := id hdesc
  have hform : ¬ (fieldAt bs 4 1 ≠ 0 ∨ (fieldAt bs 5 1 ≠ 0 ∧ fieldAt bs 5 1 ≠ 2) ∨ fieldAt bs 8 8 % 8 ≠ 0 ∨
      fieldAt bs 8 8 / 2 ^ (if descVa bs then 48 else 22) ≠ 0 ∨ (bs.drop 0x24).any (· != 0#8) = true) := by
    rintro (h | ⟨h0, h2⟩ | h | h | h)
    · exact h hmode
    · exact hflags.elim h0 h2
    · exact h halign
    · exact h hrange
    · exact Bool.false_ne_true (hdesc.no_reserved.symm.trans h)
  have hchan : ¬ (ch.part ≠ (slotOf d c k).part ∨ ch.kind ≠ 0 ∨ (ch.st ≠ .opened ∧ ch.st ≠ .failed) ∨ fieldAt bs 0x10 4 = 0 ∨
      fieldAt bs 0x10 4 % ch.slotBytes ≠ 0) := by
    rintro (h | h | ⟨ho, hf⟩ | h | h)
    · exact h hpart
    · exact h hkind
    · exact hlive.elim ho hf
    · exact hsome h
    · exact h hwhole
  rw [actRecv, run_bind, run_look, run_bind, ← descAt, hparity, run_bind, run_look, ← descAt, hbytes, ← descVa,
    run_else (by simp [hfields]), run_else (by simp [hwindow]), run_else (by simp [hsound]), run_else hform, run_else hspan.not_bad, hend]
  exact run_else hchan _ _

end

/-! The commands. -/

/-- A SEND or RECV names no stream, so that the engine takes one behind no other command at once (R89). -/
theorem canTake_message {d : Dev} {c : CoreId} {w : Nat} (h : opOf (w % 256) = some .send ∨ opOf (w % 256) = some .recv) : canTake d c [] w = true := by
  have hstream : namesStream w = none := by
    rw [namesStream]
    obtain h | h := h <;> rw [h]
  simp [canTake, hstream]

section
variable {s : State} {c : CoreId} {k : SlotId} {len w : Nat} {again : Bool} {parity : List ParityHit} (ha : awake s.dev = true)
include ha

/-- The command that slot `k` issues, and the module whose engine has taken it. -/
def tookMessage (d : Dev) (c : CoreId) (k : SlotId) (len w : Nat) (again : Bool) (parity : List ParityHit) : Dev :=
  tookStrm (issued d c k len again true) c (strmCmd d c k w parity)

/-- A module whose engine has a command in its queue behind those that were there. -/
def queuedMessage (d : Dev) (c : CoreId) (k : SlotId) (len w : Nat) (again : Bool) (parity : List ParityHit) : Dev :=
  { issued d c k len again true with strmqs := tabPut (issued d c k len again true).strmqs c (strmQ (issued d c k len again true) c ++ [strmCmd d c k w parity]) }

/-- The SEND command that stands for a mode. -/
def sendInstr (contrib : Bool) (c : CoreId) (k : SlotId) (parity : List ParityHit) : Instr :=
  if contrib then .sendContribution c k parity else .sendBytes c k parity

/-- A SEND of either mode issues into the stream engine's queue (R89, R355). -/
theorem exec_sendInstr (contrib : Bool) (parity : List ParityHit) : exec (sendInstr contrib c k parity) s =
    after (strmIssue (fun op w => op == .send && isContrib s.dev c (slotOf s.dev c k) w == contrib) parity c k) s := by
  have hexec : exec (sendInstr contrib c k parity) s = after (doSend contrib c k parity) s := by cases contrib <;> rfl
  rw [hexec, after_awake ha, after_awake ha]
  rfl

section
variable (ht : Takes s.dev c k .send len w again) {contrib : Bool} (hcontrib : isContrib s.dev c (slotOf s.dev c k) w = contrib)
include ht hcontrib

theorem send_answers : Answers (sendInstr contrib c k parity) s (runAct (kickStrm c 8) (queuedMessage s.dev c k len w again parity)) :=
  strmIssue_answers ha rfl ht (exec_sendInstr ha contrib parity) (by simp [hcontrib])

/-- A SEND that enters an empty queue is taken at once. -/
theorem send_taken_answers (hempty : strmQ s.dev c = []) : Answers (sendInstr contrib c k parity) s (runAct (do
    actSend c k parity w (slotOf s.dev c k).seq
    kickStrm c 7) (tookMessage s.dev c k len w again parity)) := by
  have hop := opOf_of_takes ht
  have h := strmIssue_taken_answers (parity := parity) ha rfl ht (exec_sendInstr ha contrib parity) (by simp [hcontrib]) hempty (canTake_message (.inl hop))
  rwa [show actStrm c (strmCmd s.dev c k w parity) = actSend c k parity w (slotOf s.dev c k).seq by rw [actStrm, strmCmd, hop]] at h

/-- A SEND that enters an empty queue and passes its checks queues its messages on its channel. -/
theorem send_queues_answers {e : Dev} {bs : List Byte} {ci : ChanIdx} {ch : Chan} {x : Slot} (hempty : strmQ s.dev c = [])
    (hx : slotOf (tookMessage s.dev c k len w again parity) c k = x)
    (hparity : Runs (portParity c parity (descAt x w) 64) (tookMessage s.dev c k len w again parity) () e) (hdesc : DescSound x e c w bs)
    (hmode : fieldAt bs 4 1 ≤ 1) (hflags : fieldAt bs 5 1 ≤ 3) (hbase : fieldAt bs 4 1 = 1 → fieldAt bs 0x18 4 % 32 = 0)
    (hspan : spanOk x bs (if fieldAt bs 4 1 = 1 then 4 * fieldAt bs 0x10 4 else fieldAt bs 0x10 4))
    (hopen : openChan e x.part (fieldAt bs 0 4) = some (ci, ch)) (hkind : sendKindOk (fieldAt bs 4 1) ch = true)
    (hlen : sendLenOk (fieldAt bs 4 1) (fieldAt bs 0x10 4) = true) :
    Answers (sendInstr contrib c k parity) s (runAct (do
      queueJob ci (senderOf c x (slotOf s.dev c k).seq w) (sendMsgs e c x ch bs) w
      kickStrm c 7) e) := by
  subst hx
  have h := send_taken_answers (parity := parity) ha ht hcontrib hempty
  rwa [runAct_def, run_bind, run_actSend _ hparity hdesc hmode hflags hbase hspan hopen hkind hlen] at h

section
variable {e : Dev} {bs : List Byte} {ci : ChanIdx} {ch : Chan} {x : Slot} (hempty : strmQ s.dev c = [])
  (hx : slotOf (tookMessage s.dev c k len w again parity) c k = x)
  (hparity : Runs (portParity c parity (descAt x w) 64) (tookMessage s.dev c k len w again parity) () e) (hdesc : DescSound x e c w bs)
  (hflags : fieldAt bs 5 1 ≤ 3) (hopen : openChan e x.part (fieldAt bs 0 4) = some (ci, ch))
include hempty hx hparity hdesc hflags hopen

/-- Mode 0: the byte messages of the source (R355). -/
theorem send_bytes_answers (hmode : fieldAt bs 4 1 = 0) (hspan : spanOk x bs (fieldAt bs 0x10 4)) (hkind : ch.kind = 0 ∨ ch.kind = 3)
    (hmin : 8 ≤ fieldAt bs 0x10 4) (hmax : fieldAt bs 0x10 4 ≤ 2 ^ 24) (hwhole : fieldAt bs 0x10 4 % 8 = 0) :
    Answers (sendInstr contrib c k parity) s (runAct (do
      queueJob ci (senderOf c x (slotOf s.dev c k).seq w) (byteMsgs ch.slotBytes (descVa bs) c (descAddr x bs) (bitOf (fieldAt bs 5 1) 0)
        (fieldAt bs 0x10 4 / ch.slotBytes + 1) 0 (fieldAt bs 0x10 4)) w
      kickStrm c 7) e) := by
  have h := send_queues_answers ha ht hcontrib hempty hx hparity hdesc (by omega) hflags (by omega) (by rwa [hmode]) hopen
    (by rw [hmode]; exact sendKindOk_bytes hkind) (by rw [hmode]; exact sendLenOk_bytes hmin hmax hwhole)
  rwa [sendMsgs, hmode, if_neg zero_ne_one] at h

/-- Mode 1: a contribution (R355). -/
theorem send_contribution_answers (hmode : fieldAt bs 4 1 = 1) (hspan : spanOk x bs (4 * fieldAt bs 0x10 4)) (hkind : ch.kind = 1)
    (hsome : fieldAt bs 0x10 4 ≠ 0) (hwhole : fieldAt bs 0x10 4 % 32 = 0) (hbase : fieldAt bs 0x18 4 % 32 = 0) :
    Answers (sendInstr contrib c k parity) s (runAct (do
      queueJob ci (senderOf c x (slotOf s.dev c k).seq w) (contribOf e c x ch bs (descVa bs) (descAddr x bs) (fieldAt bs 0x10 4)) w
      kickStrm c 7) e) := by
  have h := send_queues_answers ha ht hcontrib hempty hx hparity hdesc (by omega) hflags (fun _ => hbase) (by rwa [hmode]) hopen
    (by rw [hmode]; exact sendKindOk_contrib hkind) (by rw [hmode]; exact sendLenOk_contrib hsome hwhole)
  rwa [sendMsgs, hmode, if_pos rfl] at h

end

end

section
variable (ht : Takes s.dev c k .recv len w again)
include ht

theorem recv_answers : Answers (.recv c k parity) s (runAct (kickStrm c 8) (queuedMessage s.dev c k len w again parity)) :=
  strmIssue_answers ha rfl ht rfl rfl

/-- A RECV that enters an empty queue is taken at once. -/
theorem recv_taken_answers (hempty : strmQ s.dev c = []) : Answers (.recv c k parity) s (runAct (do
    actRecv c k parity w (slotOf s.dev c k).seq
    kickStrm c 7) (tookMessage s.dev c k len w again parity)) := by
  have hop := opOf_of_takes ht
  have h := strmIssue_taken_answers (parity := parity) (i := .recv c k parity) ha rfl ht rfl rfl hempty (canTake_message (.inr hop))
  rwa [show actStrm c (strmCmd s.dev c k w parity) = actRecv c k parity w (slotOf s.dev c k).seq by rw [actStrm, strmCmd, hop]] at h

/-- A RECV that enters an empty queue and passes its checks waits at its channel end and takes what has landed. -/
theorem recv_waits_answers {e : Dev} {bs : List Byte} {ci : ChanIdx} {ch : Chan} {x : Slot} (hempty : strmQ s.dev c = [])
    (hx : slotOf (tookMessage s.dev c k len w again parity) c k = x)
    (hparity : Runs (portParity c parity (descAt x w) 64) (tookMessage s.dev c k len w again parity) () e) (hdesc : DescSound x e c w bs)
    (hmode : fieldAt bs 4 1 = 0) (hflags : fieldAt bs 5 1 = 0 ∨ fieldAt bs 5 1 = 2) (hspan : spanOk x bs (fieldAt bs 0x10 4))
    (hend : chanBy e (fieldAt bs 0 4) = some (ci, ch)) (hpart : ch.part = x.part) (hkind : ch.kind = 0) (hlive : ch.st = .opened ∨ ch.st = .failed)
    (hsome : fieldAt bs 0x10 4 ≠ 0) (hwhole : fieldAt bs 0x10 4 % ch.slotBytes = 0) : Answers (.recv c k parity) s (runAct (do
      setChan ci { ch with recvs := ch.recvs ++ [recvOf c x (slotOf s.dev c k).seq w bs] }
      pumpRecvAll ci
      kickStrm c 7) e) := by
  subst hx
  have h := recv_taken_answers (parity := parity) ha ht hempty
  rwa [runAct_def, run_bind, run_actRecv _ hparity hdesc hmode hflags hspan hend hpart hkind hlive hsome hwhole] at h

end
end

/-- Settles O19: a SEND and a RECV enter the engine's queue; one that the engine takes and that passes its checks goes to its channel. -/
theorem sendsAndReceives : Obligations.SendsAndReceives := by
  refine ⟨fun s c k len w again parity ha ht => ⟨send_answers (contrib := false) ha ht, send_answers (contrib := true) ha ht,
      fun e ci ch hempty hparity hfields hwindow hsound hflags halign hrange hzero hopen => ?send⟩,
    fun s c k len w again parity ha ht => ⟨recv_answers ha ht,
      fun e ci ch hempty hparity hfields hwindow hsound hmode hflags halign hrange hzero hspan hend hpart hkind hlive hsome hwhole =>
        recv_waits_answers ha ht hempty rfl hparity ⟨hfields, hwindow, hsound, rfl, halign, hrange, hzero⟩ hmode hflags hspan hend hpart hkind hlive
          hsome hwhole⟩⟩
  case send =>
    have hdesc := DescSound.mk hfields hwindow hsound rfl halign hrange hzero
    exact ⟨fun hcontrib hmode hspan hkind hmin hmax hwhole =>
        send_bytes_answers (contrib := false) ha ht hcontrib hempty rfl hparity hdesc hflags hopen hmode hspan hkind hmin hmax hwhole,
      fun hcontrib hmode hspan hkind hsome hwhole hbase =>
        send_contribution_answers (contrib := true) ha ht hcontrib hempty rfl hparity hdesc hflags hopen hmode hspan hkind hsome hwhole hbase⟩

end Sys2Proof.Proofs

/-! SUPPORT. The processors' mailboxes, faults, restarts and log (R453, R458–R466, R469). -/

namespace Sys2Proof.Proofs

open Sys2Proof.Machine Sys2Proof.Safety Sys2Proof.Laws

/-- A module whose processor `i` has begun to restart (R459). -/
def procRestarted (d : Dev) (i : ProcId) : Dev := runAct (do
  updProc i fun x => { x with
    st := .restarting
    inbox := [] }
  count .FW_RESTART 0 1 i
  logAt 0 5 none) d

section
variable {d : Dev} {i : ProcId}

/-- A restart that no load asks for, of a processor that runs. -/
theorem run_restartProc (hrun : (procOf d i).st = .running) : runAct (restartProc i false) d = procRestarted d i := by
  rw [runAct_def, restartProc, run_bind, run_look, run_onlyIf, if_pos (by simp [hrun])]
  rfl

/-- A processor that does not run is not restarted. -/
theorem run_restartProc_idle (hidle : (procOf d i).st ≠ .running) : runAct (restartProc i false) d = d := by
  rw [runAct_def, restartProc, run_bind, run_look, run_onlyIf, if_neg (by simp [hidle])]
  rfl

end

section
variable {s : State} (ha : awake s.dev = true)
include ha

/-! Mailboxes. -/

section
variable {src dst : ProcId} {msg : List Byte}

/-- A processor that does not run sends nothing, none sends to itself, and a full queue makes the sender wait (R453). -/
theorem mailboxMessage_idle_answers
    (hidle : procRuns s.dev src = false ∨ src = dst ∨ 32 ≤ (tabGet s.dev.fw.mail (src, dst) []).length) : Answers (.mailboxMessage src dst msg) s s.dev := by
  refine answers_of_runAct (m := doMailbox src dst msg) rfl ha ?_
  have hno : ¬ ((procRuns s.dev src && src != dst && decide ((tabGet s.dev.fw.mail (src, dst) []).length < 32)) = true) := by
    obtain h | h | h := hidle <;> simp [h]
  rw [runAct_def, doMailbox, run_guarded ha, run_bind, run_look, run_onlyIf, if_neg hno]
  rfl

section
variable (hsrc : procRuns s.dev src = true) (hne : src ≠ dst) (hroom : (tabGet s.dev.fw.mail (src, dst) []).length < 32)
include hsrc hne hroom

theorem mailboxMessage_delivered_answers (hdst : procRuns s.dev dst = true) :
    Answers (.mailboxMessage src dst msg) s (runAct (updProc dst fun x => { x with inbox := x.inbox ++ [(src, msg)] }) s.dev) := by
  refine answers_of_runAct (m := doMailbox src dst msg) rfl ha ?_
  rw [runAct_def, doMailbox, run_guarded ha, run_bind, run_look, run_onlyIf, if_pos (by simp [hsrc, hne, hroom]), run_ite, if_pos hdst, runAct_def]

theorem mailboxMessage_queued_answers (hdst : procRuns s.dev dst = false) : Answers (.mailboxMessage src dst msg) s
    { s.dev with fw := { s.dev.fw with mail := tabPut s.dev.fw.mail (src, dst) (tabGet s.dev.fw.mail (src, dst) [] ++ [msg]) } } := by
  refine answers_of_runAct (m := doMailbox src dst msg) rfl ha ?_
  rw [runAct_def, doMailbox, run_guarded ha, run_bind, run_look, run_onlyIf, if_pos (by simp [hsrc, hne, hroom]), run_else (by simp [hdst])]
  rfl

end
end

/-! Faults and the watchdog. -/

section
variable {i : ProcId}

theorem processorFault_answers {why : ProcFault} (hwhy : why ≠ .sharedWord) : Answers (.processorFault i why) s (runAct (restartProc i false) s.dev) := by
  refine answers_of_runAct (m := doProcFault i why) rfl ha ?_
  rw [runAct_def, doProcFault, run_guarded ha, run_else hwhy, runAct_def]

/-- A word that processors share and that does not check is a module error (R452). -/
theorem processorFault_shared_answers : Answers (.processorFault i .sharedWord) s (runAct (moduleError 4 i.val) s.dev) := by
  refine answers_of_runAct (m := doProcFault i .sharedWord) rfl ha ?_
  rw [runAct_def, doProcFault, run_guarded ha, run_ite, if_pos rfl, runAct_def]

theorem processorWatchdogExpiry_answers : Answers (.processorWatchdogExpiry i) s (runAct (restartProc i false) s.dev) := by
  refine answers_of_runAct (m := doProcWatchdog i) rfl ha ?_
  rw [runAct_def, doProcWatchdog, run_guarded ha, runAct_def]

end

/-! The log, and BAL's deferred activation. -/

theorem balActivationDue_answers {l : FwLoad} (hload : s.dev.fw.load = some l) (hdeferred : bitOf (regOf s.dev .FW_STATUS 0) 16 = true)
    (hbal : l.act.head? = some 1) (hcalm : emergency s.dev = false) : Answers .balActivationDue s (runAct (do
      setField .FW_STATUS 0 0 16 16 0
      restartProc procBAL true) s.dev) := by
  refine answers_of_runAct (m := doBalDue) rfl ha ?_
  rw [runAct_def, doBalDue, run_guarded ha, run_bind, run_look, hload, run_onSome_some, run_onlyIf, if_pos (by simp [hdeferred, hbal, hcalm]), runAct_def]

theorem logAppend_answers {q : LogReq} (hrun : procRuns s.dev q.proc = true) :
    Answers (.logAppend q) s (runAct (logAppend q.proc.val q.level.val q.point.toNat q.part q.payload) s.dev) := by
  refine answers_of_runAct (m := doLogAppend q) rfl ha ?_
  rw [runAct_def, doLogAppend, run_guarded ha, run_bind, run_look, run_onlyIf, if_pos hrun, runAct_def]

end

/-- FW_PROC_CTRL restarts the processors that it names (R458). -/
theorem fwProcRestart_answers {s : State} {f : FnId} {v : Word} {e : Dev} (hr : reaches s.dev f = true) (hpf : isPf f = true)
    (hw : Runs wakeFabric s.dev () e) (hr' : reaches e f = true) : Answers (.fwProcRestart f v) s (runAct (each (List.finRange 6) fun i =>
      onlyIf (bitOf v.toNat i.val) do
        orReg .FW_PROC_CTRL 0 0 (2 ^ i.val)
        onlyIf ((procOf e i).st == .running || (procOf e i).st == .restarting) (restartProc i false)) e) := by
  refine answers_of_control (go := true) hr hpf hw rfl rfl (by decide) ?_
  rw [controlAct, runAct_def, doProcRestart, run_bind, run_look, run_onlyIf, if_pos (by simp [hr', hpf]), runAct_def]

/-! The end of a restart (R459, R463–R465). That HALTED is judged here, and that the inbox is dropped, is log entry 89. -/

/-- Whether the end of a restart is the next activation of a load (R465). -/
def activating (d : Dev) (i : ProcId) : Bool :=
  (d.fw.load.map fun l => l.act.head? == some i.val && !(bitOf (regOf d .FW_STATUS 0) 16 && i == procBAL)).getD false

/-- The bundle from which a restarted processor takes its component: the new one when its own component is no longer the running one's by digest. -/
def restartStore (d : Dev) (i : ProcId) : List Byte :=
  if activating d i ∨ Config.sm3 (bundleComp d.fw.running i.val) ≠ Config.sm3 (procOf d i).comp then d.fw.pend else d.fw.running

/-- The times of a processor's restarts within 600 s (R463). -/
def recentRestarts (d : Dev) (i : ProcId) (second : Nat) : List Nat := second :: (procOf d i).times.filter fun t => decide (second < t + 600)

/-- The entry of a processor in a bundle. -/
def procEntry (store : List Byte) (i : ProcId) : Option (List Byte) :=
  ((List.range 6).find? fun j => fieldAt (bundleEntry store j) 0 1 == i.val).map (bundleEntry store)

/-- A bundle's component of a processor has the digest of its entry (R464). -/
def StoredGood (store : List Byte) (i : ProcId) : Prop := (procEntry store i).map (·.drop 16) = some (Config.sm3 (bundleComp store i.val))

/-- A processor runs again with a bundle's component; an activation counts and is measured, and the load goes on to the next (R465). -/
def procRunsAgain (d : Dev) (i : ProcId) (second : Nat) (store : List Byte) (act : Bool) : Act Unit := do
  setReg .FW_PROC_CTRL 0 0 (regOf d .FW_PROC_CTRL 0 &&& (63 - 2 ^ i.val))
  updProc i fun y => { y with
    st := .running
    times := recentRestarts d i second
    comp := bundleComp store i.val
    pending := if act then false else y.pending }
  takeMail i
  onlyIf (i == procMEM) liftRoots
  onlyIf act do
    measureComp i.val (bundleComp store i.val)
    count .FW_ACTIVATIONS 0 1
    logEvent 5
    updFw fun y => { y with load := y.load.map fun l => { l with
      act := l.act.tail
      done := l.done ++ [i.val] } }
  loadProgress

/-- A processor is held HALTED. -/
def procHalts (d : Dev) (i : ProcId) (second : Nat) : Act Unit := do
  setReg .FW_PROC_CTRL 0 0 (regOf d .FW_PROC_CTRL 0 &&& (63 - 2 ^ i.val))
  updProc i fun y => { y with
    st := .halted
    times := recentRestarts d i second
    pending := false }
  logEvent 5
  onlyIf (i == procHIF || i == procSEC) (moduleError 5 i.val)
  loadProgress

/-- Outside an activation, the fifth restart within 600 s halts a processor; so does a component that is not its entry's by digest (R463, R464). -/
def Halts (d : Dev) (i : ProcId) (second : Nat) : Prop :=
  4 < (recentRestarts d i second).length ∧ (!activating d i) = true ∨ ¬ StoredGood (restartStore d i) i

section
variable {s : State} {i : ProcId} {second : Nat} (ha : awake s.dev = true) (hst : (procOf s.dev i).st = .restarting)
  (hsec : i = procSEC ∨ procRuns s.dev procSEC = true)
include ha hst hsec

theorem processorRestartComplete_halts_answers (hhalts : Halts s.dev i second) :
    Answers (.processorRestartComplete i second) s (runAct (procHalts s.dev i second) s.dev) := by
  refine answers_of_runAct (m := doRestartDone i second) rfl ha ?_
  rw [runAct_def, doRestartDone, run_guarded ha, run_bind, run_look, run_onlyIf, if_pos (by simpa [hst] using hsec)]
  dsimp only
  rw [← activating, ← restartStore, ← recentRestarts, ← procEntry, run_bind, run_setReg, run_ite]
  exact if_pos hhalts

theorem processorRestartComplete_runs_answers (hruns : ¬ Halts s.dev i second) : Answers (.processorRestartComplete i second) s
    (runAct (procRunsAgain s.dev i second (restartStore s.dev i) (activating s.dev i)) s.dev) := by
  refine answers_of_runAct (m := doRestartDone i second) rfl ha ?_
  rw [runAct_def, doRestartDone, run_guarded ha, run_bind, run_look, run_onlyIf, if_pos (by simpa [hst] using hsec)]
  dsimp only
  rw [← activating, ← restartStore, ← recentRestarts, ← procEntry, run_bind, run_setReg, run_ite]
  exact if_neg hruns

/-- The next activation of a load ends with the new bundle's component, however often the processor has restarted (R465). -/
theorem processorRestartComplete_activates_answers (hact : activating s.dev i = true) (hgood : StoredGood s.dev.fw.pend i) :
    Answers (.processorRestartComplete i second) s (runAct (procRunsAgain s.dev i second s.dev.fw.pend true) s.dev) := by
  have hstore : restartStore s.dev i = s.dev.fw.pend := if_pos (.inl hact)
  have hruns : ¬ Halts s.dev i second := by simp [Halts, hact, hstore, hgood]
  have h := processorRestartComplete_runs_answers ha hst hsec hruns
  rwa [hstore, hact] at h

end

theorem activating_iff {d : Dev} {i : ProcId} {l : FwLoad} (hload : d.fw.load = some l) :
    activating d i = true ↔ l.act.head? = some i.val ∧ ¬ (bitOf (regOf d .FW_STATUS 0) 16 = true ∧ i = procBAL) := by
  rw [activating, hload]
  cases bitOf (regOf d .FW_STATUS 0) 16 <;> simp

/-! Why ProcessorEvents is neither proved nor refuted. After a restart that is no activation the model takes the component by the digest of the one that
the processor holds (`restartStore`), and the statement takes it by what the load has activated. `Config.sm3` is a free constant (log entry 3): with one
digest for everything the two differ, and with digests that fit no entry neither is ever run. -/

/-- A bundle's entry holds at most 32 bytes of digest. -/
theorem not_storedGood_of_long_digest (h : ∀ b, 32 < (Config.sm3 b).length) (store : List Byte) (i : ProcId) : ¬ StoredGood store i := by
  intro hgood
  obtain ⟨entry, hentry, hdigest⟩ := Option.map_eq_some_iff.mp hgood
  obtain ⟨j, -, rfl⟩ := Option.map_eq_some_iff.mp hentry
  have hlen := h (bundleComp store i.val)
  rw [← hdigest] at hlen
  simp only [bundleEntry, List.length_drop, List.length_take] at hlen
  omega

/-- ProcessorEvents holds in a reading in which no digest fits an entry. -/
theorem processorEvents_of_long_digest (h : ∀ b, 32 < (Config.sm3 b).length) : Obligations.ProcessorEvents := by
  refine fun s ha => ⟨fun _ _ _ => mailboxMessage_idle_answers ha, fun src dst msg hsrc hne hroom => ⟨mailboxMessage_delivered_answers ha hsrc hne hroom,
      mailboxMessage_queued_answers ha hsrc hne hroom⟩,
    fun i why hrun => ⟨fun hwhy => ?_, ?_⟩, fun i => processorFault_shared_answers ha, fun i why hidle => ⟨fun hwhy => ?_, ?_⟩,
    fun _ _ _ => fwProcRestart_answers, fun i second store hst hsec hstore => ⟨fun _ hgood => absurd hgood (not_storedGood_of_long_digest h store i),
      fun _ => processorRestartComplete_halts_answers ha hst hsec (.inr (not_storedGood_of_long_digest h _ i))⟩,
    fun i second l hst hsec hload hnext hdue hgood => ?_, fun _ => balActivationDue_answers ha, fun _ => logAppend_answers ha⟩
  · exact (congrArg (Answers _ s) (run_restartProc hrun)).mp (processorFault_answers ha hwhy)
  · exact (congrArg (Answers _ s) (run_restartProc hrun)).mp (processorWatchdogExpiry_answers ha)
  · exact (congrArg (Answers _ s) (run_restartProc_idle hidle)).mp (processorFault_answers ha hwhy)
  · exact (congrArg (Answers _ s) (run_restartProc_idle hidle)).mp (processorWatchdogExpiry_answers ha)
  · exact processorRestartComplete_activates_answers ha hst hsec ((activating_iff hload).mpr ⟨hnext, hdue⟩) ((Option.map_map ..).trans hgood)

/-- A bundle whose only entry is SUP's, with a digest of zeros and a component of one byte. -/
def supBundle (b : Byte) : List Byte := List.replicate 64 0#8 ++ leBytes 4 5 ++ leBytes 4 112 ++ leBytes 4 1 ++ List.replicate 36 0#8 ++ [b]

/-- SUP restarts, with the old bundle's component, in a load that has activated it; only BAL's deferred activation is left. -/
def supRestarting : Dev := { Dev.reset with
  fw := { Fw.reset with
    running := supBundle 0
    pend := supBundle 1
    load := some ⟨0, 9, [1], [5], true⟩
    procs := [(procSEC, { Proc.empty with st := .running }), (procSUP, { Proc.empty with st := .restarting, comp := [0#8] })] }
  regs := [(⟨.FW_STATUS, 0, 0⟩, 0x10000#32)] }

/-- SUP runs again with a bundle's component. -/
def supRestarted (store : List Byte) : Dev := runAct (procRunsAgain supRestarting procSUP 50 store false) supRestarting

/-- Which component it is shows. -/
theorem settle_supRestarted_ne : settle (supRestarted (supBundle 0)) ≠ settle (supRestarted (supBundle 1)) := by
  have hrest : ∀ b ∈ [0#8, 1#8], goesOn (supRestarted (supBundle b)) = false := by decide +kernel
  rw [settle_at_rest (.inr (hrest 0 (by decide))), settle_at_rest (.inr (hrest 1 (by decide)))]
  intro heq
  have hcomp : (procOf (supRestarted (supBundle 0)) procSUP).comp = (procOf (supRestarted (supBundle 1)) procSUP).comp := by rw [heq]
  exact absurd hcomp (by decide +kernel)

section
variable (h : ∀ b, Config.sm3 b = List.replicate 32 0#8)
include h

theorem storedGood_supBundle : ∀ b ∈ [0#8, 1#8], StoredGood (supBundle b) procSUP := by
  simp only [StoredGood, h]
  decide +kernel

/-- The model runs the old bundle's component, for its digest is that of the component held. -/
theorem supRestart_answers : Answers (.processorRestartComplete procSUP 50) ⟨[], supRestarting⟩ (supRestarted (supBundle 0)) := by
  have hlater : activating supRestarting procSUP = false := by decide
  have hstore : restartStore supRestarting procSUP = supBundle 0 := by rw [restartStore, hlater, h, h]; rfl
  have hruns : ¬ Halts supRestarting procSUP 50 := by
    rw [Halts, hstore]
    exact not_or.mpr ⟨by decide, not_not.mpr (storedGood_supBundle h 0 (by decide))⟩
  have hanswers := processorRestartComplete_runs_answers (s := ⟨[], supRestarting⟩) (by decide) (by decide) (.inr (by decide)) hruns
  rwa [hstore, hlater] at hanswers

/-- ProcessorEvents fails in a reading in which everything has one digest: it would have the processor run the new bundle's component. -/
theorem not_processorEvents_of_one_digest : ¬ Obligations.ProcessorEvents := by
  intro hevents
  obtain ⟨-, -, -, -, -, -, hrestart, -⟩ := hevents ⟨[], supRestarting⟩ (by decide)
  obtain ⟨hnew, -⟩ := hrestart procSUP 50 (supBundle 1) (by decide) (.inr (by decide)) (.inr ⟨_, rfl, by decide, by decide⟩)
  have hanswers : Answers (.processorRestartComplete procSUP 50) ⟨[], supRestarting⟩ (supRestarted (supBundle 1)) :=
    hnew (by decide) (storedGood_supBundle h 1 (by decide))
  exact settle_supRestarted_ne (congrArg State.dev (Host.Outcome.next.inj ((supRestart_answers h).symm.trans hanswers)))

end

end Sys2Proof.Proofs
